-- ==== Sys2Proof/Word.lean ====
section
/-! DEFINITION. The word types of the model: bytes, 64-bit registers (R16), 64-byte commands (R252),
and the sparse table type in which memories and register files are held as plain data. -/

namespace Sys2Proof

/-- One byte of a memory, an image or a frame. -/
abbrev Byte := BitVec 8

/-- One 64-bit register (R16). -/
abbrev Word := BitVec 64

/-- A run of bytes, lowest address first (R17: little-endian fields). -/
abbrev Bytes := List Byte

/-- One 64-byte command (R252); the byte at offset `o` is bits `[8o+7:8o]`. -/
abbrev Cmd := BitVec 512

/-- A sparse table: pairs of a key and a value with strictly rising keys, in which no listed value is
the default; an unlisted key reads as the default. `Tab.get`, `Tab.put` and `Tab.wf` stand in
`Machine/Bits.lean`. -/
abbrev Tab (α : Type) := List (Nat × α)

end Sys2Proof
end

