-- ==== Sys2Proof/Syntax.lean ====
section
/-! DEFINITION. The commands of the block: one constructor for each row of the spec's table of operations and events,
in the table's order, with the operands that the step carries from outside the block. -/

namespace Sys2Proof

/-- The straps sampled at a reset (R407): the parameter set of the part, form_id, fed_size, compat_level and
idcode_mfr. -/
structure Straps where
  set : BitVec 2
  form : BitVec 3
  fed : BitVec 2
  compat : BitVec 2
  mfr : BitVec 11
  /-- The form's minimum service set is whole, as its reset finds it (R350, R351). -/
  whole : Bool
  deriving DecidableEq, Repr

/-- Where SCRUB_READ finds an error (R347 to R349): the scrub, or another read, of the cloakroom word at byte address 8 · `w`;
a read of a directory entry or its recompute record, a bell, an assembly, queue state or a stream context (0 to 4); of the operand
store of a unit; of another protected array (partial stores, history stores, codec buffers, replay buffers: 0 to 3); or of control
state at another form, which tells that it has left L1 (R351). -/
inductive SramAt where
  | scrub (w : BitVec 24)
  | cloak (w : BitVec 24)
  | control (a : BitVec 3)
  | operand (unit : BitVec 3)
  | array (a : BitVec 2)
  | peer
  deriving DecidableEq, Repr

/-- Whose satchel SATCHEL_RECEIVE takes (R201, R202): that of the form's own context `c`; one that another form's context `c` sent
along the weight chain, from the next neighbour; or no satchel: another form's commit, or its failed check, of a satchel of this
form's context `c`; or whether the next neighbour below or above in the CHAIN order gives credit. -/
inductive ChainMsg where
  | own (c : BitVec 12)
  | satchel (c : BitVec 12) (form : BitVec 3) (slot : BitVec 32) (t1 load : Bool) (sat : Bytes)
  | committed (c : BitVec 12) (form : BitVec 3)
  | failed (c : BitVec 12) (form : BitVec 3)
  | credit (up given : Bool)
  deriving DecidableEq, Repr

/-- What starts a full load (R53, R62): SYL_CTRL.START with SOURCE 0 stack, 1 push, and whether the tutor of every other form is
HALTED; or, at another form, the head form's word that it has started one. -/
inductive LoadStart where
  | host (src : BitVec 1) (halted : Bool)
  | relay
  deriving DecidableEq, Repr

/-- How the application of a full load ends (R57, R59): done at every form, by a fault at this form, or by one at another. -/
inductive ApplyEnd where
  | done
  | fault
  | peer
  deriving DecidableEq, Repr

/-- The data of a debug access, and the event bits that the block sets in the cycle in which it writes (R20). -/
structure TapData where
  v : Word
  same : Word
  deriving DecidableEq, Repr

/-- The octets of a FED_HOST frame, and the event bits that the block sets in the cycle of the access that it carries (R20). -/
structure FedFrame where
  bytes : Bytes
  same : Word
  deriving DecidableEq, Repr

/-- One command: an act of host software, of another agent at a port, of the passing of time, or of one of the
block's own engines. -/
inductive Instr where
  /-- Power-on or rst_cold_n, with the straps and the fuse words 0 to 15 that the Office reads (R368, R432). -/
  | coldReset (straps : Straps) (fuses : List Word)
  /-- rst_warm_n at any form of the federation. -/
  | warmReset (straps : Straps)
  /-- OFC_RESET.WARM written at the head form. -/
  | ofcResetWarm
  /-- SYL_CTRL.START with MODE full. -/
  | sylStartFull (start : LoadStart)
  | sylStartPartial (src : BitVec 1)
  | sylAbort
  /-- A 64-bit write to the push window. -/
  | sylPushData (w : Word)
  /-- The image that the loader has received: the fetched bytes (stack source; the push source has its own), and
  whether every read of the fetch was good. -/
  | sylImageReceived (img : Bytes) (ok : Bool)
  /-- The application of the verified image, with the load time in hall-clock cycles. -/
  | fullLoadApply (cycles : BitVec 32) (last : ApplyEnd)
  | lkrSelWrite (v : Word)
  | lkrStateRead
  /-- The locker command issued by queue `q` is taken by the directory. -/
  | lkrOpen (q : BitVec 13)
  | lkrMove (q : BitVec 13)
  | lkrRecall (q : BitVec 13)
  | lkrRead (q : BitVec 13)
  | lkrRelease (q : BitVec 13)
  | nop (q : BitVec 13)
  | post (q : BitVec 13)
  /-- The command that unit `u` (0 to 3 bench, 4 to 7 row unit) has accepted runs on its operand tiles. -/
  | fwd (u : BitVec 3)
  | dgradW (u : BitVec 3)
  | dgradG (u : BitVec 3)
  | wgrad (u : BitVec 3)
  | paired (u : BitVec 3)
  | ropTable (u : BitVec 3)
  | ropTableD (u : BitVec 3)
  | ropGate (u : BitVec 3)
  | ropGateD (u : BitVec 3)
  | ropNorm (u : BitVec 3)
  | ropNormApply (u : BitVec 3)
  | ropNormD (u : BitVec 3)
  | ropSoftmax (u : BitVec 3)
  | ropSoftmaxApply (u : BitVec 3)
  | ropSoftmaxD (u : BitVec 3)
  | ropDropout (u : BitVec 3)
  /-- The command issued by queue `q` is taken by the stream engine, the couriers, the roll-call logic. -/
  | stream (q : BitVec 13)
  | courier (q : BitVec 13)
  | rollcall (q : BitVec 13)
  | bucket (q : BitVec 13)
  /-- The tutor tests the command at the head of queue `q`. -/
  | commandIssue (q : BitVec 13)
  /-- The commands that complete in one cycle: for each, the queue whose oldest finished command it is. The
  staging runs (piece, first block) that the timetable names these commands to close (R175). -/
  | commandComplete (qs : List (BitVec 13)) (closes : List (BitVec 18 × BitVec 16))
  /-- A write of `q` to QUE_PUSH. -/
  | quePush (q : Word)
  /-- A doorbell: hd_form, hd_kind (0 push, 1 signal), hd_index. -/
  | doorbell (form : BitVec 3) (kind : BitVec 1) (index : BitVec 16)
  | resume (q : BitVec 13)
  | skip (q : BitVec 13)
  | flush (q : BitVec 13)
  | halt (q : BitVec 13)
  | run (q : BitVec 13)
  /-- A host write of `v` to BEL_n.SIGNAL. -/
  | signal (n : BitVec 16) (v : Word)
  /-- A host write of `m` to ASM_MASK of assembly `a`. -/
  | asmMaskWrite (a : BitVec 10) (m : Word)
  | closingAssemblyAct
  | resStatusRead (slot : BitVec 12)
  | resTake (slot : BitVec 12)
  | deadlock
  | periodStart
  /-- The tutor copies commands of entry `entry` (its kind: 0 the section in force, 1 checkpoint, 2 recompute run
  `run`) as ring space allows. -/
  | entryCopy (kind : BitVec 2) (run : BitVec 18) (entry : BitVec 16)
  | closingSequenceStart
  | sweepStart
  | sweepEnd
  | ttbRun
  | ttbHalt
  | ttbNextWrite (v : Word)
  | termChange
  | checkpointEnd
  /-- A staging run for `tiles` tiles of `piece` from sweep block `block`. -/
  | stagingRunAlloc (piece : BitVec 18) (block : BitVec 16) (tiles : BitVec 12)
  | stageTimeout (piece : BitVec 18) (block : BitVec 16)
  | heldOpenRetry (q : BitVec 13)
  | placeTimeout (q : BitVec 13)
  | plnLastInRead
  /-- A write of BNC_PHILOX_CTR_LO (0) or _HI (1). -/
  | philoxCtrWrite (hi : BitVec 1) (v : Word)
  | numHistSelWrite (v : Word)
  | numHistStateRead
  | mkrDigSelWrite (v : Word)
  | digestDone
  | mkrCardSelWrite (v : Word)
  | mkrCardFlagsRead
  /-- A write of `v` to STM_CTRL of context `c` with START, or with ABORT. -/
  | stmStart (c : BitVec 12) (v : Word)
  | stmAbort (c : BitVec 12)
  | streamEntryIssue (c : BitVec 12)
  | streamPassEnd (c : BitVec 12)
  /-- The next satchel of context `c`, in index order, reaches its destination. -/
  | satchelReceive (m : ChainMsg)
  | crsStart (k : BitVec 6) (v : Word)
  | crsAbort (k : BitVec 6)
  | crsContinue (k : BitVec 6)
  | courierBurst
  | courierBurstDone
  | paceTimer (k : BitVec 6)
  /-- Read data of one 256-byte unit at port `port` (2: the far port): tag, data, poison and error indications. -/
  | memReadResponse (port : BitVec 2) (tag : BitVec 10) (data : Bytes) (poison err : Bool)
  | memWriteComplete (port : BitVec 2) (tag : BitVec 10) (err : Bool)
  /-- Credits returned at memory port `port`. -/
  | memCreditReturn (port : BitVec 1) (n : BitVec 8)
  | memReadTimeout (port : BitVec 2) (tag : BitVec 10)
  | farLinkDown
  /-- A satchel on engine channel `ch`; `err`: er_err on its last beat. -/
  | engineSatchel (ch : BitVec 8) (sat : Bytes) (err : Bool)
  | engineCredit (ch : BitVec 8)
  /-- An engine satchel of channel `ch` incomplete, or waiting for a credit, for 1 ms. -/
  | engineTimeout (ch : BitVec 8)
  /-- A host write: aperture address, data, byte strobes; `same`: the event bits that the block sets in the cycle of
  the write (R20). -/
  | hostWrite (addr : BitVec 27) (data : Word) (strb : BitVec 8) (same : Word)
  /-- A DBGACC update: write, aperture address, data. -/
  | tapDbgacc (wr : Bool) (addr : BitVec 31) (data : TapData)
  /-- Ports: 0 and 1 fabric ports, 2 to 5 federation links. -/
  | pcsAlign (port : BitVec 3)
  | pcsAlignLoss (port : BitVec 3)
  | helloTimer (port : BitVec 3)
  /-- A received frame of the row's type: its octets from DA (fabric) or from the prefix (federation link) to the
  end, and whether it held an error control character (R269). -/
  | hello (port : BitVec 3) (frame : Bytes) (bad : Bool)
  | offerTimer (port : BitVec 3)
  | key (port : BitVec 3) (frame : Bytes) (bad : Bool)
  | rosterRetry (port : BitVec 3)
  | keyRenewal (port : BitVec 3)
  | keyExhausted (port : BitVec 3)
  | data (port : BitVec 3) (frame : Bytes) (bad : Bool)
  | stateFetch (port : BitVec 3) (frame : Bytes) (bad : Bool)
  | link (port : BitVec 3) (frame : Bytes) (bad : Bool)
  | linkAckTimer (port : BitVec 3)
  | linkFrameTimeout (port : BitVec 3)
  | replayTimeout (port : BitVec 3)
  | frameSend (port : BitVec 3)
  | fiReorderTimeout (port : BitVec 3)
  | violWindow (port : BitVec 3)
  | fabRelease (port : BitVec 3)
  | mack (port : BitVec 3) (frame : Bytes) (bad : Bool)
  /-- DETACH_US has passed without progress at sending context `c`. -/
  | mcastDetach (c : BitVec 12)
  | detach (port : BitVec 3) (frame : Bytes) (bad : Bool)
  | repairReq (port : BitVec 3) (frame : Bytes) (bad : Bool)
  | rcExch (port : BitVec 3) (frame : Bytes) (bad : Bool)
  | rcUp (port : BitVec 3) (frame : Bytes) (bad : Bool)
  | rcDown (port : BitVec 3) (frame : Bytes) (bad : Bool)
  | redUp (port : BitVec 3) (frame : Bytes) (bad : Bool)
  | redDown (port : BitVec 3) (frame : Bytes) (bad : Bool)
  | notice (port : BitVec 3) (frame : Bytes) (bad : Bool)
  | abort (port : BitVec 3) (frame : Bytes) (bad : Bool)
  /-- A FED_HOST frame. -/
  | fedHost (port : BitVec 3) (frame : FedFrame) (bad : Bool)
  /-- The deadline, TIMEOUT_US or 2 × TIMEOUT_US of the collective with this group code and SEQ has passed. -/
  | bucketDeadline (group : BitVec 12) (seq : BitVec 32)
  | collectiveTimeout (group : BitVec 12) (seq : BitVec 32)
  | collectiveLostTimeout (group : BitVec 12) (seq : BitVec 32)
  /-- The source attempt of recovery `r` ends; `ok` and `tile`: what came from a source outside the memory ports (a
  peer's reply), when the source is one. -/
  | recoverySourceDone (r : BitVec 16) (ok : Bool) (tile : Bytes)
  /-- A scrub of a cloakroom word in which `bits` bits are found in error, or the same found by another read of protected memory, for
  which the table has no row of its own (log 73). -/
  | scrubRead (at_ : SramAt) (bits : BitVec 2)
  | swAbort
  | rearmFirst
  | abortConfirmTimeout
  | ucieLinkDown (l : BitVec 2)
  /-- A sideband message on federation link `l`: false warm reset, true zeroisation. -/
  | ucieSideband (l : BitVec 2) (zero : Bool)
  /-- SPDM requests: the message in the mailbox, its bytes (R373). -/
  | getVersion (msg : Bytes)
  | getCapabilities (msg : Bytes)
  | negotiateAlgorithms (msg : Bytes)
  | getDigests (msg : Bytes)
  | getCertificate (msg : Bytes)
  | setCertificate (msg : Bytes)
  | challenge (msg : Bytes)
  | getMeasurements (msg : Bytes)
  | keyExchange (msg : Bytes)
  | finish (msg : Bytes)
  | endSession (msg : Bytes)
  | domainKeyInstall (msg : Bytes)
  | domainKeyErase (msg : Bytes)
  | secRestoreStart
  | restoreComplete
  | secExportStart (v : Word)
  | exportComplete
  | zeroise
  | entropyFail
  | recessEntry
  | fclkEnable
  /-- A path-delay reading: the least slack, and the monitor that gave it. -/
  | monitorReading (slack : BitVec 12) (worst : BitVec 5)
  /-- The start of a 1 µs window: the grant sampled, the activity estimate of the window that ends, and the peak
  power of the units that hold or await a command, in 0.25 W units. -/
  | governorWindow (grant est peak : BitVec 16)
  | droop
  | droopRelease
  | telemetryWord (cmd : BitVec 8) (w : BitVec 16)
  | pwrVfWrite (k : BitVec 3) (v : Word)
  | memWriteTimeout (port : BitVec 2) (tag : BitVec 10)
  | farLinkUp
  | ucieLinkTrained (l : BitVec 2)
  | droopDeasserted
  | fclkEnLowered
  | unsupportedRequest (msg : Bytes)
  deriving DecidableEq, Repr

end Sys2Proof
end

