-- ==== Sys2Proof/Machine/Bits.lean ====
section
/-! DEFINITION. Bit fields, little-endian byte runs (R17) and the operations on sparse tables. -/

namespace Sys2Proof.Machine

/-- The `len` bits of `w` from bit `lo` upwards, as a number. -/
def fld {n : Nat} (w : BitVec n) (lo len : Nat) : Nat := (w.toNat >>> lo) % 2 ^ len

/-- Bit `i` of `w`. -/
def bitAt {n : Nat} (w : BitVec n) (i : Nat) : Bool := w.getLsbD i

/-- `w` with the `len` bits from `lo` replaced by the low bits of `v`. -/
def setFld {n : Nat} (w : BitVec n) (lo len v : Nat) : BitVec n :=
  let m : BitVec n := BitVec.ofNat n ((2 ^ len - 1) <<< lo)
  (w &&& ~~~m) ||| (BitVec.ofNat n ((v % 2 ^ len) <<< lo))

/-- A number placed at bit `lo`; the parts of a register value are joined with `+`. -/
def at_ (lo v : Nat) : Nat := v <<< lo

/-- A register built from a number. -/
def word (v : Nat) : Word := BitVec.ofNat 64 v

/-- `1` for true, `0` for false. -/
def b2n (b : Bool) : Nat := if b then 1 else 0

/-- Saturating addition in a field whose largest value is `mx`. -/
def satAdd (mx a b : Nat) : Nat := min mx (a + b)

/-- The value of a little-endian run of bytes (R17). -/
def leNat : Bytes → Nat
  | [] => 0
  | b :: r => b.toNat + 256 * leNat r

/-- The `n` bytes of a number, least significant first (R17). -/
def leBytes : Nat → Nat → Bytes
  | 0, _ => []
  | n + 1, v => BitVec.ofNat 8 v :: leBytes n (v / 256)

/-- Big-endian forms, for the fields that a section defines so. -/
def beNat (bs : Bytes) : Nat := leNat bs.reverse

/-- The `n` bytes of a number, most significant first. -/
def beBytes (n v : Nat) : Bytes := (leBytes n v).reverse

/-- `n` bytes of `bs` from offset `off`; bytes past the end read zero. -/
def slice (bs : Bytes) (off n : Nat) : Bytes :=
  let t := (bs.drop off).take n
  t ++ List.replicate (n - t.length) 0

/-- The little-endian field of `n` bytes at offset `off`. -/
def leAt (bs : Bytes) (off n : Nat) : Nat := leNat (slice bs off n)

/-- `bs` with the bytes from `off` replaced by `new` (inside its length). -/
def splice (bs : Bytes) (off : Nat) (new : Bytes) : Bytes :=
  bs.take off ++ new ++ bs.drop (off + new.length)

/-- A list cut into `k` pieces of `n` entries. -/
def pieces {α : Type} (n : Nat) : Nat → List α → List (List α)
  | 0, _ => []
  | k + 1, l => l.take n :: pieces n k (l.drop n)

/-- The 64 bytes of a command (R252). -/
def cmdBytes (c : Cmd) : Bytes := leBytes 64 c.toNat

/-- A command from its 64 bytes (R252). -/
def cmdOfBytes (bs : Bytes) : Cmd := BitVec.ofNat 512 (leNat (slice bs 0 64))

/-- The little-endian field of `n` bytes at byte offset `off` of a command. -/
def cmdAt (c : Cmd) (off n : Nat) : Nat := fld c (8 * off) (8 * n)

/-- A command with the `n`-byte field at `off` replaced. -/
def cmdSet (c : Cmd) (off n v : Nat) : Cmd := setFld c (8 * off) (8 * n) v

section
variable {α : Type} [Inhabited α]

/-- The value at key `k`: the listed one, else the default. -/
def Tab.get : Tab α → Nat → α
  | [], _ => default
  | (k', v) :: r, k => if k' = k then v else Tab.get r k

variable [DecidableEq α]

/-- The table with `v` at key `k`, in canonical form: writing the default removes the entry. -/
def Tab.put : Tab α → Nat → α → Tab α
  | [], k, v => if v = default then [] else [(k, v)]
  | (k', v') :: r, k, v =>
    if k < k' then (if v = default then (k', v') :: r else (k, v) :: (k', v') :: r)
    else if k = k' then (if v = default then r else (k, v) :: r)
    else (k', v') :: Tab.put r k v

/-- The canonical form: keys strictly rising and no entry equal to the default. -/
def Tab.wf : Tab α → Bool
  | [] => true
  | [(_, v)] => decide (v ≠ default)
  | (k, v) :: (k', v') :: r => decide (v ≠ default) && decide (k < k') && Tab.wf ((k', v') :: r)

/-- Every entry of the table whose key fails `p` removed. -/
def Tab.keep (p : Nat → Bool) (t : Tab α) : Tab α := t.filter fun e => p e.1

/-- The table with `f` applied to the value at `k`. -/
def Tab.modify (t : Tab α) (k : Nat) (f : α → α) : Tab α := Tab.put t k (f (Tab.get t k))
end

/-- `f` applied to every listed value; entries that become the default are removed. -/
def Tab.mapAll {α : Type} [Inhabited α] [DecidableEq α] (f : Nat → α → α) (t : Tab α) : Tab α :=
  (t.map fun e => (e.1, f e.1 e.2)).filter fun e => decide (e.2 ≠ default)

/-- `n` bytes of a byte table from address `a`. -/
def Tab.bytes (t : Tab Byte) (a : Nat) : Nat → Bytes
  | 0 => []
  | n + 1 => Tab.get t a :: Tab.bytes t (a + 1) n

/-- A byte table with the run `bs` written from address `a`. -/
def Tab.putBytes (t : Tab Byte) (a : Nat) : Bytes → Tab Byte
  | [] => t
  | b :: r => Tab.putBytes (Tab.put t a b) (a + 1) r

/-- Insertion of `x` by a key, after the entries whose key is not greater. -/
def insertBy {α : Type} (key : α → Nat) (x : α) : List α → List α
  | [] => [x]
  | y :: r => if key x < key y then x :: y :: r else y :: insertBy key x r

/-- A list sorted by a key, rising and stable. -/
def sortBy {α : Type} (key : α → Nat) (l : List α) : List α :=
  l.foldl (fun acc x => insertBy key x acc) []

/-- The first element with the least key. -/
def leastBy {α : Type} (key : α → Nat) : List α → Option α
  | [] => none
  | x :: r => some (r.foldl (fun m y => if key y < key m then y else m) x)

/-- The list without repeats, first occurrences kept. -/
def nub (l : List Nat) : List Nat :=
  l.foldl (fun acc x => if acc.contains x then acc else acc ++ [x]) []

end Sys2Proof.Machine
end

