-- ==== Sys2Proof/Machine/Fp.lean ====
section
/-! DEFINITION. Exact binary arithmetic and the single roundings of R121, R122, R131, R153, R173, R180: IEEE 754
values as a sign, a natural significand and a power of two, with every operation exact and every rounding explicit. -/

namespace Sys2Proof.Machine

/-- An IEEE 754 value without a precision: NaN, an infinity, or `(-1)^s · m · 2^e` (zeros keep their sign). -/
inductive Fp where
  | nan
  | inf (s : Bool)
  | fin (s : Bool) (m : Nat) (e : Int)
  deriving DecidableEq, Repr, Inhabited

/-- Positive zero, and one. -/
def Fp.zero : Fp := .fin false 0 0
def Fp.one : Fp := .fin false 1 0
/-- A natural number. -/
def Fp.ofNat (n : Nat) : Fp := .fin false n 0

def Fp.neg : Fp → Fp
  | .nan => .nan
  | .inf s => .inf (!s)
  | .fin s m e => .fin (!s) m e

def Fp.isFin : Fp → Bool
  | .fin _ _ _ => true
  | _ => false

def Fp.isZero : Fp → Bool
  | .fin _ m _ => m == 0
  | _ => false

def Fp.sign : Fp → Bool
  | .nan => false
  | .inf s => s
  | .fin s _ _ => s

def Fp.abs : Fp → Fp
  | .nan => .nan
  | .inf _ => .inf false
  | .fin _ m e => .fin false m e

/-- The exact sum. Opposite exact values give +0; zeros of equal sign keep it (round to nearest). -/
def Fp.add : Fp → Fp → Fp
  | .nan, _ => .nan
  | _, .nan => .nan
  | .inf s, .inf t => if s = t then .inf s else .nan
  | .inf s, _ => .inf s
  | _, .inf t => .inf t
  | .fin s m e, .fin t n f =>
    let g := min e f
    let a := m * 2 ^ (e - g).toNat
    let b := n * 2 ^ (f - g).toNat
    if s = t then .fin s (a + b) g
    else if a = b then .fin false 0 0
    else if b < a then .fin s (a - b) g
    else .fin t (b - a) g

def Fp.sub (x y : Fp) : Fp := x.add y.neg

/-- The exact product. -/
def Fp.mul : Fp → Fp → Fp
  | .nan, _ => .nan
  | _, .nan => .nan
  | .inf s, .inf t => .inf (s != t)
  | .inf s, .fin t n _ => if n = 0 then .nan else .inf (s != t)
  | .fin s m _, .inf t => if m = 0 then .nan else .inf (s != t)
  | .fin s m e, .fin t n f => .fin (s != t) (m * n) (e + f)

/-- A value times a power of two. -/
def Fp.scale (k : Int) : Fp → Fp
  | .fin s m e => .fin s m (e + k)
  | x => x

/-- A significand with a sticky bit below it, so that one rounding to at most 64 bits is the rounding of the
exact quotient or root. -/
def sticky (q : Nat) (exact : Bool) : Nat := 2 * q + (if exact then 0 else 1)

/-- The quotient, to at least 128 bits with a sticky bit. -/
def Fp.div : Fp → Fp → Fp
  | .nan, _ => .nan
  | _, .nan => .nan
  | .inf _, .inf _ => .nan
  | .inf s, .fin t _ _ => .inf (s != t)
  | .fin s _ _, .inf t => .fin (s != t) 0 0
  | .fin s m e, .fin t n f =>
    if n = 0 then (if m = 0 then .nan else .inf (s != t))
    else
      let k := 130 + Nat.log2 n
      let q := (m <<< k) / n
      .fin (s != t) (sticky q ((m <<< k) % n == 0)) (e - f - k - 1)

/-- Integer square root by bits, from bit `i - 1` downwards. -/
def isqrtFrom (n : Nat) : Nat → Nat → Nat
  | 0, r => r
  | i + 1, r => let r' := r + 2 ^ i; isqrtFrom n i (if r' * r' ≤ n then r' else r)

/-- The integer square root of `n`. -/
def isqrt (n : Nat) : Nat := isqrtFrom n (Nat.log2 n / 2 + 1) 0

/-- The square root, to at least 128 bits with a sticky bit; −0 gives −0, other negatives NaN. -/
def Fp.sqrt : Fp → Fp
  | .nan => .nan
  | .inf s => if s then .nan else .inf false
  | .fin s m e =>
    if m = 0 then .fin s 0 0
    else if s then .nan
    else
      let m := if e % 2 = 0 then m else 2 * m
      let e := if e % 2 = 0 then e else e - 1
      let r := isqrt (m <<< 260)
      .fin false (sticky r (r * r == m <<< 260)) (e / 2 - 131)

/-- The reciprocal square root, to at least 128 bits with a sticky bit. -/
def Fp.rsqrt : Fp → Fp
  | .nan => .nan
  | .inf s => if s then .nan else .fin false 0 0
  | .fin s m e =>
    if m = 0 then .inf s
    else if s then .nan
    else
      let m := if e % 2 = 0 then m else 2 * m
      let e := if e % 2 = 0 then e else e - 1
      let k := 2 * (150 + Nat.log2 m)
      let r := isqrt ((2 ^ k) / m)
      .fin false (sticky r (r * r * m == 2 ^ k)) (-(e / 2) - (k / 2 : Nat) - 1)

/-- `x < y`; false when either is NaN. -/
def Fp.lt : Fp → Fp → Bool
  | .nan, _ => false
  | _, .nan => false
  | .inf s, .inf t => s && !t
  | .inf s, _ => s
  | _, .inf t => !t
  | .fin s m e, .fin t n f =>
    let g := min e f
    let a := m * 2 ^ (e - g).toNat
    let b := n * 2 ^ (f - g).toNat
    match s, t with
    | false, false => decide (a < b)
    | true, true => decide (b < a)
    | true, false => decide (0 < a + b)
    | false, true => false

/-- The larger of two values by magnitude order; NaN is ignored. -/
def Fp.maxAbs (x y : Fp) : Fp := if x.abs.lt y.abs then y else x

/-! ## Rounding -/

/-- A positive value `m · 2^e` rounded to nearest, ties to even, on the grid of a format with `mb` mantissa bits and
least exponent `emin`, with no largest exponent: the significand and its power of two. -/
def rneGrid (mb : Nat) (emin : Int) (m : Nat) (e : Int) : Nat × Int :=
  let top : Int := e + Nat.log2 m
  let q : Int := max (top - mb) (emin - mb)
  if q ≤ e then (m * 2 ^ (e - q).toNat, q)
  else
    let sh := (q - e).toNat
    let a := m / 2 ^ sh
    let r := m % 2 ^ sh
    let h := 2 ^ (sh - 1)
    if r < h ∨ (r = h ∧ a % 2 = 0) then (a, q) else (a + 1, q)

/-- The encoding of a grid point in a format with `mb` mantissa bits and least exponent `emin`: subnormals have
exponent field 0. -/
def encodeGrid (mb : Nat) (emin : Int) (p : Nat × Int) : Nat :=
  if p.1 < 2 ^ mb then p.1 * 2 ^ (p.2 - (emin - mb)).toNat
  else ((p.2 - (emin - mb)).toNat + 1) * 2 ^ mb + (p.1 - 2 ^ mb)

/-- An IEEE 754 format: exponent and mantissa bits. -/
structure Fmt where
  eb : Nat
  mb : Nat
  deriving DecidableEq, Repr

def f32 : Fmt := ⟨8, 23⟩
def f64 : Fmt := ⟨11, 52⟩
def bf16 : Fmt := ⟨8, 7⟩
def fp16 : Fmt := ⟨5, 10⟩

def Fmt.bias (f : Fmt) : Nat := 2 ^ (f.eb - 1) - 1
def Fmt.emin (f : Fmt) : Int := 1 - (f.bias : Int)
def Fmt.signBit (f : Fmt) : Nat := 2 ^ (f.eb + f.mb)
/-- The encoding of infinity, and the one NaN that results are written as (R122, R153). -/
def Fmt.infBits (f : Fmt) : Nat := (2 ^ f.eb - 1) * 2 ^ f.mb
def Fmt.nanBits (f : Fmt) : Nat := f.infBits + 2 ^ (f.mb - 1)

/-- The value of an encoding. -/
def Fmt.val (f : Fmt) (w : Nat) : Fp :=
  let s := (w / f.signBit) % 2 == 1
  let x := (w / 2 ^ f.mb) % 2 ^ f.eb
  let m := w % 2 ^ f.mb
  if x = 2 ^ f.eb - 1 then (if m = 0 then .inf s else .nan)
  else if x = 0 then .fin s m (f.emin - f.mb)
  else .fin s (2 ^ f.mb + m) (x - f.bias - f.mb)

/-- A value rounded once to nearest, ties to even, with IEEE 754 overflow and subnormals kept: its encoding. -/
def Fmt.round (f : Fmt) : Fp → Nat
  | .nan => f.nanBits
  | .inf s => (if s then f.signBit else 0) + f.infBits
  | .fin s m e =>
    let b := if m = 0 then 0 else encodeGrid f.mb f.emin (rneGrid f.mb f.emin m e)
    (if s then f.signBit else 0) + min b f.infBits

/-- RNE32 and RNE64 of an exact value, as encodings; and the values of encodings. -/
def rne32 (x : Fp) : Nat := f32.round x
def rne64 (x : Fp) : Nat := f64.round x
def v32 (w : Nat) : Fp := f32.val w
def v64 (w : Nat) : Fp := f64.val w
/-- RNE32 and RNE64 as values. -/
def q32 (x : Fp) : Fp := f32.val (f32.round x)
def q64 (x : Fp) : Fp := f64.val (f64.round x)

/-- Binary32 fused multiply-add. -/
def fma32 (a b c : Fp) : Fp := q32 ((a.mul b).add c)

/-- Rounded operations on values. -/
def add32 (a b : Fp) : Fp := q32 (a.add b)
def sub32 (a b : Fp) : Fp := q32 (a.sub b)
def mul32 (a b : Fp) : Fp := q32 (a.mul b)
def add64 (a b : Fp) : Fp := q64 (a.add b)
def mul64 (a b : Fp) : Fp := q64 (a.mul b)

/-- The floor of the base-2 logarithm of a positive finite value. -/
def Fp.log2 : Fp → Int
  | .fin _ m e => e + Nat.log2 m
  | _ => 0

/-- A finite value rounded to the nearest integer, ties to even. -/
def Fp.toInt : Fp → Int
  | .fin s m e =>
    let n := if 0 ≤ e then m * 2 ^ e.toNat
      else
        let sh := (-e).toNat
        let a := m / 2 ^ sh
        let r := m % 2 ^ sh
        let h := 2 ^ (sh - 1)
        if r < h ∨ (r = h ∧ a % 2 = 0) then a else a + 1
    if s then -(n : Int) else n
  | _ => 0

/-- The floor of a finite value. -/
def Fp.floor : Fp → Int
  | .fin s m e =>
    let n : Int := m
    let n := if s then -n else n
    if 0 ≤ e then n * 2 ^ e.toNat else Int.fdiv n (2 ^ (-e).toNat)
  | _ => 0

end Sys2Proof.Machine
end

