-- ==== Sys2Proof/Machine/Aes.lean ====
section
/-! DEFINITION. AES-256 (FIPS 197) and its modes: XTS over whole data units (IEEE 1619; R376), CMAC (SP 800-38B; R377, R380)
and GCM (SP 800-38D; R286, R386). A key held as a number has its byte `i` in bits `[8i+7:8i]`. -/

namespace Sys2Proof.Machine

/-! ## The cipher -/

/-- The S-box and its inverse: entry `x` in bits `[8x+7:8x]`. -/
def aesSbox : Nat := 0x16bb54b00f2d99416842e6bf0d89a18cdf2855cee9871e9b948ed9691198f8e19e1dc186b95735610ef6034866b53e708a8bbd4b1f74dde8c6b4a61c2e2578ba08ae7a65eaf4566ca94ed58d6d37c8e779e4959162acd3c25c2406490a3a32e0db0b5ede14b8ee4688902a22dc4f816073195d643d7ea7c41744975fec130ccdd2f3ff1021dab6bcf5389d928f40a351a89f3c507f02f94585334d43fbaaefd0cf584c4a39becb6a5bb1fc20ed00d153842fe329b3d63b52a05a6e1b1a2c830975b227ebe28012079a059618c323c7041531d871f1e5a534ccf73f362693fdb7c072a49cafa2d4adf04759fa7dc982ca76abd7fe2b670130c56f6bf27b777c63
def aesInv : Nat := 0x7d0c2155631469e126d677ba7e042b17619953833cbbebc8b0f52aae4d3be0a0ef9cc9939f7ae52d0d4ab519a97f51605fec8027591012b131c7078833a8dd1ff45acd78fec0db9a2079d2c64b3e56fc1bbe18aa0e62b76f89c5291d711af1476edf751ce837f9e28535ade72274ac9673e6b4f0cecff297eadc674f4111913a6b8a130103bdafc1020f3fca8f1e2cd00645b3b80558e4f70ad3bc8c00abd890849d8da75746155edab9edfd5048706c92b6655dcc5ca4d41698688664f6f87225d18b6d49a25b76b224d92866a12e084ec3fa420b954cee3d23c2a632947b54cbe9dec444438e3487ff2f9b8239e37cfbd7f3819ea340bf38a53630d56a0952
def subByte (t : Nat) (b : Byte) : Byte := BitVec.ofNat 8 (t >>> (8 * b.toNat))

/-- Multiplication by x in the field of AES; by the constant `k` < 16. -/
def xtime (b : Byte) : Byte := (b <<< 1) ^^^ (if b.msb then 0x1B else 0)
def gmul (k : Nat) (b : Byte) : Byte :=
  let b2 := xtime b
  let b4 := xtime b2
  (if k % 2 = 1 then b else 0) ^^^ (if k / 2 % 2 = 1 then b2 else 0) ^^^ (if k / 4 % 2 = 1 then b4 else 0)
    ^^^ (if k / 8 % 2 = 1 then xtime b4 else 0)

/-- Two byte runs, byte by byte. -/
def xorBytes (a b : Bytes) : Bytes := List.zipWith (· ^^^ ·) a b

/-- The key schedule: the words so far, newest first; `n` more; `rc` the next round constant. -/
def aesWords : Nat → Byte → List Bytes → List Bytes
  | 0, _, ws => ws
  | n + 1, rc, ws =>
    let i := ws.length
    let t := ws.headD []
    let t := if i % 8 = 0 then xorBytes ((t.drop 1 ++ t.take 1).map (subByte aesSbox)) [rc, 0, 0, 0]
      else if i % 8 = 4 then t.map (subByte aesSbox) else t
    aesWords n (if i % 8 = 0 then xtime rc else rc) (xorBytes (ws.getD 7 []) t :: ws)

/-- The fifteen round keys of a key of 256 bits. -/
def aesKeys (key : Nat) : List Bytes :=
  pieces 16 15 ((aesWords 52 1 (pieces 4 8 (leBytes 32 key)).reverse).reverse.flatten)

/-- The bytes of a block at the places `ps`. -/
def permute (ps : List Nat) (b : Bytes) : Bytes := ps.map fun i => b.getD i 0
def shiftRows (b : Bytes) : Bytes := permute [0, 5, 10, 15, 4, 9, 14, 3, 8, 13, 2, 7, 12, 1, 6, 11] b
def invShiftRows (b : Bytes) : Bytes := permute [0, 13, 10, 7, 4, 1, 14, 11, 8, 5, 2, 15, 12, 9, 6, 3] b

/-- One column times the circulant matrix with first row `[p, q, r, t]`. -/
def mixColumn (p q r t : Nat) (c : Bytes) : Bytes :=
  (List.range 4).map fun i =>
    let x (j : Nat) : Byte := c.getD ((i + j) % 4) 0
    gmul p (x 0) ^^^ gmul q (x 1) ^^^ gmul r (x 2) ^^^ gmul t (x 3)
def mixColumns (b : Bytes) : Bytes := (pieces 4 4 b).flatMap (mixColumn 2 3 1 1)
def invMixColumns (b : Bytes) : Bytes := (pieces 4 4 b).flatMap (mixColumn 14 11 13 9)

/-- The rounds over the keys after the first; the last one does not mix columns. -/
def aesEncRounds : List Bytes → Bytes → Bytes
  | [], b => b
  | [k], b => xorBytes (shiftRows (b.map (subByte aesSbox))) k
  | k :: ks, b => aesEncRounds ks (xorBytes (mixColumns (shiftRows (b.map (subByte aesSbox)))) k)

/-- The inverse rounds, over the keys in falling order after the last. -/
def aesDecRounds : List Bytes → Bytes → Bytes
  | [], b => b
  | [k], b => xorBytes ((invShiftRows b).map (subByte aesInv)) k
  | k :: ks, b => aesDecRounds ks (invMixColumns (xorBytes ((invShiftRows b).map (subByte aesInv)) k))

/-- AES-256 of one block of 16 bytes under the round keys `ks`, and its inverse. -/
def aesEnc (ks : List Bytes) (b : Bytes) : Bytes := aesEncRounds (ks.drop 1) (xorBytes b (ks.headD []))
def aesDec (ks : List Bytes) (b : Bytes) : Bytes :=
  let r := ks.reverse
  aesDecRounds (r.drop 1) (xorBytes b (r.headD []))

/-! ## XTS -/

/-- The next tweak: times x in the field of 2^128, byte 0 the least significant. -/
def xtsNext (t : Nat) : Nat := (2 * t) % 2 ^ 128 ^^^ (if 2 ^ 127 ≤ t then 0x87 else 0)

/-- The blocks of a data unit, each masked with its tweak before and after `f`. -/
def xtsBlocks (f : Bytes → Bytes) : List Bytes → Nat → Bytes
  | [], _ => []
  | b :: r, t => xorBytes (f (xorBytes b (leBytes 16 t))) (leBytes 16 t) ++ xtsBlocks f r (xtsNext t)

/-- A data unit of whole blocks under data key `k1` and tweak key `k2`, encrypted and decrypted. -/
def xtsEnc (k1 k2 tweak : Nat) (unit : Bytes) : Bytes :=
  let ks := aesKeys k1
  xtsBlocks (aesEnc ks) (pieces 16 (unit.length / 16) unit) (leNat (aesEnc (aesKeys k2) (leBytes 16 tweak)))
def xtsDec (k1 k2 tweak : Nat) (unit : Bytes) : Bytes :=
  let ks := aesKeys k1
  xtsBlocks (aesDec ks) (pieces 16 (unit.length / 16) unit) (leNat (aesEnc (aesKeys k2) (leBytes 16 tweak)))

/-! ## CMAC -/

/-- Times x in the field of 2^128, most significant byte first. -/
def cmacDouble (v : Nat) : Nat := (2 * v) % 2 ^ 128 ^^^ (if 2 ^ 127 ≤ v then 0x87 else 0)

/-- The chain over whole blocks. -/
def cmacChain (ks : List Bytes) (bs : List Bytes) (c : Bytes) : Bytes := bs.foldl (fun c b => aesEnc ks (xorBytes c b)) c

/-- The first 8 bytes of AES-CMAC, byte `i` in bits `[8i+7:8i]`. -/
def cmac (key : Nat) (msg : Bytes) : BitVec 64 :=
  let ks := aesKeys key
  let k1 := cmacDouble (beNat (aesEnc ks (leBytes 16 0)))
  let n := (msg.length - 1) / 16
  let last := msg.drop (16 * n)
  let last := if last.length = 16 then xorBytes last (beBytes 16 k1)
    else xorBytes (slice (last ++ [0x80]) 0 16) (beBytes 16 (cmacDouble k1))
  BitVec.ofNat 64 (leNat ((aesEnc ks (xorBytes (cmacChain ks (pieces 16 n msg) (leBytes 16 0)) last)).take 8))

/-! ## GCM -/

/-- The product in the field of GCM; bit 127 of a block's number is its first bit. `n` bits of `x` are left. -/
def ghashMulLoop (x : Nat) : Nat → Nat → Nat → Nat
  | 0, z, _ => z
  | n + 1, z, v =>
    ghashMulLoop x n (if x.testBit n then z ^^^ v else z) (v >>> 1 ^^^ (if v % 2 = 1 then 0xE1 <<< 120 else 0))
def ghashMul (x y : Nat) : Nat := ghashMulLoop x 128 0 y

/-- GHASH of whole blocks under `h`. -/
def ghash (h : Nat) (b : Bytes) : Nat := (pieces 16 (b.length / 16) b).foldl (fun y x => ghashMul (y ^^^ beNat x) h) 0

/-- Bytes padded with zeros to whole blocks. -/
def pad16 (b : Bytes) : Bytes := b ++ List.replicate ((16 - b.length % 16) % 16) 0

/-- The key stream of counter blocks under a nonce of 96 bits, most significant byte first, from counter `n`. -/
def gcmStream (ks : List Bytes) (nonce : Nat) : Nat → Nat → Bytes
  | 0, _ => []
  | m + 1, n => aesEnc ks (beBytes 12 nonce ++ beBytes 4 n) ++ gcmStream ks nonce m (n + 1)

/-- The text encrypted or decrypted: key, nonce, text. -/
def gcmText (key nonce : Nat) (text : Bytes) : Bytes :=
  xorBytes text (gcmStream (aesKeys key) nonce ((text.length + 15) / 16) 2)

/-- The tag over additional data and ciphertext. -/
def gcmTag (key nonce : Nat) (aad ct : Bytes) : Bytes :=
  let ks := aesKeys key
  let h := beNat (aesEnc ks (leBytes 16 0))
  let g := ghash h (pad16 aad ++ pad16 ct ++ beBytes 8 (8 * aad.length) ++ beBytes 8 (8 * ct.length))
  xorBytes (beBytes 16 g) (aesEnc ks (beBytes 12 nonce ++ beBytes 4 1))

/-- A text sealed: the ciphertext, then the tag. -/
def gcmSeal (key nonce : Nat) (aad pt : Bytes) : Bytes :=
  let ct := gcmText key nonce pt
  ct ++ gcmTag key nonce aad ct

/-- The plaintext of `ct`, when the tag holds. -/
def gcmOpen (key nonce : Nat) (aad ct tag : Bytes) : Option Bytes :=
  if tag = gcmTag key nonce aad ct then some (gcmText key nonce ct) else none

end Sys2Proof.Machine
end

