-- ==== Sys2Proof/Config.lean ====
section
/-! DEFINITION. The free values and the algorithms that the spec names without defining (they are standards:
AES-XTS, AES-CMAC, AES-GCM, SHA-384, ECDSA and ECDH on P-384, HMAC, SPDM message bodies). Every constant here is
opaque: no proof can see its value. -/

namespace Sys2Proof.Config

/-- A value the spec leaves open, drawn at the counter `State.free` (log 1): random keys, nonces, the
fallback generator of R137, destination bytes of a failing burst (R217), unstated results. -/
opaque freeWord : Nat → BitVec 64
/-- A free run of bytes of the given length. -/
opaque freeByte : Nat → Nat → BitVec 8
/-- A result the spec does not state for these operands: operation, operands (log 1). -/
opaque openResult : Nat → Nat → Nat → BitVec 64

/-- The shared secret that a public key which is no point of P-384 would give: the spec states none (log 10). -/
opaque noSecret : Nat → Bytes → BitVec 384
/-- The body of an SPDM response (DMTF SPDM 1.3): response code, the data the responder reports, a draw; and its length. -/
opaque spdmBody : Nat → Bytes → Nat → Nat → BitVec 8
opaque spdmLen : Nat → Bytes → Nat
/-- The application data of a message in an SPDM secured session, and whether it authenticates. -/
opaque spdmOpen : Nat → Bytes → Nat → BitVec 8
opaque spdmAuth : Nat → Bytes → Bool
/-- The leaf and the root public key of a certificate chain (X.509). -/
opaque certLeafKey : Bytes → BitVec 768
opaque certRootKey : Bytes → BitVec 768

end Sys2Proof.Config
end

