-- ==== Sys2Proof/Machine/Consts.lean ====
section
/-! DEFINITION. The numbers of the spec: the limits of the parameter sets (R5), register offsets (R440),
unit numbers and event registers (R367), and the event codes with their event bits (R23, R24). -/

namespace Sys2Proof.Machine

/-! ## Parameter set limits (R5); sets are 0 ZR-S, 1 ZR-M, 2 ZR-L, 3 ZR-X -/

def limStreams (set : Nat) : Nat := if set = 0 then 256 else if set = 1 then 1024 else 4096
def limQueues (set : Nat) : Nat := if set = 0 then 512 else if set = 1 then 2048 else 8192
def limBells (set : Nat) : Nat := if set = 0 then 4096 else if set = 1 then 16384 else 65536
def limAsms (set : Nat) : Nat := if set = 0 then 64 else if set = 1 then 256 else 1024
def limSlots (set : Nat) : Nat := if set = 0 then 256 else if set = 1 then 1024 else 4096
def limLockers (set : Nat) : Nat := if set = 0 then 16384 else if set = 1 then 65536 else 262144
def limCouriers (set : Nat) : Nat := if set = 0 then 8 else if set = 1 then 16 else 64
/-- Benches of a form (R5). -/
def limBenches (set : Nat) : Nat := if set = 0 then 1 else if set = 1 then 2 else 4
/-- Log2 of the cells along one bench side (R5, R439). -/
def benchLog2 (set : Nat) : Nat := if set = 0 then 6 else if set = 1 then 7 else 8
/-- Cloakroom bank groups (K) and their size in 64 KiB units (U), by R39's section. -/
def bankGroups (set : Nat) : Nat := if set = 0 then 4 else 12
def bankUnits (set : Nat) : Nat := if set = 0 then 16 else if set = 1 then 32 else 128
def memPorts (set : Nat) : Nat := if set ≤ 1 then 1 else 2
def fabPorts (set : Nat) : Nat := if set = 0 then 0 else if set = 1 then 1 else 2
def fedLinks (set : Nat) : Nat := if set = 3 then 4 else 0
def farLanes (set : Nat) : Nat := if set = 0 then 0 else if set = 1 then 8 else 16
/-- Cloakroom size in MiB (R5, OFC_CONFIG.CLOAKROOM). -/
def cloakMiB (set : Nat) : Nat := if set = 0 then 4 else if set = 1 then 24 else 96

/-! ## Register offsets (R440) -/

abbrev aOfcScratch : Nat := 0x20
abbrev aOfcResetCause : Nat := 0x38
abbrev aSylCtrl : Nat := 0x10000
abbrev aSylSrc : Nat := 0x10010
abbrev aSylSerial : Nat := 0x10018
abbrev aSylErr : Nat := 0x10028
abbrev aSylEvent : Nat := 0x10030
abbrev aSylTime : Nat := 0x10038
abbrev aSecMbox : Nat := 0x20040
abbrev aSecDomain0 : Nat := 0x20048
abbrev aSecDomain1 : Nat := 0x20050
abbrev aSecCkpt : Nat := 0x20058
abbrev aSecCkptAddr : Nat := 0x20060
abbrev aSecRestoreAddr : Nat := 0x20068
abbrev aSecExportAddr : Nat := 0x20078
abbrev aSecExportCtrl : Nat := 0x20080
abbrev aSecLinks : Nat := 0x20088
abbrev aSecEvent : Nat := 0x20090
abbrev aSecErr : Nat := 0x20098
abbrev aSecErrAddr : Nat := 0x200A0
abbrev aSecMboxData : Nat := 0x21000
abbrev aPwrCtrl : Nat := 0x30000
abbrev aPwrGrant : Nat := 0x30010
abbrev aPwrEst : Nat := 0x30018
abbrev aPwrThrottle : Nat := 0x30020
abbrev aPwrTelem : Nat := 0x30028
abbrev aPwrVin : Nat := 0x30030
abbrev aPwrSlack : Nat := 0x30038
abbrev aPwrVf : Nat := 0x30040
abbrev aPwrWlogPtr : Nat := 0x30080
abbrev aPwrEvent : Nat := 0x30088
abbrev aPwrErr : Nat := 0x30090
abbrev aPwrWlog : Nat := 0x31000
abbrev aErrIntEnable : Nat := 0x40018
abbrev aErrAbort : Nat := 0x40028
abbrev aErrAbortOrigin : Nat := 0x40030
abbrev aErrSram : Nat := 0x40038
abbrev aErrCeGroups : Nat := 0x40040
abbrev aErrRecovery : Nat := 0x40058
abbrev aErrScrub : Nat := 0x40060
abbrev aErrLogPtr : Nat := 0x40068
abbrev aErrFirstA : Nat := 0x40070
abbrev aErrFirstB : Nat := 0x40078
abbrev aErrEvent : Nat := 0x40080
abbrev aErrLog : Nat := 0x41000
abbrev aLkrSel : Nat := 0x100000
abbrev aLkrState : Nat := 0x100008
abbrev aLkrRun : Nat := 0x100010
abbrev aLkrDest : Nat := 0x100018
abbrev aLkrNeed : Nat := 0x100020
abbrev aLkrEntryEpoch : Nat := 0x100028
abbrev aLkrCount : Nat := 0x100080
abbrev aLkrEpoch : Nat := 0x100088
abbrev aLkrEvent : Nat := 0x100090
abbrev aLkrErr : Nat := 0x100098
abbrev aLkrStats : Nat := 0x1000A0
abbrev aPlnBacklogT1 : Nat := 0x180020
abbrev aPlnBacklogFar : Nat := 0x180028
abbrev aPlnLastIn : Nat := 0x180030
abbrev aPlnLastW : Nat := 0x180038
abbrev aPlnDec0 : Nat := 0x180060
abbrev aPlnDec1 : Nat := 0x180068
abbrev aPlnStats : Nat := 0x180070
abbrev aPlnEvent : Nat := 0x180078
abbrev aPlnErr : Nat := 0x180080
abbrev aPlnRecalls : Nat := 0x180088
abbrev aBncPhiloxLo : Nat := 0x200018
abbrev aBncPhiloxHi : Nat := 0x200020
abbrev aBncOutLo : Nat := 0x200028
abbrev aBncOutHi : Nat := 0x200030
abbrev aBncBusy : Nat := 0x200040
abbrev aBncTiles : Nat := 0x200060
abbrev aBncRecomp : Nat := 0x200080
abbrev aBncEvent : Nat := 0x200088
abbrev aBncErr : Nat := 0x200090
abbrev aNumHistSel : Nat := 0x280008
abbrev aNumHistState : Nat := 0x280010
abbrev aNumHistAmax : Nat := 0x280018
abbrev aNumCount0 : Nat := 0x280058
abbrev aNumCount1 : Nat := 0x280060
abbrev aNumLastOvf : Nat := 0x280068
abbrev aNumEvent : Nat := 0x280070
abbrev aNumErr : Nat := 0x280078
abbrev aMkrLr : Nat := 0x300008
abbrev aMkrClip : Nat := 0x300010
abbrev aMkrApplied : Nat := 0x300018
abbrev aMkrDigSel : Nat := 0x300028
abbrev aMkrDig : Nat := 0x300030
abbrev aMkrStepDigest : Nat := 0x300038
abbrev aMkrCardSel : Nat := 0x300040
abbrev aMkrCardFlags : Nat := 0x300048
abbrev aMkrCardWn : Nat := 0x300050
abbrev aMkrCardGn : Nat := 0x300058
abbrev aMkrCardRatio : Nat := 0x300060
abbrev aMkrRecEpoch : Nat := 0x300068
abbrev aMkrEvent : Nat := 0x300070
abbrev aMkrErr : Nat := 0x300078
abbrev aStm : Nat := 0x400000
abbrev aStmSplit : Nat := 0x440000
abbrev aStmStall : Nat := 0x440008
abbrev aStmEvent : Nat := 0x440038
abbrev aStmErr : Nat := 0x440040
abbrev aCrs : Nat := 0x800000
abbrev aCmpCtrl : Nat := 0x900000
abbrev aCmpRaw : Nat := 0x900010
abbrev aCmpOut : Nat := 0x900028
abbrev aCmpTiles : Nat := 0x900040
abbrev aCmpExp : Nat := 0x900058
abbrev aCmpEvent : Nat := 0x900070
abbrev aCmpErr : Nat := 0x900078
abbrev aCmpErrDesc : Nat := 0x900080
abbrev aBel : Nat := 0xA00000
abbrev aAsm : Nat := 0xA80000
abbrev aSynStep : Nat := 0xA90000
abbrev aSynDl : Nat := 0xA90008
abbrev aSynEvent : Nat := 0xA90010
abbrev aSynErr : Nat := 0xA90018
abbrev aQue : Nat := 0xB00000
abbrev aQueStage : Nat := 0xB80000
abbrev aQuePush : Nat := 0xB80040
abbrev aFabCtrl : Nat := 0xC00000
abbrev aFabWeights : Nat := 0xC00018
abbrev aFabCredit : Nat := 0xC00020
abbrev aFabLinkerr : Nat := 0xC00030
abbrev aFabViol : Nat := 0xC00040
abbrev aFabMcast : Nat := 0xC00050
abbrev aFabFiCtrl : Nat := 0xC00058
abbrev aFabFiSeed : Nat := 0xC00060
abbrev aFabFiRate : Nat := 0xC00068
abbrev aFabVlogPtr : Nat := 0xC00078
abbrev aFabEvent : Nat := 0xC00080
abbrev aFabErr : Nat := 0xC00088
abbrev aFabVlog : Nat := 0xC01000
abbrev aRclConfig : Nat := 0xD00000
abbrev aRclGrpSel : Nat := 0xD00010
abbrev aRclSig : Nat := 0xD00020
abbrev aRclAbort : Nat := 0xD00028
abbrev aRclOffender : Nat := 0xD00030
abbrev aRclDiv : Nat := 0xD00038
abbrev aRclDone : Nat := 0xD00040
abbrev aRclAborts : Nat := 0xD00048
abbrev aRclLate : Nat := 0xD00050
abbrev aRclLat : Nat := 0xD00058
abbrev aRclEvent : Nat := 0xD00060
abbrev aRclErr : Nat := 0xD00068
abbrev aTtbCtrl : Nat := 0xE00000
abbrev aTtbNext : Nat := 0xE00010
abbrev aTtbCount : Nat := 0xE00020
abbrev aTtbEvent : Nat := 0xE00028
abbrev aTtbErr : Nat := 0xE00030
abbrev aRes : Nat := 0xF00000

/-! ## Units (R367), their event registers and their error registers -/

/-- The event register of unit `u`; CRS (10) has its status registers instead (R367). -/
def evAddr : Nat → Option Nat
  | 0 => some aSylEvent | 1 => some aSecEvent | 2 => some aPwrEvent | 3 => some aErrEvent
  | 4 => some aLkrEvent | 5 => some aPlnEvent | 6 => some aBncEvent | 7 => some aNumEvent
  | 8 => some aMkrEvent | 9 => some aStmEvent | 11 => some aCmpEvent | 12 => some aSynEvent
  | 13 => some aFabEvent | 14 => some aRclEvent | 15 => some aTtbEvent | _ => none

/-- The error register of unit `u` (R366: the log's DETAIL is its bits [47:16]); none for ERR and CRS. -/
def errAddr : Nat → Option Nat
  | 0 => some aSylErr | 1 => some aSecErr | 2 => some aPwrErr
  | 4 => some aLkrErr | 5 => some aPlnErr | 6 => some aBncErr | 7 => some aNumErr
  | 8 => some aMkrErr | 9 => some aStmErr | 11 => some aCmpErr | 12 => some aSynErr
  | 13 => some aFabErr | 14 => some aRclErr | 15 => some aTtbErr | _ => none

/-- An event of the spec: the unit that logs it, its code, and the bit it sets in the unit's event
register, when the register's table names one. -/
structure Ev where
  unit : Nat
  code : Nat
  bit  : Option Nat
  deriving DecidableEq, Repr

/-! Syllabus (SYL_EVENT: REFUSED is set on every refusal recorded in SYL_ERR) -/
def evSylFormat : Ev := ⟨0, 0x0101, some 1⟩
def evSylKey : Ev := ⟨0, 0x0102, some 1⟩
def evSylSignature : Ev := ⟨0, 0x0103, some 1⟩
def evSylLevel : Ev := ⟨0, 0x0104, some 1⟩
def evSylSection : Ev := ⟨0, 0x0105, some 1⟩
def evSylBase : Ev := ⟨0, 0x0106, some 1⟩
def evSylLate : Ev := ⟨0, 0x0107, some 1⟩
def evSylLimit : Ev := ⟨0, 0x0108, some 1⟩
def evSylCombination : Ev := ⟨0, 0x0109, some 1⟩
def evSylBusy : Ev := ⟨0, 0x010A, some 1⟩
def evSylSource : Ev := ⟨0, 0x010B, some 1⟩
def evSylLoaded : Ev := ⟨0, 0x010C, some 0⟩
def evSylPartialApplied : Ev := ⟨0, 0x010D, some 2⟩
def evSylPartialReplaced : Ev := ⟨0, 0x010E, none⟩
def evSylApplyFail : Ev := ⟨0, 0x010F, some 3⟩
/-! Host port events, logged by the error unit (unit 3) -/
def evHostAccessViolation : Ev := ⟨3, 0x0E01, none⟩
def evHostPartialWrite : Ev := ⟨3, 0x0E02, none⟩
def evHostUnmapped : Ev := ⟨3, 0x0E03, none⟩
def evHostHole : Ev := ⟨3, 0x0E04, none⟩
def evMemTimeout : Ev := ⟨3, 0x0309, none⟩
def evMemWriteFail : Ev := ⟨3, 0x030A, none⟩
/-! Faults (ERR_EVENT) -/
def evStateLost : Ev := ⟨3, 0x0302, some 3⟩
def evSramCorrected : Ev := ⟨3, 0x0303, some 0⟩
def evSramUncorrectable : Ev := ⟨3, 0x0304, some 1⟩
def evTileRecovered : Ev := ⟨3, 0x0305, some 2⟩
def evRestoreNeeded : Ev := ⟨3, 0x0306, some 5⟩
def evDivergeRepaired : Ev := ⟨3, 0x0307, some 6⟩
def evSwAbort : Ev := ⟨3, 0x0308, none⟩
/-! Sync unit, queues and results (SYN_EVENT) -/
def evBellSat : Ev := ⟨12, 0x0901, some 0⟩
def evReentry : Ev := ⟨12, 0x0902, some 2⟩
def evDeadlock : Ev := ⟨12, 0x0903, some 4⟩
def evBellOverrun : Ev := ⟨12, 0x0904, some 1⟩
def evNotMember : Ev := ⟨12, 0x0905, some 3⟩
def evQueIllegal : Ev := ⟨12, 0x0906, some 5⟩
def evQueFull : Ev := ⟨12, 0x0907, some 6⟩
def evResOverwrite : Ev := ⟨12, 0x0908, some 7⟩
def evSynBusy : Ev := ⟨12, 0x0909, some 8⟩
/-! Timetable (TTB_EVENT) -/
def evTermChanged : Ev := ⟨15, 0x0C03, some 0⟩
def evNoTerm : Ev := ⟨15, 0x0C04, some 1⟩
def evCarryLost : Ev := ⟨15, 0x0C05, some 2⟩
def evCkptDone : Ev := ⟨15, 0x0C06, some 3⟩
def evTtbRefused : Ev := ⟨15, 0x0C07, some 4⟩

/-! Lockers (LKR_EVENT); entering DETAINED sets bit 2 -/
def evLkrIllegal : Ev := ⟨4, 0x0402, some 0⟩
def evLkrStale : Ev := ⟨4, 0x0403, some 0⟩
def evLkrNoSpace : Ev := ⟨4, 0x0404, some 1⟩
def evLkrHeader : Ev := ⟨4, 0x0405, none⟩
def evLkrRecovered : Ev := ⟨4, 0x0406, some 3⟩
def evLkrLate : Ev := ⟨4, 0x0407, none⟩
def evLkrTierUe : Ev := ⟨4, 0x0301, none⟩

/-! Planner (PLN_EVENT) -/
def evRecomputeRefused : Ev := ⟨5, 0x0401, some 0⟩
def evPlnLate : Ev := ⟨5, 0x0408, some 1⟩
def evPlnPinFallback : Ev := ⟨5, 0x0409, some 2⟩
def evPlnUnpinned : Ev := ⟨5, 0x040A, some 5⟩
def evPlnHeld : Ev := ⟨5, 0x040B, some 3⟩
def evPlnNoPlace : Ev := ⟨5, 0x040C, some 4⟩

/-! Benches and row units (BNC_EVENT) -/
def evBncOperand : Ev := ⟨6, 0x0504, some 0⟩
def evBncTable : Ev := ⟨6, 0x0505, some 2⟩
def evBncUnit : Ev := ⟨6, 0x0506, some 1⟩
def evBncNonfinite : Ev := ⟨6, 0x0507, some 3⟩

/-! Numerics (NUM_EVENT) -/
def evTileOverflow : Ev := ⟨7, 0x0501, some 0⟩
def evSentinelWiden : Ev := ⟨7, 0x0502, some 1⟩
def evIllegalCode : Ev := ⟨7, 0x0503, some 2⟩
def evScaleLimit : Ev := ⟨7, 0x0508, some 3⟩
def evHistRange : Ev := ⟨7, 0x0509, some 4⟩

/-! Marker (MKR_EVENT) -/
def evNonfiniteSkip : Ev := ⟨8, 0x0601, some 0⟩
def evStateNonfinite : Ev := ⟨8, 0x0602, some 1⟩
def evClipBad : Ev := ⟨8, 0x0603, some 2⟩
def evCardFlag : Ev := ⟨8, 0x0604, some 3⟩
def evMkrSpill : Ev := ⟨8, 0x0605, some 4⟩
def evNoStage : Ev := ⟨8, 0x0606, some 5⟩
def evSweepTorn : Ev := ⟨8, 0x0607, some 6⟩
def evMkrTierUe : Ev := ⟨8, 0x0301, none⟩
def evMkrIllegal : Ev := ⟨8, 0x0503, some 7⟩

/-! Streams (STM_EVENT) -/
def evStmIllegal : Ev := ⟨9, 0x0702, some 0⟩
def evIndexRange : Ev := ⟨9, 0x0703, some 1⟩
def evStmBusy : Ev := ⟨9, 0x0704, some 2⟩
def evStmBusErr : Ev := ⟨9, 0x0705, some 3⟩
def evSatchelBad : Ev := ⟨9, 0x0706, some 4⟩
def evStmAborted : Ev := ⟨9, 0x070B, none⟩
def evStmTierUe : Ev := ⟨9, 0x0301, none⟩

/-! Couriers: unit 10 has status registers in place of an event register (R367) -/
def evCourierBusErr : Ev := ⟨10, 0x0701, none⟩
def evCrsIllegal : Ev := ⟨10, 0x0707, none⟩
def evCrsBusy : Ev := ⟨10, 0x0708, none⟩
def evCrcMismatch : Ev := ⟨10, 0x0709, none⟩
def evPaceOverrun : Ev := ⟨10, 0x070A, none⟩
def evCrsAborted : Ev := ⟨10, 0x070B, none⟩

/-! Codecs (CMP_EVENT) -/
def evCmpCode : Ev := ⟨11, 0x0801, some 0⟩
def evCmpLen : Ev := ⟨11, 0x0802, some 1⟩

/-! Fabric (FAB_EVENT) -/
def evPartnerViolation : Ev := ⟨13, 0x0A01, some 0⟩
def evLinkDetention : Ev := ⟨13, 0x0A02, some 1⟩
def evMcastDetach : Ev := ⟨13, 0x0A03, some 2⟩
def evLinkDown : Ev := ⟨13, 0x0A04, some 3⟩
def evNakReceived : Ev := ⟨13, 0x0A05, some 4⟩
def evMcastRepaired : Ev := ⟨13, 0x0A06, some 5⟩

/-! Collectives (RCL_EVENT) -/
def evCeTimeout : Ev := ⟨14, 0x0B01, some 0⟩
def evCeMismatch : Ev := ⟨14, 0x0B02, some 1⟩
def evCeMemberLost : Ev := ⟨14, 0x0B03, some 2⟩
def evCeRoster : Ev := ⟨14, 0x0B04, some 3⟩
def evDiverge : Ev := ⟨14, 0x0B05, some 4⟩
def evUnresolved : Ev := ⟨14, 0x0B06, some 5⟩
def evRclIllegal : Ev := ⟨14, 0x0B07, some 9⟩
def evRclNotMember : Ev := ⟨14, 0x0B08, some 9⟩
def evDivergeLocated : Ev := ⟨14, 0x0B09, some 6⟩
def evHwAdded : Ev := ⟨14, 0x0C01, some 7⟩
def evHwDropped : Ev := ⟨14, 0x0C02, some 8⟩

/-! Security (SEC_EVENT); SEC_BUSY has no bit -/
def evSecMac : Ev := ⟨1, 0x0201, some 0⟩
def evSecSeal : Ev := ⟨1, 0x0202, some 1⟩
def evRosterFail : Ev := ⟨1, 0x0203, some 2⟩
def evSecDomain : Ev := ⟨1, 0x0204, some 3⟩
def evRestoreBad : Ev := ⟨1, 0x0205, some 4⟩
def evRestored : Ev := ⟨1, 0x0206, some 5⟩
def evSecBusy : Ev := ⟨1, 0x0207, none⟩
def evEntropy : Ev := ⟨1, 0x0208, some 6⟩

/-! Power (PWR_EVENT) -/
def evReplan : Ev := ⟨2, 0x0D01, some 0⟩
def evDroop : Ev := ⟨2, 0x0D02, some 1⟩
def evGrantLow : Ev := ⟨2, 0x0D03, some 2⟩
def evVinRange : Ev := ⟨2, 0x0D04, some 3⟩
def evFloor : Ev := ⟨2, 0x0D05, some 4⟩

end Sys2Proof.Machine
end

