-- ==== Sys2Proof/Machine/P384.lean ====
section
/-! DEFINITION. The curve P-384 (FIPS 186-5, SP 800-186): public keys, ECDSA over a SHA-384 digest (R49, R371, R375, R381), ECDH. A
key or signature held as a number has its byte `i` in bits `[8i+7:8i]`; as bytes it is x then y, or r then s, 48 bytes
each, big-endian. -/

namespace Sys2Proof.Machine

/-- The field's prime, the curve's b, the base point and its order. -/
def p384Field : Nat :=
  0xfffffffffffffffffffffffffffffffffffffffffffffffffffffffffffffffeffffffff0000000000000000ffffffff
def p384B : Nat :=
  0xb3312fa7e23ee7e4988e056be3f82d19181d9c6efe8141120314088f5013875ac656398d8a2ed19d2a85c8edd3ec2aef
def p384Gx : Nat :=
  0xaa87ca22be8b05378eb1c71ef320ad746e1d3b628ba79b9859f741e082542a385502f25dbf55296c3a545e3872760ab7
def p384Gy : Nat :=
  0x3617de4a96262c6f5d9e98bf9292dc29f8f41dbd289a147ce9da3113b5f0b8c00a60b1ce1d7e819d7a431d7c90ea0e5f
def p384Order : Nat :=
  0xffffffffffffffffffffffffffffffffffffffffffffffffc7634d81f4372ddf581a0db248b0a77aecec196accc52973

/-- Difference modulo `p`, and the power `x ^ e` modulo `p` with `n` bits of `e`. -/
def subMod (p a b : Nat) : Nat := (a + p - b % p) % p
def powMod (p x : Nat) : Nat → Nat → Nat
  | 0, _ => 1
  | n + 1, e =>
    let r := powMod p x n (e / 2)
    if e % 2 = 1 then r * r % p * x % p else r * r % p
/-- The inverse modulo a prime of 384 bits. -/
def invMod (p x : Nat) : Nat := powMod p x 384 (p - 2)

/-- A point in Jacobian coordinates; the point at infinity has z = 0. -/
structure JPoint where
  x : Nat
  y : Nat
  z : Nat
  deriving DecidableEq, Repr

def JPoint.zero : JPoint := ⟨1, 1, 0⟩
def p384G : JPoint := ⟨p384Gx, p384Gy, 1⟩

/-- Twice a point, on a curve with a = -3. -/
def JPoint.double (q : JPoint) : JPoint :=
  let p := p384Field
  let d := q.z * q.z % p
  let g := q.y * q.y % p
  let b := q.x * g % p
  let a := 3 * (subMod p q.x d) * (q.x + d) % p
  let x := subMod p (a * a) (8 * b)
  ⟨x, subMod p (a * subMod p (4 * b) x) (8 * g * g), 2 * q.y * q.z % p⟩

/-- The sum of two points. -/
def JPoint.add (q r : JPoint) : JPoint :=
  let p := p384Field
  if q.z = 0 then r
  else if r.z = 0 then q
  else
    let qz := q.z * q.z % p
    let rz := r.z * r.z % p
    let u1 := q.x * rz % p
    let u2 := r.x * qz % p
    let s1 := q.y * (rz * r.z % p) % p
    let s2 := r.y * (qz * q.z % p) % p
    if u1 = u2 then (if s1 = s2 then q.double else JPoint.zero)
    else
      let h := subMod p u2 u1
      let w := subMod p s2 s1
      let hh := h * h % p
      let hhh := hh * h % p
      let v := u1 * hh % p
      let x := subMod p (w * w) (hhh + 2 * v)
      ⟨x, subMod p (w * subMod p v x) (s1 * hhh), h * q.z % p * r.z % p⟩

/-- `k` times a point, with `n` bits of `k`. -/
def JPoint.mul (q : JPoint) : Nat → Nat → JPoint
  | 0, _ => JPoint.zero
  | n + 1, k =>
    let h := (JPoint.mul q n (k / 2)).double
    if k % 2 = 1 then h.add q else h

/-- The affine coordinates of a point that is not at infinity. -/
def JPoint.affine (q : JPoint) : Nat × Nat :=
  let p := p384Field
  let i := invMod p q.z
  let i2 := i * i % p
  (q.x * i2 % p, q.y * (i2 * i % p) % p)

/-- Two numbers of 48 bytes each, big-endian, one after the other, held as one number. -/
def pairKey (x y : Nat) : BitVec 768 := BitVec.ofNat 768 (leNat (beBytes 48 x ++ beBytes 48 y))

/-- The 96 bytes of a key or signature. -/
def keyBytes (k : BitVec 768) : Bytes := leBytes 96 k.toNat

/-- The public key of a private key. -/
def ecPublic (d : Nat) : BitVec 768 :=
  let a := (p384G.mul 384 d).affine
  pairKey a.1 a.2

/-- The point of a public key's 96 bytes, when it lies on the curve. -/
def ecPoint (key : Bytes) : Option JPoint :=
  let p := p384Field
  let x := beNat (slice key 0 48)
  let y := beNat (slice key 48 48)
  if x < p ∧ y < p ∧ y * y % p = (subMod p (x * x % p * x) (3 * x) + p384B) % p then some ⟨x, y, 1⟩ else none

/-- The number that ECDSA takes from a SHA-384 digest. -/
def digestNum (d : BitVec 384) : Nat := beNat (leBytes 48 d.toNat)

/-- ECDSA verification: public key, digest, signature. -/
def ecdsaVerify (key : Bytes) (digest : BitVec 384) (sig : Bytes) : Bool :=
  let n := p384Order
  let r := beNat (slice sig 0 48)
  let s := beNat (slice sig 48 48)
  match ecPoint key with
  | none => false
  | some q =>
    if r = 0 ∨ n ≤ r ∨ s = 0 ∨ n ≤ s then false
    else
      let w := invMod n s
      let t := (p384G.mul 384 (digestNum digest * w % n)).add (q.mul 384 (r * w % n))
      decide (t.z ≠ 0) && decide (t.affine.1 % n = r)

/-- ECDSA signature by private key `d` with the secret number `k`, 0 < k < n. A zero r or s, for which the standard draws `k`
anew, is not looked for. -/
def ecdsaSign (d : Nat) (digest : BitVec 384) (k : Nat) : BitVec 768 :=
  let n := p384Order
  let r := (p384G.mul 384 k).affine.1 % n
  pairKey r (invMod n k * (digestNum digest + r * d) % n)

/-- The shared secret of ECDH: the x coordinate of the product, as 48 bytes; none for a key that is no point of the curve. -/
def ecdh (d : Nat) (key : Bytes) : Option Bytes :=
  match ecPoint key with
  | none => none
  | some q =>
    let t := q.mul 384 d
    if t.z = 0 then none else some (beBytes 48 t.affine.1)

end Sys2Proof.Machine
end

