-- ==== Sys2Proof/Machine/Sha.lean ====
section
/-! DEFINITION. SHA-384 (FIPS 180-4) and HMAC-SHA-384, on byte runs: the hash of R49, R371, R374 and R381. -/

namespace Sys2Proof.Machine

/-- The round constants of FIPS 180-4: the first 64 bits of the fractional parts of the cube roots of the first 80 primes. -/
def shaK0 : List Nat :=
  [0x428a2f98d728ae22, 0x7137449123ef65cd, 0xb5c0fbcfec4d3b2f, 0xe9b5dba58189dbbc, 0x3956c25bf348b538,
   0x59f111f1b605d019, 0x923f82a4af194f9b, 0xab1c5ed5da6d8118, 0xd807aa98a3030242, 0x12835b0145706fbe,
   0x243185be4ee4b28c, 0x550c7dc3d5ffb4e2, 0x72be5d74f27b896f, 0x80deb1fe3b1696b1, 0x9bdc06a725c71235,
   0xc19bf174cf692694, 0xe49b69c19ef14ad2, 0xefbe4786384f25e3, 0xfc19dc68b8cd5b5, 0x240ca1cc77ac9c65,
   0x2de92c6f592b0275, 0x4a7484aa6ea6e483, 0x5cb0a9dcbd41fbd4, 0x76f988da831153b5, 0x983e5152ee66dfab,
   0xa831c66d2db43210, 0xb00327c898fb213f, 0xbf597fc7beef0ee4, 0xc6e00bf33da88fc2, 0xd5a79147930aa725,
   0x6ca6351e003826f, 0x142929670a0e6e70, 0x27b70a8546d22ffc, 0x2e1b21385c26c926, 0x4d2c6dfc5ac42aed,
   0x53380d139d95b3df, 0x650a73548baf63de, 0x766a0abb3c77b2a8, 0x81c2c92e47edaee6, 0x92722c851482353b]
def shaK1 : List Nat :=
  [0xa2bfe8a14cf10364, 0xa81a664bbc423001, 0xc24b8b70d0f89791, 0xc76c51a30654be30, 0xd192e819d6ef5218,
   0xd69906245565a910, 0xf40e35855771202a, 0x106aa07032bbd1b8, 0x19a4c116b8d2d0c8, 0x1e376c085141ab53,
   0x2748774cdf8eeb99, 0x34b0bcb5e19b48a8, 0x391c0cb3c5c95a63, 0x4ed8aa4ae3418acb, 0x5b9cca4f7763e373,
   0x682e6ff3d6b2b8a3, 0x748f82ee5defb2fc, 0x78a5636f43172f60, 0x84c87814a1f0ab72, 0x8cc702081a6439ec,
   0x90befffa23631e28, 0xa4506cebde82bde9, 0xbef9a3f7b2c67915, 0xc67178f2e372532b, 0xca273eceea26619c,
   0xd186b8c721c0c207, 0xeada7dd6cde0eb1e, 0xf57d4f7fee6ed178, 0x6f067aa72176fba, 0xa637dc5a2c898a6,
   0x113f9804bef90dae, 0x1b710b35131c471b, 0x28db77f523047d84, 0x32caab7b40c72493, 0x3c9ebe0a15c9bebc,
   0x431d67c49c100d4c, 0x4cc5d4becb3e42b6, 0x597f299cfc657e2a, 0x5fcb6fab3ad6faec, 0x6c44198c4a475817]

/-- The eight working words. -/
structure Sha where
  a : Nat
  b : Nat
  c : Nat
  d : Nat
  e : Nat
  f : Nat
  g : Nat
  h : Nat
  deriving DecidableEq, Repr

def shaInit : Sha :=
  { a := 0xcbbb9d5dc1059ed8
    b := 0x629a292a367cd507
    c := 0x9159015a3070dd17
    d := 0x152fecd8f70e5939
    e := 0x67332667ffc00b31
    f := 0x8eb44a8768581511
    g := 0xdb0c2e0d64f98fa7
    h := 0x47b5481dbefa4fa4 }

/-- `x` rotated right by `n` bits, in 64 bits. -/
def rotr64 (x n : Nat) : Nat := (x >>> n) ||| ((x <<< (64 - n)) % 2 ^ 64)

/-- One round with constant `k` and schedule word `w`. -/
def Sha.round (s : Sha) (k w : Nat) : Sha :=
  let s1 := rotr64 s.e 14 ^^^ rotr64 s.e 18 ^^^ rotr64 s.e 41
  let ch := (s.e &&& s.f) ^^^ ((2 ^ 64 - 1 - s.e) &&& s.g)
  let t1 := s.h + s1 + ch + k + w
  let s0 := rotr64 s.a 28 ^^^ rotr64 s.a 34 ^^^ rotr64 s.a 39
  let mj := (s.a &&& s.b) ^^^ (s.a &&& s.c) ^^^ (s.b &&& s.c)
  { a := (t1 + s0 + mj) % 2 ^ 64, b := s.a, c := s.b, d := s.c, e := (s.d + t1) % 2 ^ 64, f := s.e, g := s.f, h := s.g }

/-- The rounds over constants `ks`, with the next sixteen words of the message schedule in `ws`. -/
def shaRounds : List Nat → List Nat → Sha → Sha
  | [], _, s => s
  | k :: ks, ws, s =>
    let w0 := ws.getD 0 0
    let x := ws.getD 1 0
    let y := ws.getD 14 0
    let s0 := rotr64 x 1 ^^^ rotr64 x 8 ^^^ (x >>> 7)
    let s1 := rotr64 y 19 ^^^ rotr64 y 61 ^^^ (y >>> 6)
    shaRounds ks (ws.drop 1 ++ [(s1 + ws.getD 9 0 + s0 + w0) % 2 ^ 64]) (s.round k w0)

/-- One block of 128 bytes. -/
def Sha.block (s : Sha) (b : Bytes) : Sha :=
  let t := shaRounds (shaK0 ++ shaK1) ((List.range 16).map fun i => beNat (slice b (8 * i) 8)) s
  { a := (s.a + t.a) % 2 ^ 64, b := (s.b + t.b) % 2 ^ 64, c := (s.c + t.c) % 2 ^ 64, d := (s.d + t.d) % 2 ^ 64
    e := (s.e + t.e) % 2 ^ 64, f := (s.f + t.f) % 2 ^ 64, g := (s.g + t.g) % 2 ^ 64, h := (s.h + t.h) % 2 ^ 64 }

/-- The padded message: a bit 1, zeros, the length in bits as 128 bits, most significant first. -/
def shaPad (b : Bytes) : Bytes := b ++ [0x80] ++ List.replicate ((239 - b.length % 128) % 128) 0 ++ beBytes 16 (8 * b.length)

/-- SHA-384: byte `i` of the digest in bits `[8i+7:8i]`. -/
def sha384 (b : Bytes) : BitVec 384 :=
  let p := shaPad b
  let s := (pieces 128 (p.length / 128) p).foldl Sha.block shaInit
  BitVec.ofNat 384 (leNat ([s.a, s.b, s.c, s.d, s.e, s.f].flatMap (beBytes 8)))

/-- The 48 bytes of a SHA-384 digest. -/
def digestBytes (d : BitVec 384) : Bytes := leBytes 48 d.toNat

/-- HMAC-SHA-384: key, text. -/
def hmac384 (key text : Bytes) : BitVec 384 :=
  let k := if 128 < key.length then digestBytes (sha384 key) else key
  let k := k ++ List.replicate (128 - k.length) 0
  sha384 (k.map (· ^^^ 0x5C) ++ digestBytes (sha384 (k.map (· ^^^ 0x36) ++ text)))

end Sys2Proof.Machine
end

