-- ==== Sys2Proof/Machine/Kdf.lean ====
section
/-! DEFINITION. Key derivation (R371, R381, R447) over the hash and the curve, and the draws of
the signature's secret number (R372). -/

namespace Sys2Proof.Machine

/-- The 32 bytes of DS, fuse words 0 to 3, least significant word first (R432). -/
def dsBytes (fuses : List Word) : Bytes := (fuses.take 4).flatMap fun w => leBytes 8 w.toNat

/-- The NIST SP 800-108 counter-mode KDF with HMAC-SHA-384 (R447): `bits` bits under `key`. -/
def kdf108 (key label ctx : Bytes) (bits : Nat) : Bytes :=
  let one (i : Nat) : Bytes :=
    digestBytes (hmac384 key (beBytes 4 i ++ label ++ [0] ++ ctx ++ beBytes 4 bits))
  (((List.range ((bits + 383) / 384)).map (· + 1)).flatMap one).take (bits / 8)

/-- ASCII bytes of a text. -/
def ascii (t : String) : Bytes := t.toList.map fun c => BitVec.ofNat 8 c.toNat

/-- The identity private key of R371. -/
def identityKey (fuses : List Word) : Nat :=
  beNat (kdf108 (dsBytes fuses) (ascii "ZRL identity") [] 448) % (p384Order - 1) + 1

/-- The NIST SP 800-56C one-step KDF over SHA-384 (R381): `n` bytes from a shared secret. -/
def kdf56c (z fixed : Bytes) (n : Nat) : Bytes :=
  let one (i : Nat) : Bytes := digestBytes (sha384 (beBytes 4 i ++ z ++ fixed))
  (((List.range ((n + 47) / 48)).map (· + 1)).flatMap one).take n

/-- DS reads all zeros or all ones: the form derives no identity (R432). -/
def noDs (fuses : List Word) : Bool :=
  (dsBytes fuses).all (· == 0) || (dsBytes fuses).all (· == 0xFF)

/-- The secret number of a signature, from the free bytes numbered `f`. -/
def signSecret (f : Nat) : Nat := beNat ((List.range 48).map (Config.freeByte f)) % (p384Order - 1) + 1

/-- The bytes of the shared secret of a private key and a public key (R381). -/
def sharedSecret (d : Nat) (key : Bytes) : Bytes := (ecdh d key).getD (digestBytes (Config.noSecret d key))

end Sys2Proof.Machine
end

