-- ==== Sys2Proof/Machine/State.lean ====
section
/-! DEFINITION. The state of one form of the block, as plain data: every register, table, queue, buffer and pin
the spec gives it, and the queue of waiting commands. Simple registers are held in one table under their form
offsets (R440); objects with structure (bells, queues, lockers, contexts, links) have types of their own. -/

namespace Sys2Proof.Machine

/-- Why the machine stops with a fault: never. Every error of the block is logged and handled by its own rules, so no
command ends a run; the type has no value. Safe: a fault that cannot be built claims nothing. -/
inductive Fault where
  deriving DecidableEq, Repr

/-- Why a command has no meaning. -/
inductive Refusal where
  /-- The command's row has no meaning in the model yet; raised by `exec` alone. Safe: nothing is claimed. -/
  | notModelled (mnemonic : String)
  deriving DecidableEq, Repr

/-! ## Part and pins -/

/-- The part and what it samples at reset: the straps (R407), the fuse words (R432). -/
structure Part where
  /-- Parameter set: 0 ZR-S, 1 ZR-M, 2 ZR-L, 3 ZR-X. -/
  set : Nat
  form : Nat
  fed : Nat
  /-- compat_level as sampled, and idcode_mfr. -/
  compat : Nat
  mfr : Nat
  /-- The minimum service set is whole (R350, R351). -/
  whole : Bool
  /-- Fuse words 0 to 15. -/
  fuses : List Word
  deriving DecidableEq, Repr

/-- Levels of the output and input pins of the power port and the clock port (17, Table: Power...; R409). -/
structure Pins where
  pwrReq : Nat
  pwrVid : Nat
  grant : Nat
  droop : Bool
  fclkReq : Bool
  fclkEn : Bool
  farUp : Bool
  deriving DecidableEq, Repr

/-- What the block drives at its ports, oldest first. -/
inductive PortOut where
  /-- A request beat at memory port 0 or 1, or at the far port (2): write?, class, tag, unit address (bits
  [..:8] of the port address), byte-lane mask, write data. -/
  | memReq (port : Nat) (wr : Bool) (cls tag unit mask : Nat) (data : Bytes)
  /-- A run of bytes moved between the block and the syllabus store over the memory ports: write?, T1 address. -/
  | store (wr : Bool) (addr len : Nat)
  /-- Command bytes fetched from the syllabus store as the loader's requests (R203, R329): section type, offset in it, bytes. -/
  | fetch (ty off len : Nat)
  /-- A satchel to the main engines, and a satchel credit to them. -/
  | engSatchel (ch : Nat) (sat : Bytes)
  | engCredit (ch : Nat)
  /-- A frame on fabric port 0 or 1, or on UCIe link 2 to 5 (link l is 2 + l). -/
  | frame (port : Nat) (bytes : Bytes)
  /-- The sections of a verified image that the head form sends to form `form` (R52): type, bytes. -/
  | sections (form : Nat) (sects : List (Nat × Bytes))
  /-- A domain key message that the head form has accepted, sent on to form `form` (R375). -/
  | domain (form : Nat) (msg : Bytes)
  /-- A satchel sent along the weight chain: direction (0 down, 1 up the CHAIN order), the form and context that sent it,
  slot, T1 window?, BENCH_LOAD? -/
  | chain (dir form ctx slot : Nat) (t1 load : Bool) (sat : Bytes)
  /-- This form's commit (or failed check) of a chain satchel, told to the form and context that sent it (R202). -/
  | chainTell (form ctx : Nat) (ok : Bool)
  /-- A sideband message on UCIe link `link`: kind 1 warm reset, 2 zeroisation. -/
  | sideband (link kind : Nat)
  /-- A read response at the host control port. -/
  | hostResp (data : Word) (err : Bool)
  /-- A fuse word request. -/
  | fuseReq (addr : Nat)
  /-- A TAP capture (DBGACC data register). -/
  | tapCapture (data : Word)
  deriving DecidableEq, Repr

/-! ## Syllabus -/

/-- A verified image, as the sections addressed to this form: section type ↦ bytes. -/
structure Image where
  kind : Nat
  level : Nat
  serial : Nat
  baseSerial : Nat
  applyStep : Nat
  /-- The digest that R49 verified. -/
  digest : BitVec 384
  ownerKey : Bytes
  /-- LENGTH of the image in the store. -/
  len : Nat
  sect : Tab Bytes
  /-- Every section of the image, those of other forms included: type, form mask, bytes. -/
  all : List (Nat × Nat × Bytes)
  deriving DecidableEq, Repr

/-- The loader (R51 to R62). -/
structure Loader where
  /-- SYL_STATUS.PHASE: 0 idle, 1 fetch, 2 verify, 3 distribute, 4 apply; BUSY is phase ≠ 0. -/
  phase : Nat
  /-- Kind (1 full, 2 partial) and source (push?) of the load in progress. -/
  kind : Nat
  push : Bool
  /-- Bytes received in the current push. -/
  recv : Bytes
  pushed : Nat
  /-- The verified full image waiting to be applied. -/
  verified : Option Image
  /-- The verified partial image that is pending (R60). -/
  pend : Option Image
  /-- The digest of the last partial image applied (R374, measurement 6). -/
  lastPartial : BitVec 384
  /-- A full load has been applied since the reset (R53). -/
  loaded : Bool
  deriving DecidableEq, Repr

/-! ## Sync unit, queues, results -/

/-- An arrival held until its slot drains (R246, row 1). -/
structure HeldArr where
  part : Nat
  sense : Nat
  queue : Nat
  deriving DecidableEq, Repr

/-- An assembly (R245 to R249); COUNT[s] is the number of bits of ARR[s]. -/
structure Asm where
  mask : Word
  arr0 : Word
  arr1 : Word
  round : BitVec 32
  drain0 : Bool
  drain1 : Bool
  held : List HeldArr
  deriving DecidableEq, Repr, Inhabited

/-- Which entry a command of a timetable queue came from: kind 0 section in force, 1 checkpoint, 2 recompute
run `run`; the entry and the command's index in it. -/
structure EntTag where
  kind : Nat
  run : Nat
  entry : Nat
  idx : Nat
  deriving DecidableEq, Repr, Inhabited

/-- Whether a queue runs, is STOPPED or is HALTED (R259). -/
inductive QRun where
  | going | stopped | halted
  deriving DecidableEq, Repr, Inhabited

/-- A command queue (R256 to R259). Its commands lie in its ring in the cloakroom. -/
structure Que where
  head : Nat
  tail : Nat
  code : Nat
  run : QRun
  /-- The queue tested its head's waits and they do not hold (WAITING). -/
  waiting : Bool
  /-- The waits of the command at issue have been taken. -/
  taken : Bool
  /-- The command at issue is with its unit, which has not accepted it yet. -/
  issued : Bool
  /-- The command held aside (ASIDE) and where it came from. -/
  aside : Option (Cmd × Option EntTag)
  /-- The command at HEAD was issued before a failing one stopped the queue, and is still with its unit: it runs on (R259). -/
  late : Bool
  /-- The waits of the command at HEAD were taken, while another command is held aside. -/
  headTaken : Bool
  /-- A HALT waits for the next command boundary. -/
  haltReq : Bool
  /-- An arrival of this queue's last completed command is held (HELD). -/
  held : Bool
  /-- Where the commands from HEAD to TAIL came from (timetable queues). -/
  tags : List (Option EntTag)
  deriving DecidableEq, Repr, Inhabited

/-- A command that its unit has accepted and that has not completed (R258). -/
structure Flight where
  queue : Nat
  cmd : Cmd
  tag : Option EntTag
  /-- The unit's work is over; COMMAND_COMPLETE applies the signals. -/
  done : Bool
  /-- The entry was abandoned: no signals, no completion (R335). -/
  dropped : Bool
  /-- The largest finite |F| that the command quantised, as FP32 bits (R159). -/
  amax : Nat
  /-- A bench or row-unit command has run; its last outputs are still on their way. -/
  ran : Bool
  /-- A READ that a pass has been bound to (R445). -/
  bound : Bool
  deriving DecidableEq, Repr

/-- A result slot with its two read copies (R261, R262). -/
structure ResSlot where
  value : Word
  valid : Bool
  overw : Bool
  seq : BitVec 32
  copy : Word
  takeEmpty : Bool
  takeSeq : BitVec 32
  deriving DecidableEq, Repr, Inhabited

/-- Form-wide state of the sync unit and the tutor's queues. -/
structure SyncSt where
  /-- Queues in the order in which their head commands began to wait (R242). -/
  waiters : List Nat
  /-- Round robin position of the tutor (R260). -/
  lastQ : Nat
  /-- QUE_STAGE0 to QUE_STAGE7 (R257). -/
  stage : Cmd
  /-- DEADLOCK has been logged and no queue has advanced HEAD since (R264). -/
  dlLogged : Bool
  /-- SYN_DL: records written, queues blocked, lowest blocked queue (R265). -/
  dlRecords : Nat
  dlBlocked : Nat
  dlFirst : Nat
  deriving DecidableEq, Repr

/-! ## Tutor -/

/-- The state of one entry of a running section, checkpoint or recompute (R329, R330). -/
structure EntRun where
  kind : Nat
  run : Nat
  entry : Nat
  /-- The period it belongs to; 0 for a recompute or checkpoint entry. -/
  period : Nat
  copied : Nat
  doneCount : Nat
  ended : Bool
  /-- Commands whose waits the abandoned run took, and signals it applied (R335). -/
  deemed : List Nat
  signalled : List Nat
  /-- Commands of the run that have completed once. -/
  finished : List Nat
  deriving DecidableEq, Repr

/-- Where the closing sequence stands (R333): before the gate roll call (staged tiles are checked), in it, and so on; `arrive`
is the arrival at the closing assembly. -/
inductive Closing where
  | idle | gate | gating | clip | sweep | digest | digesting | searching | close | closeWait | arrive | done
  deriving DecidableEq, Repr

/-- The tutor's sequencer (R326 to R346). -/
structure Tutor where
  /-- 0 HALTED, 1 RUNNING, 2 HALTING. -/
  st : Nat
  /-- TTB_STATUS.PHASE: 0 none, 1 periods, 2 closing sequence, 3 exam, 4 checkpoint, 5 change of term. -/
  phase : Nat
  haltPending : Bool
  /-- PLN_STATUS.TERM: 0 none, 1 learning, 2 generation, 3 exam. -/
  term : Nat
  /-- The term that runs again after an exam. -/
  mainTerm : Nat
  started : Nat
  drained : Nat
  termSteps : Nat
  runs : List EntRun
  nextRun : Nat
  closing : Closing
  /-- The between-steps items still to run, by their order in Table: Between steps. -/
  between : List Nat
  /-- The step boundary was found complete and its actions have not run yet (R250). -/
  boundary : Bool
  /-- Further completed rounds of the closing assembly whose actions wait (R250). -/
  extra : Nat
  /-- A checkpoint runs; the section with which it started (R343). -/
  ckpt : Bool
  ckptSect : Bytes
  ckptApplied : Nat
  /-- This learning step's gate applied the update (R342). -/
  gateApplied : Bool
  /-- Limits in force (R340): LIMIT_T0, LIMIT_T1, CARRY_BASE, CARRY_COUNT. -/
  limT0 : Nat
  limT1 : Nat
  carryBase : Nat
  carryCount : Nat
  /-- The term that a change of term in progress leads to (R340). -/
  toTerm : Nat
  deriving DecidableEq, Repr

/-! ## Lockers and planner -/

/-- How far one position of a run being written has come: 0 not written, 1 payload in flight, 2 payload
written, 3 header in flight, 4 header written, 5 committed (R74); the requester of its writes (R203); with its header and its
scales (the companion buffer of R74). -/
structure PosW where
  st : Nat
  who : Nat
  hdr : Bytes
  scales : Bytes
  deriving DecidableEq, Repr, Inhabited

/-- The recompute record of a locker (R138). -/
structure RecRec where
  entry : Nat
  unit : Nat
  step : Nat
  mb : Nat
  layer : Nat
  tensor : Nat
  qstate : Nat
  qfmt : Nat
  deriving DecidableEq, Repr, Inhabited

/-- The visible fields of a locker entry (R82). -/
structure LkrEnt where
  st : Nat
  tier : Nat
  src : Nat
  dest : Nat
  isRecall : Bool
  prior : Nat
  cls : Nat
  prov : Nat
  fmt : Nat
  len : Nat
  first : Nat
  dslot : Nat
  done : Nat
  epoch : Nat
  depoch : Nat
  reads : Nat
  need : Nat
  ticket : Nat
  gen : Nat
  deriving DecidableEq, Repr, Inhabited

/-- A locker: its entry and the work that goes on for it. -/
structure Locker where
  e : LkrEnt
  /-- Extents held: the run's slots and the destination's, as tier and first slot. -/
  slotA : Option (Nat × Nat)
  slotB : Option (Nat × Nat)
  /-- Positions of the current OPEN, move, recall or recompute. -/
  wpos : Tab PosW
  /-- The mover that carries its move, recall or recompute, 0 to 15 (R200); positions whose source read it has issued. -/
  mover : Option Nat
  moveNext : Nat
  /-- Opened since the last closing assembly; opened by the running exam. -/
  opened : Bool
  byExam : Bool
  /-- The timetable command that opened it (R161). -/
  openBy : Option EntTag
  /-- OPEN with the RECOMPUTE placement. -/
  drop : Bool
  rr : RecRec
  hist : Nat
  /-- A RECALL held behind a move, as the tier named (R86). -/
  heldRecall : Option Nat
  /-- A RELEASE waits for reads and moves in flight (R84). -/
  rel : Bool
  /-- Backlog share of a position: bytes, bytes more for the last, far? (R101); zero when none is counted. -/
  share : Nat
  shareLast : Nat
  shareFar : Bool
  deriving DecidableEq, Repr, Inhabited

/-- An OPEN held for want of space (R109). -/
structure HeldOpen where
  queue : Nat
  cmd : Cmd
  deriving DecidableEq, Repr

/-- The planner's own state (R94 to R115). -/
structure Planner where
  /-- Hall-clock cycles since the start of period 1 of the step; none before the first (R99). -/
  clock : Option Nat
  /-- The record of the most recent live evaluation: PLN_LAST_IN, W, four costs (R114). -/
  live : List Word
  /-- Recall list: locker ↦ (period, GEN + 1); absent entries are default (R111). -/
  listed : Tab (Nat × Nat)
  held : List HeldOpen
  deriving DecidableEq, Repr

/-! ## Memory ports -/

/-- The share a request is made under (R203). -/
inductive Cls where
  | read | write | remote
  deriving DecidableEq, Repr

/-- One 256-byte request: port 0 or 1 memory, 2 far (R415 to R422). -/
structure MemReq where
  port : Nat
  wr : Bool
  cls : Cls
  unit : Nat
  mask : Nat
  data : Bytes
  /-- Requester number for the round robin: contexts 0 to 4,095, movers 4,096 to 4,111, Marker 4,112, loader
  4,113, courier engine 4,114 (R203). -/
  who : Nat
  job : Nat
  idx : Nat
  deriving DecidableEq, Repr

/-- A request sent and not answered: its tag, and whether it is a retry (R420). -/
structure MemOut where
  tag : Nat
  req : MemReq
  retried : Bool
  deriving DecidableEq, Repr

/-- Where a tile lies: tier, slot address, header address, and the epoch it carries or must carry. -/
structure Loc where
  tier : Nat
  pay : Nat
  hdr : Nat
  epoch : Nat
  deriving DecidableEq, Repr, Inhabited

/-- A tile by what it belongs to (R353, R354): position of a locker, tile of a staging run, slot of a weight window, tile
of a piece area, record slot. -/
inductive RTile where
  | locker (l pos : Nat)
  | stage (run tile : Nat)
  | window (t1 : Bool) (slot : Nat)
  | state_ (piece part tile : Nat)
  | record (slot : Nat)
  deriving DecidableEq, Repr

/-- For whom a tile is read. -/
inductive TileUse where
  /-- Entry `i` of context `c`. -/
  | stream (c i : Nat)
  /-- Position `pos` of a directory move of locker `l`. -/
  | mover (l pos : Nat)
  /-- A source attempt of recovery `r`. -/
  | recov (r : Nat)
  /-- The Marker: piece, part, tile. -/
  | marker (piece part tile : Nat)
  /-- A state fetch served for a peer (R356), an export (R388), a restore or a checkpoint record. -/
  | fetch (r i : Nat)
  | export_ (i : Nat)
  /-- Nobody waits for the tile. -/
  | idle
  deriving DecidableEq, Repr

/-- A tile that is read, and what is expected of it (R76): its place, the OWNER and POSITION words (none: step 5 is
skipped), its FORMAT, and its companion's place with its position, first sub-slot and sub-slot count; `anyEp`: the
epoch is the header's (staged gradients, Table: Expected epochs); `pass`: a coded tile travels on coded (R223). -/
structure TileRd where
  use : TileUse
  tile : RTile
  loc : Loc
  own : Option (Nat × Nat)
  fmt : Nat
  comp : Option (Loc × Nat × Nat × Nat)
  anyEp : Bool
  pass : Bool
  /-- 0 headers being read, 1 payloads being read. -/
  phase : Nat
  deriving DecidableEq, Repr

/-- A tile as read: whether every check passed, its header as stored, its scale bytes, its payload, and whether the
payload is coded. -/
structure TileGot where
  ok : Bool
  hdr : Bytes
  scales : Bytes
  pay : Bytes
  coded : Bool
  deriving DecidableEq, Repr, Inhabited

/-- For whom a tile is written. -/
inductive WrUse where
  | locker (l pos : Nat)
  | window (c i slot : Nat)
  /-- A chain satchel that context `c` of form `form` sent (R201). -/
  | chain (c form slot : Nat)
  | marker (piece part tile : Nat)
  | recov (r : Nat)
  | stage (run tile : Nat)
  /-- A state tile that a restore rewrites (R387). -/
  | restore
  | plain
  deriving DecidableEq, Repr

/-- A piece of work that waits for memory-port responses. -/
inductive JobKind where
  | tileRd (r : TileRd)
  /-- A payload (hdr = false) or header write of a tile at `loc`; `head` is the header to write after it; the share
  that leaves a backlog with the last response, and whether it is the far one (R101). -/
  | tileWr (use : WrUse) (loc : Loc) (hdr : Bool) (head : Bytes) (share : Nat) (far : Bool)
  /-- The reads and the writes of a courier burst. -/
  | crsRd (k : Nat)
  | crsWr (k : Nat)
  /-- Bytes read or written for a unit under a number of its own (records, images, statistics). -/
  | raw (unit tag : Nat)
  deriving DecidableEq, Repr

/-- A job: the requests it still waits for, the units received, and the first failure seen (a cause of
Table: Bus error causes; 0 none) with the unit's address. -/
structure Job where
  id : Nat
  kind : JobKind
  todo : Nat
  got : Tab Bytes
  cause : Nat
  badAddr : Nat
  deriving DecidableEq, Repr

/-- The memory ports and the far port. -/
structure MemSt where
  wait : List MemReq
  out : List MemOut
  /-- Credits held at memory ports 0 and 1 (R416). -/
  credit0 : Nat
  credit1 : Nat
  /-- Tags whose late response is awaited: port, tag (R419). -/
  late : List (Nat × Nat)
  /-- Requester last served, by port and class: 4 · port + class (R203). -/
  last : Tab Nat
  jobs : List Job
  nextJob : Nat
  deriving DecidableEq, Repr

/-! ## Streams and couriers -/

/-- An entry issued and not yet delivered (R443): its item numbers, its stage (0 waits under R87, 1 being
read or awaited, 2 ready, 3 moving to its destination) and the satchel. -/
structure SEnt where
  i : Nat
  src : Nat
  dst : Nat
  stage : Nat
  consuming : Bool
  sat : Bytes
  deriving DecidableEq, Repr

/-- A stream context (R196 to R209). -/
structure Stream where
  ctrl : Word
  index : Word
  src : Word
  dst : Word
  stall : Nat
  code : Nat
  cause : Nat
  /-- 0 IDLE, 1 RUNNING, 2 ARMED, 3 HALTED. -/
  st : Nat
  delivered : Nat
  issued : Nat
  errKind : Nat
  errEntry : Nat
  /-- The end of the pass, once a terminator has been met. -/
  stop : Option Nat
  ents : List SEnt
  /-- The KIND fields a persistent context was armed with (R206). -/
  armedKinds : Nat
  /-- The queue of the STREAM command that runs it. -/
  runBy : Option Nat
  /-- The READ bound to the pass in progress: its queue, and whether it consumes (R445). -/
  bound : Option (Nat × Bool)
  /-- The epoch of a pass to a T1 window (R379). -/
  epoch : Nat
  /-- Reads of the locker source fail from now on (R87). -/
  failed : Bool
  /-- Satchels that a unit command supplies to the context (O_CTX), oldest first. -/
  supply : List Bytes
  /-- Satchels delivered to a BENCH or ROW destination and not consumed. -/
  inbox : List Bytes
  /-- A unit command supplies the source (R337). -/
  fed : Bool
  /-- PERSIST as it stood when the pass began (R206). -/
  pers : Bool
  deriving DecidableEq, Repr, Inhabited

/-- A courier (R211 to R218). -/
structure Courier where
  src : Word
  dst : Word
  count : Word
  ctrl : Word
  pace : Word
  /-- CRS_STATUS bits [7:3] and SETCNT. -/
  bits : Nat
  setcnt : Nat
  pendingEv : Nat
  /-- 0 IDLE, 1 RUNNING, 2 HALTED. -/
  st : Nat
  passes : Nat
  bytes : Nat
  /-- The running CRC-32C with its final XOR (R215). -/
  crc : BitVec 32
  errAddr : Word
  errInfo : Word
  runBy : Option Nat
  deriving DecidableEq, Repr, Inhabited

/-- The courier engine: the burst in service, the number after the courier last served at each level (R216), and how far
the burst has come: phase 0 none, 1 being read, 2 being written, 3 over; its bytes; the first failing access (space,
address, write?, cause). -/
structure CrsEng where
  busy : Option Nat
  last0 : Nat
  last1 : Nat
  last2 : Nat
  last3 : Nat
  /-- An ABORT that reached the courier in service (its burst ends first). -/
  abortReq : Bool
  phase : Nat
  data : Bytes
  fail : Option (Nat × Nat × Bool × Nat)
  deriving DecidableEq, Repr

/-! ## Main-engine port -/

/-- Engine channels: credits the engines gave, by channel (R423). -/
structure EngSt where
  credit : Tab Nat
  granted : Tab Nat
  deriving DecidableEq, Repr

/-! ## Faults and recovery -/

/-- A running or waiting recovery: how its tile is read, the source in progress (1 refetch, 2 regenerate, 3 peer, 4
checkpoint; 0 waits for a place), the waiters, and what the source in progress returned once it has ended. -/
structure Recovery where
  id : Nat
  rd : TileRd
  source : Nat
  waiters : List TileUse
  found : Option TileGot
  /-- The tile was delivered and its write-back is under way (R355). -/
  writing : Bool
  /-- The locker left its detention: the attempt in progress ends without effect (R84). -/
  stopped : Bool
  /-- Tiles that source 2 still reads (key part · 2^20 + tile) and those that came; the COORD that source 3 asks. -/
  need : List Nat
  got : Tab Bytes
  peer : Nat
  deriving DecidableEq, Repr

/-- A state fetch being served (R356): the requester's COORD and form, the tiles asked for, those still to come, the
satchels so far and whether one failed its checks. -/
structure Fetch where
  id : Nat
  coord : Nat
  form : Nat
  piece : Nat
  part : Nat
  tile : Nat
  count : Nat
  left : Nat
  got : Tab Bytes
  bad : Bool
  deriving DecidableEq, Repr

/-- The error unit (R347 to R369). -/
structure ErrSt where
  recov : List Recovery
  nextId : Nat
  warmNeeded : Bool
  /-- Another form has told that it has left L1 (R351). -/
  peerLow : Bool
  restoreNeeded : Bool
  /-- An ABORT held for the next step: code, origin, form (R360). -/
  held : Option (Nat × Nat × Nat)
  /-- ERR_FIRST is armed (R366). -/
  armed : Bool
  /-- Millisecond in which SRAM_CORRECTED was last logged, by bank group, plus one (R347). -/
  ceLogged : Tab Nat
  /-- The history shadow (R363) and the group sequence counters at the last closing assembly (R362). -/
  histShadow : Tab Byte
  seqRecord : Tab Nat
  /-- The root of group 0xFFE has taken the first ABORT of the running step (R359). -/
  rootTook : Bool
  /-- The code of a cause of a common abort met in the command under way (the model's own field). -/
  due : Option Nat
  fetches : List Fetch
  deriving DecidableEq, Repr

/-! ## Security -/

/-- The key store and the security engine's work (R370 to R391). -/
structure SecSt where
  /-- DS read all zeros or all ones: no identity (R432). -/
  noIdentity : Bool
  /-- The identity public key (96 bytes as a number) of this form. -/
  idKey : BitVec 768
  identity : BitVec 384
  /-- The identity private key (R371), and the package identity: the head form's identity. -/
  idPriv : Nat
  pkg : BitVec 384
  k1 : Nat
  k2 : Nat
  km : Nat
  entropyOk : Bool
  /-- Domain key and its SEAL_DOMAIN, 16 bytes as a number. -/
  domain : Option (BitVec 256 × BitVec 128)
  /-- SPDM: negotiated algorithms, certificate chain of slot 0, session key of the open session, its phase. -/
  negotiated : Bool
  chain : Bytes
  session : Option Nat
  sessionUp : Bool
  transcript : Bytes
  mboxReqLen : Nat
  mboxRespLen : Nat
  mboxReady : Bool
  mboxBusy : Bool
  rosterFailed : List Nat
  /-- The window epoch store (R379). -/
  winEpoch : Tab Nat
  /-- The scale bytes of the tiles stored in the weight windows: key 2 · slot + window (log 57). -/
  winScales : Tab Bytes
  /-- The slots that hold a working copy of the form's own (R354): 1 + piece · 2^24 + tile, under the same key (log 98). -/
  winOrig : Tab Nat
  deriving DecidableEq, Repr

/-! ## Benches, row units and histories -/

/-- A production (R159): the quantising commands of one period that name one history. `gone` lists its commands, by entry
and index, that have completed or left, each with its largest finite |F| as FP32 bits (zero when it did not complete). -/
structure Produced where
  hist : Nat
  period : Nat
  gone : List (Nat × Nat × Nat)
  deriving DecidableEq, Repr

/-- An output block that a command left before its reduction ended (R123): the operands of its command but for the unit and the
inputs, the steps taken, and acc (binary32) and L (binary64) of every element. -/
structure Susp where
  key : Cmd
  r : Nat
  m : Nat
  n : Nat
  cells : List (List (Nat × Nat))
  deriving DecidableEq, Repr

/-- Benches and row units. -/
structure BenchSt where
  prods : List Produced
  /-- A PHILOX counter register or SEED changed in this hall-clock cycle (R143). -/
  philoxDue : Bool
  /-- Format rungs of sentinel entries that repeat: entry key ↦ rung format plus one (R161, R162). -/
  rung : Tab Nat
  /-- Bytes read from T1 for the command of a unit: key 2 · unit for FDST, 2 · unit + 1 for PARAM1. -/
  buf : Tab Bytes
  /-- Units whose last FP32 outputs are being written to T1. -/
  writing : List Nat
  /-- The stationary tiles that BENCH_LOAD satchels of the weight chain left in the benches, oldest first (R201). -/
  stat : Tab (List Bytes)
  /-- The partial store: the suspended output blocks (R123). -/
  parts : List Susp
  deriving DecidableEq, Repr

/-! ## Marker -/

/-- A staging run (R174 to R176): piece, first sweep block, blocks; its place; the step it belongs to. -/
structure StageRun where
  id : Nat
  piece : Nat
  first : Nat
  blocks : Nat
  tiles : Nat
  /-- Tier (1 or 2) and first slot; none while it waits for room. -/
  place : Option (Nat × Nat)
  step : Nat
  /-- EPOCH of each tile's last write, the seal (R380), and the FP32 sums held for it. -/
  epochs : Tab Nat
  sealv : Word
  sums : Tab (BitVec 32)
  /-- The order number of its completion (R175), none before. -/
  closed : Option Nat
  rho : Nat
  /-- Its tiles have been asked for, for the seal check at its completion. -/
  read : Bool
  /-- The seal check in progress (R380): F(a, EPOCH) over the tiles read so far, and the tiles still to be read. -/
  chk : Option (Word × Nat)
  deriving DecidableEq, Repr

/-- A piece record (Table: Head record and piece record). -/
structure PieceRec where
  epoch : Nat
  count : Nat
  last : Nat
  digest : Word
  nonfinite : Bool
  deriving DecidableEq, Repr, Inhabited

/-- A report card (R190): binary64 sums and flags. -/
structure Card where
  wn : Word
  gn : Word
  un : Word
  ratio : Word
  flags : Nat
  deriving DecidableEq, Repr, Inhabited

/-- The sweep block in work: the staging run that covers it, the tiles still to come, those read (key
part · 2^20 + tile), and the writes under way. -/
structure BlockWork where
  piece : Nat
  block : Nat
  run : Option Nat
  /-- Its first staged tile in the run, and the run's ρ: they outlast the run's slots. -/
  stage : Option Nat
  rho : Option Nat
  need : List Nat
  got : Tab Bytes
  writes : Nat
  deriving DecidableEq, Repr

/-- The Marker (R168 to R195). -/
structure MkrSt where
  /-- MKR_STATUS.PHASE: 0 idle, 1 gate wait, 2 clip wait, 3 sweep, 4 records. -/
  phase : Nat
  blocks : Nat
  torn : Bool
  skip : Bool
  /-- LR and CLIP as latched (R178). -/
  lr : Nat
  clip : Nat
  /-- The epoch that the sweep took. -/
  epoch : Nat
  runs : List StageRun
  nextRun : Nat
  nextClose : Nat
  spillLogged : Bool
  /-- Gate slots 0, 1 and 2 of the step (R28, R175, R311), slot 1 as binary64. -/
  gate0 : Bool
  gate1 : Word
  gate2 : Nat
  gateStarted : Bool
  gateDone : Bool
  recs : Tab PieceRec
  cards : Tab Card
  /-- Blocks still to visit: piece, block, staging run; the ones set aside for a recovery. -/
  todo : List (Nat × Nat × Option Nat)
  aside : List BlockWork
  cur : Option BlockWork
  /-- State tiles written with the sweep's epoch (key piece · 2^24 + part · 2^20 + tile). -/
  wrote : List Nat
  /-- Tile digests of masters (piece · 2^16 + tile), for the piece digests. -/
  tdig : Tab Word
  /-- Pieces already decayed and counted in this sweep, and those that went non-finite. -/
  begun : List Nat
  nfLogged : List Nat
  recWrites : Nat
  /-- Runs placed, as step, tier and tiles (MKR_STAGE). -/
  placed : List (Nat × Nat × Nat)
  digReady : Bool
  digVal : Word
  deriving DecidableEq, Repr

/-! ## Fabric ports and federation links -/

/-- A sequenced frame in the replay buffer: its LSN, the bytes before protection or as sent, how often it has
been sent, and its plain payload. -/
structure Sent where
  lsn : Nat
  bytes : Bytes
  tries : Nat
  pay : Bytes
  deriving DecidableEq, Repr

/-- A frame queued for a port: virtual channel, header (24 bytes, LSN and KEYID still zero), payload. -/
structure QFrame where
  vc : Nat
  head : Bytes
  pay : Bytes
  deriving DecidableEq, Repr

/-- A NAK that waits for a LINK frame (R282). -/
structure Nak where
  kind : Nat
  reason : Nat
  lsn : Nat
  deriving DecidableEq, Repr

/-- One link: fabric port 0 or 1, or federation link 0 to 3 as ports 2 to 5 (R280 to R290, R381 to R383). -/
structure FLink where
  /-- 1 DOWN, 2 HELLO, 3 KEYING, 4 UP, 5 DETAINED; 0 FENCED or absent. -/
  st : Nat
  aligned : Bool
  /-- What the partner's HELLO told. -/
  helloIn : Option Bytes
  partnerSA : Bytes
  initCredit : List Nat
  /-- Key agreement: own OFFER, the partner's OFFER, own ephemeral private key, INDEX in agreement. -/
  offer : Option Bytes
  offerIn : Option Bytes
  eph : Nat
  index : Nat
  pendTx : Nat
  pendRx : Nat
  confirmSent : Bool
  renewing : Bool
  /-- Installed keys by index: transmit, receive. -/
  tx0 : Option Nat
  tx1 : Option Nat
  rx0 : Option Nat
  rx1 : Option Nat
  txIndex : Nat
  /-- LSN of the first frame sent, and of the first accepted, under the current key. -/
  txSwitch : Nat
  rxSwitch : Nat
  rxIndex : Nat
  /-- Counters: next LSN, next link counter, next expected LSN, next expected link counter. -/
  txLsn : Nat
  txLink : Nat
  rxLsn : Nat
  rxLink : Nat
  queue : List QFrame
  replay : List Sent
  replays : Nat
  limit : List Nat
  sent : List Nat
  granted : List Nat
  rxCells : List Nat
  deficit : List Nat
  /-- The VC that the round robin visits, and whether its visit has been paid (R285). -/
  turn : Nat
  paid : Bool
  naks : List Nak
  gapNak : Bool
  /-- Frames held back by fault injection, the last one first (R295). -/
  held : List Bytes
  window : Nat
  /-- A retry of keying waits for its second to pass (R382). -/
  retryWait : Bool
  /-- The identity reported by the partner (measurement 5). -/
  partnerId : BitVec 384
  deriving DecidableEq, Repr, Inhabited

/-- The sending half of a connection (R276 to R279): its port, DST, form, ENDPOINT, VC, satchels sent. -/
structure Conn where
  port : Nat
  dst : Nat
  form : Nat
  ep : Nat
  vc : Nat
  msg : Nat
  deriving DecidableEq, Repr, Inhabited

/-- The receiving half: the port, the satchel in progress with its number, the next frame index and its cells, and the
whole satchels that wait in the receive buffer, with their cells. -/
structure RConn where
  port : Nat
  part : Bytes
  msg : Nat
  idx : Nat
  cells : Nat
  full : List (Nat × Bytes)
  deriving DecidableEq, Repr, Inhabited

/-- A child of a multicast sender (R291 to R294). -/
structure McChild where
  coord : Nat
  /-- The port of the connection to it, taken at START (R278). -/
  port : Nat
  acked : Nat
  sent : Nat
  attached : Bool
  repair : Option Nat
  deriving DecidableEq, Repr

/-- A multicast pass at a context: group, VC, the root's COORD and form, the form at the children, own tree position, the
parent's COORD; satchels issued to the children; the children and repaired members; what a detached member awaits. -/
structure Mcast where
  group : Nat
  vc : Nat
  root : Nat
  rform : Nat
  form : Nat
  pos : Nat
  parent : Nat
  issued : Nat
  children : List McChild
  detachAt : Option Nat
  repairing : Bool
  /-- Satchels kept for children and repairs, from satchel `base`. -/
  base : Nat
  kept : List Bytes
  deriving DecidableEq, Repr

/-- A TAP read forwarded over the federation links and not answered: TAG, form. -/
structure FedWait where
  tag : Nat
  form : Nat
  deriving DecidableEq, Repr

/-- The link layer. -/
structure FabSt where
  links : Tab FLink
  conns : Tab Conn
  rconns : Tab RConn
  mcast : List (Nat × Mcast)
  fedTag : Nat
  fedWait : List FedWait
  /-- The weight chain (R202): satchels committed by another form, under 8 · context + form; the directions whose next neighbour
  gives no credit; satchels to forward that wait for it, oldest first. -/
  chainDone : Tab Nat
  chainHold : List Nat
  chainWait : List PortOut
  /-- Satchels whose frames a form passes on between a fabric port and a federation link, as far as they have come (R223). -/
  relays : Tab Bytes
  /-- The next entry of each fabric port's share of the violation log (R288). -/
  vlogNext : Tab Nat
  deriving DecidableEq, Repr

/-! ## Collectives -/

/-- What one combining level of a collective holds (R302, R309, R310, R314): the EXPECT it awaits, the PARTIALS received
and whether the block's own partial is there; for roll calls the partials by order number; for buckets, by chunk, the
PARTIALS received and the member contributions, the chunks that the own partial has come with, those sent on, and the
sums by value number as FP32 bits; the SLOTs admitted and excluded at a tray leader, and whether its timer runs or the
admission is over. -/
structure Level where
  lvl : Nat
  expect : Nat
  got : Nat
  own : Bool
  contrib : Nat
  parts : List (Nat × List Word)
  chunks : Tab (Nat × Nat)
  ownCh : List Nat
  sentCh : List Nat
  sums : Tab (BitVec 32)
  admitted : List Nat
  excluded : List Nat
  started : Bool
  closed : Bool
  deriving DecidableEq, Repr, Inhabited

/-- A collective in progress, or one whose contributions are held for a command still to come (R314). -/
structure Coll where
  root : Nat
  rform : Nat
  group : Nat
  seq : Nat
  bucket : Bool
  /-- This form has issued it: by which queue (none: the block's own), with the command; the SIG and SLOTOPS that its
  frames must carry (before the issue: those of the first frame). -/
  issued : Bool
  queue : Option Nat
  cmd : Cmd
  sig : Nat
  slotops : Nat
  issuedAt : Word
  /-- The COLLECTIVES values with which it was issued (R324), the step of the issue. -/
  timeoutUs : Nat
  holdNs : Nat
  merge : Nat
  homework : Nat
  step : Nat
  levels : List Level
  /-- The result's chunks received at a destination form, their values; CONTRIB of the result. -/
  rchunks : List Nat
  rsums : Tab (BitVec 32)
  contrib : Nat
  written : Bool
  noticed : Bool
  /-- The result is complete at the root. -/
  complete : Bool
  /-- This member was excluded and sends its source as homework (R312); the chunks sent; the homework received. -/
  late : Bool
  homeSent : List Nat
  homeIn : List (Nat × Nat)
  timerSent : Bool
  deriving DecidableEq, Repr

/-- A bucket completed at this form: its key, the run it went to, its step; kept for homework that comes later. -/
structure CollDone where
  root : Nat
  rform : Nat
  group : Nat
  seq : Nat
  piece : Nat
  block : Nat
  count : Nat
  step : Nat
  deriving DecidableEq, Repr

/-- The divergence search (R322, R323): stage, range, piece, tile, the digests seen, rounds; the tiles still to be read
for their digests. -/
structure DivSt where
  stage : Nat
  lo : Nat
  hi : Nat
  piece : Nat
  tile : Nat
  dmin : Word
  dmax : Word
  rounds : Nat
  need : List Nat
  deriving DecidableEq, Repr

/-- A repair in progress (R364): the source's COORD, piece and master tile; the tiles still to be fetched from the source
(key part · 2^20 + tile) and those that came; the tiles still to be rewritten, and the writes under way; the epoch. -/
structure Repair where
  source : Nat
  piece : Nat
  tile : Nat
  need : List Nat
  got : Tab Bytes
  todo : List Nat
  epoch : Nat
  phase : Nat
  writes : Nat
  deriving DecidableEq, Repr

/-- The payload of an ABORT: code, offender, its form, detected at a switch, detector. -/
structure AbortRec where
  code : Nat
  off : Nat
  form : Nat
  switch : Bool
  det : Nat
  deriving DecidableEq, Repr, Inhabited

/-- The roll-call logic. -/
structure RclSt where
  /-- Next SEQ by group key: entry index, 0xFFE, 0xFFF for the replica group. -/
  seqs : Tab Nat
  colls : List Coll
  /-- Keys completed or aborted (root, root form, group, SEQ), with the hall clock until which R315 discards for them. -/
  gone : List ((Nat × Nat × Nat × Nat) × Nat)
  done : List CollDone
  /-- Frames that find no combining state free: port, header, payload; they stay in the receive buffer (R314). -/
  wait : List (Nat × Bytes × Bytes)
  /-- ABORTs received for keys not issued yet. -/
  early : List ((Nat × Nat × Nat × Nat) × AbortRec)
  div : DivSt
  repair : Option Repair
  /-- Results of the block's own roll calls, by SOURCE, that the tutor has not taken up yet (the model's own field). -/
  ready : List (Nat × List Word)
  deriving DecidableEq, Repr

/-! ## Power -/

/-- The governor, the monitors and recess (R392 to R406). -/
structure PwrSt where
  /-- Table: Form power states: 0 RUN, 1 IDLE, 2 RECESS_R, 3 RECESS_N, 4 WAKING. -/
  st : Nat
  /-- The state that WAKING leaves. -/
  from_ : Nat
  /-- Entry into recess under way; abandoned by a wake event. -/
  entering : Bool
  duty : Nat
  streamDuty : Nat
  droopHeld : Bool
  ceiling : Nat
  step : Nat
  pend : Option Nat
  /-- A ceiling change is being applied; its confirming reading is awaited. -/
  applying : Bool
  confirm : Bool
  ref : Option Nat
  vinBad : Bool
  lowLogged : Bool
  vfLocked : Bool
  /-- A path-delay reading is due (R402, R404). -/
  readDue : Bool
  deriving DecidableEq, Repr

/-! ## Restore, export, checkpoint -/

/-- A restore (R387): the step reached, the epoch taken, the next record to read, RECORDS, the checkpoint key, the head, the
index, the checked record-slot records, the tile and record writes under way, and whether the records are being written. -/
structure Restore where
  step : Nat
  epoch : Nat
  next : Nat
  records : Nat
  key : Nat
  head : Bytes
  index : Bytes
  kept : Tab Bytes
  writes : Nat
  last : Bool
  deriving DecidableEq, Repr

/-- An export (R388): piece, tiles read so far, address, and writes under way. -/
structure ExportRun where
  piece : Nat
  next : Nat
  addr : Nat
  writes : Nat
  deriving DecidableEq, Repr

/-- Sealing of the running checkpoint (R386): the index entries so far, by record; the destination's BASE word; the
checkpoint key; the record writes under way; how far it has come: 0 records, 1 index, 2 head, 3 over. -/
structure Ckpt where
  index : Tab Bytes
  base : Option Word
  key : Nat
  writes : Nat
  phase : Nat
  deriving DecidableEq, Repr

/-! ## The form -/

/-- The state of one form. -/
structure State where
  part : Part
  pins : Pins
  /-- Hall-clock cycles since the release of the last cold reset (OFC_UPTIME). -/
  hall : Word
  /-- Every register that is a plain value, at its form offset (R440); unlisted registers read zero. -/
  regs : Tab Word
  /-- The step counter (R27) and the effective level, 2 or 3 (R10, R11). -/
  stepCtr : BitVec 32
  level : Nat
  /-- The cloakroom, and its words (address / 8) marked uncorrectable (R348, R349). -/
  t0 : Tab Byte
  t0Poison : Tab Bool
  /-- The syllabus in force, and the loader. -/
  syl : Option Image
  load : Loader
  bells : Tab (BitVec 32)
  asms : Tab Asm
  ques : Tab Que
  flights : List Flight
  slots : Tab ResSlot
  sync : SyncSt
  tut : Tutor
  lkrs : Tab Locker
  pln : Planner
  mem : MemSt
  stms : Tab Stream
  crs : Tab Courier
  crsEng : CrsEng
  eng : EngSt
  bnc : BenchSt
  mkr : MkrSt
  fab : FabSt
  rcl : RclSt
  err : ErrSt
  sec : SecSt
  rst : Option Restore
  exp : Option ExportRun
  ckp : Option Ckpt
  pwr : PwrSt
  /-- The data of the last DBGACC read (R433). -/
  tap : Word
  /-- Everything driven at the ports, oldest first. -/
  out : List PortOut
  /-- How many free values have been drawn (the model's own field). -/
  free : Nat
  /-- The commands that wait, first in first out (the model's own field). -/
  pending : List Instr
  deriving DecidableEq, Repr

/-! ## Reset (R368, Table: Reset kinds, column Cold reset) -/

/-- The straps of the reset state: form 0 of an eight-form ZR-X package at compatibility level 3 (log 2). -/
def Part.reset : Part :=
  { set := 3, form := 0, fed := 3, compat := 3, mfr := 0, whole := true
    fuses := [1, 2, 3, 4, 0, 0, 0, 0, 0, 0, 0, 0, 0, 0, 0, 0] }

/-- The ceiling table at reset, on a set whose maximum clock is `fset` MHz. -/
def vfReset (fset : Nat) : Tab Word :=
  (List.range 8).map fun k =>
    (aPwrVf + 8 * k, BitVec.ofNat 64 ((256 + 8 * (7 - k)) <<< 32 + k <<< 24 + fset * (13 + k) / 20))

/-- Fset (Table: Parameter set limits). -/
def fsetOf (set : Nat) : Nat := if set = 0 then 1000 else if set = 1 then 1500 else 2000

/-- The cold-reset values of the plain registers whose reset value is not zero (R440). -/
def regsReset (set : Nat) : Tab Word :=
  [(aPwrCtrl, 0x00320A04003201F7#64)] ++ vfReset (fsetOf set) ++
  [(aErrScrub, 0x3C#64), (aLkrEpoch, 1#64), (aBncOutLo, 0xE169C58D6627E8D5#64),
   (aBncOutHi, 0x9B00DBD8BC57AC4C#64), (aMkrClip, 0x3F800000#64)]

def Loader.reset : Loader :=
  { phase := 0, kind := 0, push := false, recv := [], pushed := 0, verified := none, pend := none, lastPartial := 0, loaded := false }

def SyncSt.reset : SyncSt :=
  { waiters := [], lastQ := 0, stage := 0, dlLogged := false, dlRecords := 0, dlBlocked := 0, dlFirst := 0 }

def Tutor.reset : Tutor :=
  { st := 0, phase := 0, haltPending := false, term := 0, mainTerm := 0, started := 0, drained := 0, termSteps := 0
    runs := [], nextRun := 0, closing := .idle, between := [], boundary := false, extra := 0, ckpt := false
    ckptSect := [], ckptApplied := 0, gateApplied := false, limT0 := 0, limT1 := 0, carryBase := 0, carryCount := 0, toTerm := 0 }

def Planner.reset : Planner :=
  { clock := none, live := [], listed := [], held := [] }

def MemSt.reset : MemSt :=
  { wait := [], out := [], credit0 := 0, credit1 := 0, late := [], last := [], jobs := [], nextJob := 0 }

def CrsEng.reset : CrsEng :=
  { busy := none, last0 := 0, last1 := 0, last2 := 0, last3 := 0, abortReq := false, phase := 0, data := [], fail := none }

def MkrSt.reset : MkrSt :=
  { phase := 0, blocks := 0, torn := false, skip := false, lr := 0, clip := 0, epoch := 0, runs := []
    nextRun := 0, nextClose := 0, spillLogged := false, gate0 := false, gate1 := 0, gate2 := 0, gateStarted := false
    gateDone := false, recs := [], cards := [], todo := [], aside := [], cur := none, wrote := []
    tdig := [], begun := [], nfLogged := [], recWrites := 0, placed := [], digReady := false, digVal := 0 }

def FabSt.reset : FabSt :=
  { links := [], conns := [], rconns := [], mcast := [], fedTag := 0, fedWait := [], chainDone := [], chainHold := []
    chainWait := [], relays := [], vlogNext := [] }

def RclSt.reset : RclSt :=
  { seqs := [], colls := [], gone := [], done := [], wait := [], early := [], repair := none, ready := []
    div := { stage := 0, lo := 0, hi := 0, piece := 0, tile := 0, dmin := 0, dmax := 0, rounds := 0, need := [] } }

def ErrSt.reset : ErrSt :=
  { recov := [], nextId := 0, warmNeeded := false, peerLow := false, restoreNeeded := false, held := none, armed := true, ceLogged := []
    histShadow := [], seqRecord := [], rootTook := false, due := none, fetches := [] }

def PwrSt.reset : PwrSt :=
  { st := 2, from_ := 2, entering := false, duty := 16, streamDuty := 16, droopHeld := false, ceiling := 7, step := 7
    pend := none, applying := false, confirm := false, ref := none, vinBad := false, lowLogged := false
    vfLocked := false, readDue := false }

/-- The key store after a cold reset: the tile keys are drawn (R371), the identity derived from DS; a form without a DS
derives none (R432; log 2). -/
def SecSt.reset (form : Nat) (fuses : List Word) (f : Nat) : SecSt :=
  let dead := noDs fuses
  let priv := if dead then 0 else identityKey fuses
  let pub : BitVec 768 := if dead then 0 else ecPublic priv
  let id : BitVec 384 := if dead then 0 else sha384 (keyBytes pub)
  let key (i : Nat) : Nat := (Config.freeWord i).toNat + (Config.freeWord (i + 1)).toNat <<< 64
    + (Config.freeWord (i + 2)).toNat <<< 128 + (Config.freeWord (i + 3)).toNat <<< 192
  { noIdentity := dead
    idKey := pub, identity := id, idPriv := priv
    pkg := if form = 0 then id else BitVec.ofNat 384 (key (f + 12))
    k1 := key f, k2 := key (f + 4), km := key (f + 8), entropyOk := true, domain := none, negotiated := false
    chain := [], session := none, sessionUp := false, transcript := [], mboxReqLen := 0, mboxRespLen := 0
    mboxReady := false, mboxBusy := false, rosterFailed := [], winEpoch := [], winScales := [], winOrig := [] }

/-- The machine right after a cold reset. -/
def State.reset : State :=
  { part := Part.reset
    pins := { pwrReq := 10, pwrVid := 7, grant := 0, droop := false, fclkReq := false, fclkEn := false, farUp := false }
    hall := 0, regs := regsReset Part.reset.set, stepCtr := 0, level := 3, t0 := [], t0Poison := []
    syl := none, load := Loader.reset, bells := [], asms := [], ques := [], flights := [], slots := []
    sync := SyncSt.reset, tut := Tutor.reset, lkrs := [], pln := Planner.reset, mem := MemSt.reset, stms := []
    crs := [], crsEng := CrsEng.reset, eng := { credit := [], granted := [] }
    bnc := { prods := [], philoxDue := false, rung := [], buf := [], writing := [], stat := [], parts := [] }
    mkr := MkrSt.reset, fab := FabSt.reset, rcl := RclSt.reset, err := ErrSt.reset
    sec := SecSt.reset 0 Part.reset.fuses 0, rst := none, exp := none, ckp := none, pwr := PwrSt.reset
    tap := 0, out := [], free := 16, pending := [] }

end Sys2Proof.Machine
end

