-- ==== Sys2Proof/Machine/Ops.lean ====
section
/-! DEFINITION. The named operations over the register table, the event registers and the error log (R19, R20,
R366), free values, the port trace, the cloakroom, and the wake event of R394. -/

namespace Sys2Proof.Machine

/-- The outcome type of every meaning. -/
abbrev Res := Host.Outcome State Fault Refusal

/-! ## Registers -/

/-- The value of the register at form offset `a`. -/
def State.reg (s : State) (a : Nat) : Word := Tab.get s.regs a

/-- The register at `a` set to `v`. -/
def State.setReg (s : State) (a : Nat) (v : Word) : State := { s with regs := Tab.put s.regs a v }

/-- Field `[lo+len-1:lo]` of the register at `a`. -/
def State.regF (s : State) (a lo len : Nat) : Nat := fld (s.reg a) lo len

/-- The register at `a` with one field replaced. -/
def State.setF (s : State) (a lo len v : Nat) : State := s.setReg a (setFld (s.reg a) lo len v)

/-- A saturating counter field advanced by `n` (R93, R115, R167, R346, R369 and their like). -/
def State.incF (s : State) (a lo len n : Nat) : State :=
  s.setF a lo len (satAdd (2 ^ len - 1) (s.regF a lo len) n)

/-! ## Events and the error log (R23, R366) -/

/-- One entry written to the error log, and to ERR_FIRST when it is armed (R366). -/
def State.logEntry (s : State) (unit code detail : Nat) : State :=
  let a := word (at_ 32 (s.hall.toNat % 2 ^ 32) + at_ 16 code + at_ 13 s.part.form + at_ 8 unit)
  let b := word (at_ 32 s.stepCtr.toNat + detail % 2 ^ 32)
  let nx := s.regF aErrLogPtr 0 8
  let s := (s.setReg (aErrLog + 16 * nx) a).setReg (aErrLog + 16 * nx + 8) b
  let s := (s.incF aErrLogPtr 32 32 1).setF aErrLogPtr 0 8 ((nx + 1) % 256)
  if s.err.armed then
    let s := (s.setReg aErrFirstA a).setReg aErrFirstB b
    { s with err := { s.err with armed := false } }
  else s

/-- Bit `i` of the event register of unit `u` set. -/
def State.setEvBit (s : State) (u i : Nat) : State :=
  match evAddr u with
  | none => s
  | some a => s.setReg a (s.reg a ||| BitVec.ofNat 64 (2 ^ i))

/-- The event's bit set in its unit's event register. -/
def State.evSet (s : State) (e : Ev) : State :=
  match e.bit with
  | none => s
  | some i => s.setEvBit e.unit i

/-- Event `e` logged: the unit's error register takes the code and `low`, its bits [47:0]; the event bit is
set; the log entry carries bits [47:16] of the error register as loaded (R366). -/
def State.logEv (s : State) (e : Ev) (low : Nat) : State :=
  let s := match errAddr e.unit with
    | none => s
    | some a => s.setReg a (word (at_ 48 e.code + low % 2 ^ 48))
  let s := s.evSet e
  s.logEntry e.unit e.code (if (errAddr e.unit).isSome then (low % 2 ^ 48) >>> 16 else 0)

/-- Event `e` logged without loading the unit's error register (SYL_LOADED and its like, which are no
refusal or failure; log 12). -/
def State.logPlain (s : State) (e : Ev) : State := (s.evSet e).logEntry e.unit e.code 0

/-! ## Free values -/

/-- A free value of 64 bits; the counter moves on. -/
def State.draw (s : State) : Word × State :=
  (Config.freeWord s.free, { s with free := s.free + 1 })

/-- `n` free bytes. -/
def State.drawBytes (s : State) (n : Nat) : Bytes × State :=
  ((List.range n).map (Config.freeByte s.free), { s with free := s.free + 1 })

/-- A free key of 256 bits, as a number. -/
def State.drawKey (s : State) : Nat × State :=
  let f := s.free
  ((Config.freeWord f).toNat + (Config.freeWord (f + 1)).toNat <<< 64
    + (Config.freeWord (f + 2)).toNat <<< 128 + (Config.freeWord (f + 3)).toNat <<< 192,
   { s with free := f + 4 })

/-! ## Ports -/

/-- One act at a port appended to the trace. -/
def State.emit (s : State) (o : PortOut) : State := { s with out := s.out ++ [o] }

/-! ## The host port during a full load (R56) -/

/-- A full load is in progress. -/
def State.fullLoading (s : State) : Bool := s.load.phase != 0 && s.load.kind == 1

/-- A host write or doorbell to a window other than OFC, SYL, SEC, PWR and ERR; `t`: its effect. -/
def State.hostWrites (s t : State) : State := if s.fullLoading then s.logEv evHostAccessViolation 0 else t

/-- A host read of such a window; `t`: the read with its effect. -/
def State.hostReads (s t : State) : State := if s.fullLoading then s.emit (.hostResp 0 false) else t

/-! ## The cloakroom -/

/-- `n` bytes of the cloakroom from logical address `a`. -/
def State.t0Read (s : State) (a n : Nat) : Bytes := Tab.bytes s.t0 a n

/-- Bytes written to the cloakroom; a written word is no longer marked uncorrectable. -/
def State.t0Write (s : State) (a : Nat) (bs : Bytes) : State :=
  { s with
    t0 := Tab.putBytes s.t0 a bs
    t0Poison := s.t0Poison.filter fun e => decide (e.1 < a / 8 ∨ (a + bs.length + 7) / 8 ≤ e.1) }

/-- Some word of the `n` bytes at `a` is uncorrectable (R348). -/
def State.t0Bad (s : State) (a n : Nat) : Bool :=
  s.t0Poison.any fun e => decide (a / 8 ≤ e.1 ∧ e.1 < (a + n + 7) / 8)

/-! ## Part and reset straps -/

/-- Number of forms of the package (fed_size). -/
def State.forms (s : State) : Nat := 2 ^ s.part.fed

/-- This form is the head form. -/
def State.head (s : State) : Bool := s.part.form == 0

/-- Effective level at reset from the strap (R10): reserved straps select level 2. -/
def strapLevel (compat : Nat) : Nat := if compat = 3 then 3 else 2

end Sys2Proof.Machine
end

