-- ==== Sys2Proof/Machine/Sections.lean ====
section
/-! DEFINITION. The fields of the syllabus in force, read from its sections, with the defaults of omitted
sections (R34, R35 and the layout tables of chapters 02, 04, 08, 10, 13). -/

namespace Sys2Proof.Machine

abbrev tyFederation : Nat := 1
abbrev tyBenches : Nat := 2
abbrev tyCloakroom : Nat := 3
abbrev tyTiers : Nat := 4
abbrev tyObjects : Nat := 5
abbrev tyRoster : Nat := 6
abbrev tySecurity : Nat := 7
abbrev tyPortsplit : Nat := 0x10
abbrev tyFabric : Nat := 0x11
abbrev tyPlanner : Nat := 0x12
abbrev tyNumerics : Nat := 0x13
abbrev tyMarker : Nat := 0x14
abbrev tyCollectives : Nat := 0x15
abbrev tySync : Nat := 0x16
abbrev tyLearn : Nat := 0x20
abbrev tyGenerate : Nat := 0x21
abbrev tyExam : Nat := 0x22
abbrev tyCheckpoint : Nat := 0x23

/-- The bytes of a section in force; empty when it is absent. -/
def State.sect (s : State) (ty : Nat) : Bytes :=
  match s.syl with
  | none => []
  | some im => Tab.get im.sect ty

/-- A section is in force. -/
def State.hasSect (s : State) (ty : Nat) : Bool := !(s.sect ty).isEmpty

/-- A little-endian field of a section, with the value `d` when the section is absent (R35). -/
def State.sf (s : State) (ty off n : Nat) (d : Nat := 0) : Nat :=
  if s.hasSect ty then leAt (s.sect ty) off n else d

/-! ## FEDERATION: fences (Table: Fence bits) -/

def State.fence (s : State) : Nat := s.sf tyFederation (0x10 + 2 * s.part.form) 2
def State.fenceOf (s : State) (form : Nat) : Nat := s.sf tyFederation (0x10 + 2 * form) 2
def State.benchFenced (s : State) (b : Nat) : Bool :=
  decide (limBenches s.part.set ≤ b) || (s.fence >>> b) % 2 == 1
/-- Memory port `p` absent or fenced. -/
def State.memFenced (s : State) (p : Nat) : Bool :=
  decide (memPorts s.part.set ≤ p) || (s.fence >>> (4 + p)) % 2 == 1
def State.fabFenced (s : State) (p : Nat) : Bool :=
  decide (fabPorts s.part.set ≤ p) || (s.fence >>> (6 + p)) % 2 == 1
def State.ucieFenced (s : State) (l : Nat) : Bool :=
  decide (fedLinks s.part.set ≤ l) || (s.fence >>> (8 + l)) % 2 == 1
def State.farFenced (s : State) : Bool :=
  farLanes s.part.set == 0 || (s.fence >>> 12) % 2 == 1
/-- CHAIN of the FEDERATION section: the forms in chain order. -/
def State.chainOrder (s : State) : List Nat :=
  ((slice (s.sect tyFederation) 8 8).map BitVec.toNat).filter (· != 0xFF)

def State.gang (s : State) : Nat := s.sf tyBenches 0 1

/-! ## CLOAKROOM regions (R39, R40) -/

def State.ckRings (s : State) : Nat := s.sf tyCloakroom 8 4
def State.ckLockers (s : State) : Nat := s.sf tyCloakroom 0xC 4
def State.ckWindow (s : State) : Nat := s.sf tyCloakroom 0x10 4
def State.ckStaging (s : State) : Nat := s.sf tyCloakroom 0x14 4
def State.ckScratch (s : State) : Nat := s.sf tyCloakroom 0x18 4
/-- First byte of the LOCKERS, WINDOW, STAGING and SCRATCH regions. -/
def State.t0Lockers (s : State) : Nat := s.ckRings * 65536
def State.t0Window (s : State) : Nat := (s.ckRings + s.ckLockers) * 65536
def State.t0Staging (s : State) : Nat := (s.ckRings + s.ckLockers + s.ckWindow) * 65536
def State.t0Scratch (s : State) : Nat := (s.ckRings + s.ckLockers + s.ckWindow + s.ckStaging) * 65536
def State.scratchSize (s : State) : Nat := s.ckScratch * 65536
/-- Logical size of the unfenced cloakroom: bank groups that are not fenced. -/
def State.ckGroupFence (s : State) : Nat := s.sf tyCloakroom 0 2
def State.ckSize (s : State) : Nat :=
  ((List.range (bankGroups s.part.set)).countP fun g => (s.ckGroupFence >>> g) % 2 == 0)
    * bankUnits s.part.set * 65536

/-! ## TIERS -/

def State.t1Store (s : State) : Nat := s.sf tyTiers 0 8
def State.t1Lockers (s : State) : Nat := s.sf tyTiers 8 8
def State.t1WindowSize (s : State) : Nat := s.sf tyTiers 0x10 8
def State.t2Present (s : State) : Bool := s.sf tyTiers 0x18 1 == 1
def State.t3Present (s : State) : Bool := s.sf tyTiers 0x19 1 == 1
def State.t2Base (s : State) : Nat := s.sf tyTiers 0x20 8
def State.t2Size (s : State) : Nat := s.sf tyTiers 0x28 8
def State.t2Spill (s : State) : Nat := s.sf tyTiers 0x30 8
def State.t3Base (s : State) : Nat := s.sf tyTiers 0x38 8
def State.t3Size (s : State) : Nat := s.sf tyTiers 0x40 8
/-- Size M of the Marker state region, from the MARKER section (STATE_SIZE). -/
def State.markerRegion (s : State) : Nat := s.sf tyMarker 0 8

/-! ## OBJECTS -/

def State.objStreams (s : State) : Nat := s.sf tyObjects 0 4
def State.objQueues (s : State) : Nat := s.sf tyObjects 4 4
def State.ringDepth (s : State) : Nat := s.sf tyObjects 8 4
def State.objBells (s : State) : Nat := s.sf tyObjects 0xC 4
def State.objAsms (s : State) : Nat := s.sf tyObjects 0x10 4
def State.objSlots (s : State) : Nat := s.sf tyObjects 0x14 4
def State.objLockers (s : State) : Nat := s.sf tyObjects 0x18 4
def State.objCouriers (s : State) : Nat := s.sf tyObjects 0x1C 4

/-! ## ROSTER: entries, and the own package's entry (R44) -/

def State.packages (s : State) : Nat := s.sf tyRoster 0 4
def State.rosterAt (s : State) (i off n : Nat) : Nat := s.sf tyRoster (0x40 + 64 * i + off) n
/-- COORD of roster entry `i`: RACK, TRAY, SLOT as R273's coordinate packs them. -/
def State.coordOf (s : State) (i : Nat) : Nat :=
  s.rosterAt i 2 2 * 128 + (s.rosterAt i 4 1 % 16) * 8 + s.rosterAt i 5 1 % 8
def State.identityOf (s : State) (i : Nat) : Nat := leNat (slice (s.sect tyRoster) (0x40 + 64 * i + 16) 48)

/-! ## SECURITY, PORTSPLIT -/

def State.faultInject (s : State) : Bool := s.sf tySecurity 0 1 == 1
def State.hostPush (s : State) : Bool := s.sf tySecurity 1 1 == 1
def State.tapDebug (s : State) : Bool := s.sf tySecurity 2 1 == 1
def State.sealDomain (s : State) : BitVec 128 := BitVec.ofNat 128 (s.sf tySecurity 8 16)
def State.shareRead (s : State) : Nat := s.sf tyPortsplit 0 1 50
def State.shareWrite (s : State) : Nat := s.sf tyPortsplit 1 1 30
def State.shareRemote (s : State) : Nat := s.sf tyPortsplit 2 1 20

/-! ## PLANNER (chapter 04) -/

def State.plMode (s : State) : Nat := s.sf tyPlanner 0 1
def State.plOffTier (s : State) : Nat := s.sf tyPlanner 1 1
def State.plRecallTier (s : State) : Nat := s.sf tyPlanner 2 1
def State.plPfMin (s : State) : Nat := s.sf tyPlanner 3 1
def State.plSlack (s : State) : Nat := s.sf tyPlanner 4 2
def State.plEarlyLast (s : State) : Nat := s.sf tyPlanner 6 2
def State.plEarlyMin (s : State) : Nat := s.sf tyPlanner 8 4
def State.plT0Reserve (s : State) : Nat := s.sf tyPlanner 0xC 4
def State.plOw (s : State) (t : Nat) : Nat := s.sf tyPlanner (0x10 + 2 * t) 2
def State.plXw1 (s : State) : Nat := s.sf tyPlanner 0x18 2
def State.plXw2 (s : State) : Nat := s.sf tyPlanner 0x1A 2
def State.plXwr (s : State) : Nat := s.sf tyPlanner 0x1C 2
def State.plCbR (s : State) : Nat := s.sf tyPlanner 0x1E 1
def State.plCbO (s : State) : Nat := s.sf tyPlanner 0x1F 1
def State.plFarShare (s : State) : Nat := s.sf tyPlanner 0x20 1
def State.plPlaceTimeout (s : State) : Nat := s.sf tyPlanner 0x24 4
def State.plPeriods (s : State) : Nat := s.sf tyPlanner 0x28 2
def State.plCr (s : State) (f : Nat) : Nat := s.sf tyPlanner (0x30 + f) 1
/-- PSTART[p], p from 1 (R99). -/
def State.plPstart (s : State) (p : Nat) : Nat := s.sf tyPlanner (0x40 + 4 * (p - 1)) 4

/-! ## SYNC (chapter 10) -/

def State.deadlockUs (s : State) : Nat := s.sf tySync 0 4 10000
def State.closeAsm (s : State) : Nat := s.sf tySync 4 2
def State.flagBase (s : State) : Nat := s.sf tySync 8 4
def State.flagCount (s : State) : Nat := s.sf tySync 0xC 4
def State.syncPairs (s : State) : List (Nat × Nat) :=
  let t := s.sf tySync 0x14 4
  (List.range (s.sf tySync 0x10 4)).map fun i =>
    (s.sf tySync (t + 4 * i) 2, s.sf tySync (t + 4 * i + 2) 2)
def State.snapOffset (s : State) : Nat := s.sf tySync 0x18 4
def State.snapMax (s : State) : Nat := s.sf tySync 0x1C 2
/-- The mask the SYNC section gives assembly `a`; the defaults of an omitted section. -/
def State.syncMask (s : State) (a : Nat) : Word :=
  if s.hasSect tySync then
    if a < s.sf tySync 0x1E 2 then BitVec.ofNat 64 (s.sf tySync (s.sf tySync 0x20 4 + 8 * a) 8) else 0
  else if a = 0 then 1 else 0

/-! ## Timetable sections (R326) -/

def ttPeriods (b : Bytes) : Nat := leAt b 0 2
def ttSteps (b : Bytes) : Nat := leAt b 2 2
def ttEntries (b : Bytes) : Nat := leAt b 4 4
def ttCommands (b : Bytes) : Nat := leAt b 8 4
def ttNext (b : Bytes) : Nat := leAt b 0x18 1
def ttExamEvery (b : Bytes) : Nat := leAt b 0x19 1
def ttLimT0 (b : Bytes) : Nat := leAt b 0x1C 4
def ttLimT1 (b : Bytes) : Nat := leAt b 0x20 4
def ttCarryBase (b : Bytes) : Nat := leAt b 0x24 4
def ttCarryCount (b : Bytes) : Nat := leAt b 0x28 4
/-- Field of the record of period `p`, from 1. -/
def ttPer (b : Bytes) (p off n : Nat) : Nat := leAt b (leAt b 0xC 4 + 16 * (p - 1) + off) n
/-- Field of entry record `e` of a timetable section or of CHECKPOINT. -/
def ttEnt (b : Bytes) (e off n : Nat) : Nat := leAt b (leAt b 0x10 4 + 16 * e + off) n
def entQueue (b : Bytes) (e : Nat) : Nat := ttEnt b e 0 2
def entRecompute (b : Bytes) (e : Nat) : Bool := ttEnt b e 2 1 % 2 == 1
def entFirst (b : Bytes) (e : Nat) : Nat := ttEnt b e 4 4
def entCmds (b : Bytes) (e : Nat) : Nat := ttEnt b e 8 4
def entDoneBell (b : Bytes) (e : Nat) : Nat := ttEnt b e 0xC 2
/-- Command `i` of the pool. -/
def ttCmd (b : Bytes) (i : Nat) : Cmd :=
  cmdOfBytes (slice b (leAt b 0x14 4 + 64 * i) 64)
def ckEvery (b : Bytes) : Nat := leAt b 0 4
def ckOverlap (b : Bytes) : Nat := leAt b 4 1
def ckEntries (b : Bytes) : Nat := leAt b 8 4

/-- The section of a term: 1 learning, 2 generation, 3 exam. -/
def termSect : Nat → Nat
  | 1 => tyLearn | 2 => tyGenerate | 3 => tyExam | _ => 0

/-- The section in force: that of the term, empty when none. -/
def State.ttSect (s : State) : Bytes :=
  if s.tut.term = 0 then [] else s.sect (termSect s.tut.term)

/-- The section that holds the recompute entries: the one in force, or with no term in force the one that RUN would put in
force (R339). -/
def State.recSect (s : State) : Bytes :=
  if s.tut.term ≠ 0 then s.ttSect else if s.hasSect tyLearn then s.sect tyLearn else s.sect tyGenerate

/-- Queue `q` is named by an entry of a timetable section in force (R256, R327). -/
def State.isTtQueue (s : State) (q : Nat) : Bool :=
  [(tyLearn, false), (tyGenerate, false), (tyExam, false), (tyCheckpoint, true)].any fun (ty, ck) =>
    let b := s.sect ty
    (!b.isEmpty) && (List.range (if ck then ckEntries b else ttEntries b)).any fun e => entQueue b e == q

end Sys2Proof.Machine
end

