-- ==== Sys2Proof/Machine/Sync.lean ====
section
/-! DEFINITION. Bells and assemblies (R240 to R251): signals, waits, arrivals, releases, rounds, the rebase. -/

namespace Sys2Proof.Machine

/-! ## Recess: the wake event of R394 -/

/-- A wake event (R394, R438): in recess, or on the way there, the form raises fclk_req; awake, nothing happens. While the
clock stops for a new operating step it is raised in any case (R404). -/
def State.wake (s : State) : State :=
  if s.pins.fclkReq || s.pwr.applying then s else { s with pins := { s.pins with fclkReq := true } }

/-- The pending operating step taken, with fclk_req and fclk_en low (R404, R409); a confirming reading follows, once REF is set. -/
def State.takeStep (s : State) : State :=
  match s.pwr.pend with
  | none => s
  | some k =>
    { s with
      pwr := { s.pwr with step := k, pend := none, applying := false, confirm := s.pwr.ref.isSome }
      pins := { s.pins with pwrVid := fld (s.reg (aPwrVf + 8 * k)) 24 8 } }

/-- A pending operating step is applied: at once when the clock is stopped, else the clock stops for it (R404). -/
def State.changeStep (s : State) : State :=
  if s.pwr.pend.isNone || s.pwr.applying then s
  else if !s.pins.fclkReq && !s.pins.fclkEn then s.takeStep
  else { s with pwr := { s.pwr with applying := true }, pins := { s.pins with fclkReq := false } }

/-! ## Bells -/

def State.bell (s : State) (n : Nat) : Nat := (Tab.get s.bells n).toNat

def State.setBell (s : State) (n v : Nat) : State :=
  { s with bells := Tab.put s.bells n (BitVec.ofNat 32 v) }

/-- Bell `n` is in flag mode (R243). -/
def State.isFlag (s : State) (n : Nat) : Bool :=
  decide (s.flagBase ≤ n ∧ n < s.flagBase + s.flagCount)

/-- The low 48 bits of SYN_ERR: the object and the queue concerned. -/
def synErr (obj q : Nat) : Nat := at_ 32 obj + q % 8192

/-- All signals of one cycle to bell `n`, added exactly and applied once (R240); flag bells by R243. -/
def State.signalBell (s : State) (n : Nat) (vs : List Nat) : State :=
  let v := s.bell n
  if s.isFlag n then
    let k := vs.countP (· != 0)
    if k = 0 then s else
    let s' := s.setBell n 1
    if 1 < v + k then s'.logEv evBellOverrun (synErr n 0) else s'
  else
    let sum := v + vs.sum
    if vs.sum = 0 then s
    else if s.level = 3 ∧ 2 ^ 32 - 1 < sum then
      (s.setBell n (2 ^ 32 - 1)).logEv evBellSat (synErr n 0)
    else s.setBell n sum

/-- The signals of one cycle, as bell and value; each bell's are added together (R240, R242). -/
def State.signalAll (s : State) (sigs : List (Nat × Nat)) : State :=
  let bells := nub (sigs.map Prod.fst)
  (bells.foldl (fun s n => s.signalBell n ((sigs.filter (·.1 = n)).map Prod.snd)) s).wake

/-- A bell pair is reduced by the lesser of its two values (R251). -/
def State.rebasePair (s : State) (p : Nat × Nat) : State :=
  let m := min (s.bell p.1) (s.bell p.2)
  (s.setBell p.1 (s.bell p.1 - m)).setBell p.2 (s.bell p.2 - m)

/-- Every bell pair of the SYNC section rebased (R251). -/
def State.rebase (s : State) : State := s.syncPairs.foldl State.rebasePair s

/-! ## Assemblies -/

/-- The number of set bits of a mask. -/
def popcount (w : Word) : Nat := (List.range 64).countP fun i => w.getLsbD i

/-- Bit `p` of a mask. -/
def maskBit (p : Nat) : Word := BitVec.ofNat 64 (2 ^ p)

/-- ARR[s] of an assembly. -/
def Asm.arr (a : Asm) (sense : Nat) : Word := if sense = 0 then a.arr0 else a.arr1
/-- COUNT[s] (R245 to R247). -/
def Asm.count (a : Asm) (sense : Nat) : Nat := popcount (a.arr sense)
def Asm.drain (a : Asm) (sense : Nat) : Bool := if sense = 0 then a.drain0 else a.drain1
def Asm.setArr (a : Asm) (sense : Nat) (w : Word) : Asm :=
  if sense = 0 then { a with arr0 := w } else { a with arr1 := w }
def Asm.setDrain (a : Asm) (sense : Nat) (b : Bool) : Asm :=
  if sense = 0 then { a with drain0 := b } else { a with drain1 := b }
/-- The parity of the current round. -/
def Asm.parity (a : Asm) : Nat := a.round.toNat % 2

def State.asm (s : State) (n : Nat) : Asm := Tab.get s.asms n
def State.setAsm (s : State) (n : Nat) (a : Asm) : State := { s with asms := Tab.put s.asms n a }

/-- Queue `q` is no longer HELD, unless another arrival of it is still held (R246). -/
def State.unhold (s : State) (q : Nat) : State :=
  let still := s.asms.any fun a => a.2.held.any fun h => h.queue == q
  { s with ques := Tab.modify s.ques q fun x => { x with held := still } }

/-- The completion test of R247 on one assembly: the current parity's slot is full and open. -/
def Asm.full (a : Asm) : Bool :=
  !(a.drain a.parity) && a.mask != 0 && decide (a.count a.parity = popcount a.mask)

/-- One completion, when the test holds: ROUND advances and the slot drains. -/
def Asm.complete (a : Asm) : Asm :=
  if a.full then { a.setDrain a.parity true with round := a.round + 1 } else a

/-- The completion test of a cycle, and of the following cycle for a slot that was already full (R247, R248);
a completed round of the closing assembly asks for the boundary's actions (R250). -/
def State.testAsm (s : State) (n : Nat) : State :=
  let a := s.asm n
  if a.full then
    let b := a.complete.complete
    let s := s.setAsm n b
    -- a round that completes while earlier ones wait for their actions waits behind them
    let more := (b.round - a.round).toNat + b2n s.tut.boundary - 1
    if n = s.closeAsm then { s with tut := { s.tut with boundary := true, extra := s.tut.extra + more } } else s
  else s

/-- An arrival of participant `p` with sense `sn` at assembly `n`, carried by a command of queue `q`, by
the first row of Table: Assembly arrivals (R245, R246); the flag says that it is held. -/
def State.arrive (s : State) (n p sn q : Nat) : State × Bool :=
  let a := s.asm n
  if (a.mask &&& maskBit p) = 0 then (s.logEv evNotMember (synErr n q), false)
  else if a.drain sn then
    (s.setAsm n { a with held := a.held ++ [⟨p, sn, q⟩] }, true)
  else if (a.arr sn &&& maskBit p) ≠ 0 then (s.logEv evReentry (synErr n q), false)
  else ((s.setAsm n (a.setArr sn (a.arr sn ||| maskBit p))), false)

/-- The held arrivals that the drained slot `sn` of assembly `n` admits, in ascending participant (R248). -/
def State.admitHeld (s : State) (n sn : Nat) : State :=
  let a := s.asm n
  let go := sortBy HeldArr.part (a.held.filter (·.sense = sn))
  let s := s.setAsm n { a with held := a.held.filter (·.sense ≠ sn) }
  go.foldl (fun s h => ((s.arrive n h.part h.sense h.queue).1).unhold h.queue) s

/-- An ASM wait of participant `p` with sense `sn` can pass (R247). -/
def State.asmReady (s : State) (n p sn : Nat) : Bool :=
  let a := s.asm n
  a.drain sn && (a.arr sn &&& maskBit p) != 0

/-- The release of R247: the bit is cleared; at COUNT 0 the slot is open again and admits held arrivals. -/
def State.release (s : State) (n p sn : Nat) : State :=
  let a := s.asm n
  let a := a.setArr sn (a.arr sn &&& ~~~(maskBit p))
  if a.count sn = 0 then ((s.setAsm n (a.setDrain sn false)).admitHeld n sn).testAsm n
  else s.setAsm n a

/-- A mask write by host software (R249): ignored below the timetable's count; SYN_BUSY while in use. -/
def State.writeMask (s : State) (n : Nat) (v : Word) : State :=
  let a := s.asm n
  if n < s.objAsms then s
  else if a.count 0 ≠ 0 ∨ a.count 1 ≠ 0 then s.logEv evSynBusy (synErr n 0)
  else s.setAsm n { a with mask := v }

/-! ## Signals and waits of commands (R241, R252) -/

/-- The outcome of one wait: kind 0 none, 1 TAKE, 2 ATLEAST, 3 ASM; the state after it, when it passes. -/
def State.tryWait (s : State) (kind obj val : Nat) : Option State :=
  match kind with
  | 0 => some s
  | 1 => if val ≤ s.bell obj then some (s.setBell obj (s.bell obj - val)) else none
  | 2 => if val ≤ s.bell obj then some s else none
  | _ => if s.asmReady (obj / 64) (obj % 64) (val % 2)
         then some (s.release (obj / 64) (obj % 64) (val % 2)) else none

/-- Both waits of a command tested together, W0 first (R258). -/
def State.tryWaits (s : State) (c : Cmd) : Option State :=
  let k := cmdAt c 2 1
  match s.tryWait (k % 4) (cmdAt c 4 2) (cmdAt c 0xC 4) with
  | none => none
  | some s => s.tryWait (k / 4 % 4) (cmdAt c 6 2) (cmdAt c 0x10 4)

/-- The ADD signals of a command, as bell and value. -/
def cmdAdds (c : Cmd) : List (Nat × Nat) :=
  let k := cmdAt c 2 1
  (if k / 16 % 4 = 1 then [(cmdAt c 8 2, cmdAt c 0x14 4)] else [])
    ++ (if k / 64 % 4 = 1 then [(cmdAt c 0xA 2, cmdAt c 0x18 4)] else [])

/-- The ARRIVE signals of a command, as assembly, participant and sense. -/
def cmdArrivals (c : Cmd) : List (Nat × Nat × Nat) :=
  let k := cmdAt c 2 1
  let f (o v : Nat) := (o / 64, o % 64, v % 2)
  (if k / 16 % 4 = 2 then [f (cmdAt c 8 2) (cmdAt c 0x14 4)] else [])
    ++ (if k / 64 % 4 = 2 then [f (cmdAt c 0xA 2) (cmdAt c 0x18 4)] else [])

/-- The arrivals of one cycle, in ascending participant at each assembly, then the completion tests (R248). -/
def State.arriveAll (s : State) (arr : List (Nat × Nat × Nat × Nat)) : State :=
  let arr := sortBy (fun x => x.2.1) arr
  let s := arr.foldl (fun s x =>
    let r := s.arrive x.1 x.2.1 x.2.2.1 x.2.2.2
    if r.2 then { r.1 with ques := Tab.modify r.1.ques x.2.2.2 fun y => { y with held := true } }
    else r.1) s
  (nub (arr.map Prod.fst)).foldl State.testAsm s

end Sys2Proof.Machine
end

