-- ==== Sys2Proof/Machine/Operands.lean ====
section
/-! DEFINITION. The operand forms of commands (R252 to R255 and the operand tables of chapters 10, 12, 13): field
accessors, the bits an opcode may set, and the illegal forms of R253. -/

namespace Sys2Proof.Machine

/-! ## Field accessors -/

def cOp (c : Cmd) : Nat := cmdAt c 0 1
def cCurgen (c : Cmd) : Bool := bitAt c 8
def cSerial (c : Cmd) : Bool := bitAt c 9
def cConsume (c : Cmd) : Bool := bitAt c 10

/-- The command with CONSUME 0: what a recompute entry reads, it reads without consuming (R139). -/
def cmdNoConsume (c : Cmd) : Cmd := setFld c 10 1 0

/-! Table: Locker operands -/
def cLocker (c : Cmd) : Nat := cmdAt c 0x1C 4 % 2 ^ 18
def cGen (c : Cmd) : Nat := cmdAt c 0x20 2
def cPlace (c : Cmd) : Nat := fld c (8 * 0x22) 3
def cClass (c : Cmd) : Nat := fld c (8 * 0x22 + 3) 2
def cProv (c : Cmd) : Nat := fld c (8 * 0x22 + 5) 3
def cFormat (c : Cmd) : Nat := fld c (8 * 0x23) 4
def cReads (c : Cmd) : Nat := fld c (8 * 0x23 + 4) 4
def cLength (c : Cmd) : Nat := cmdAt c 0x24 4 % 2 ^ 17
def cNeed (c : Cmd) : Nat := cmdAt c 0x28 2
def cRcyc (c : Cmd) : Nat := cmdAt c 0x2A 2
def cTicket (c : Cmd) : Nat := cmdAt c 0x2C 2
def cEntry (c : Cmd) : Nat := cmdAt c 0x2E 2
def cMb (c : Cmd) : Nat := cmdAt c 0x30 2
def cLayer (c : Cmd) : Nat := cmdAt c 0x32 2
def cTensor (c : Cmd) : Nat := cmdAt c 0x34 1
def cRUnit (c : Cmd) : Nat := cmdAt c 0x35 1 % 8
def cHist (c : Cmd) : Nat := cmdAt c 0x36 2 % 2 ^ 14
def cStream (c : Cmd) : Nat := cmdAt c 0x38 2

/-! POST -/
def cSlot (c : Cmd) : Nat := cmdAt c 0x1C 2
def cValue (c : Cmd) : Nat := cmdAt c 0x20 8

/-! Table: Bench and row-unit operands -/
def uUnit (c : Cmd) : Nat := cmdAt c 0x1C 1 % 8
def uFn (c : Cmd) : Nat := cmdAt c 0x1D 1
/-- PRODUCT: OP of Table: Bench products. -/
def uProd (c : Cmd) : Nat := uFn c % 4
/-- PRODUCT: the chained row operation. -/
def uChain (c : Cmd) : Nat := uFn c / 16
/-- ROWOP: the operation code, and the norm kind (0 RMS, 1 LAYER). -/
def uRow (c : Cmd) : Nat := uFn c % 16
def uNormKind (c : Cmd) : Nat := uFn c / 16 % 2
def uOutFmt (c : Cmd) : Nat := cmdAt c 0x1E 1 % 16
def uDest (c : Cmd) : Nat := cmdAt c 0x1E 1 / 16 % 4
def uTableT (c : Cmd) : Nat := cmdAt c 0x1F 1
def uIn0 (c : Cmd) : Nat := cmdAt c 0x20 2
def uIn1 (c : Cmd) : Nat := cmdAt c 0x22 2
def uIn2 (c : Cmd) : Nat := cmdAt c 0x24 2
def uOctx (c : Cmd) : Nat := cmdAt c 0x26 2
def uSteps (c : Cmd) : Nat := cmdAt c 0x28 4
def uFdst (c : Cmd) : Nat := cmdAt c 0x2C 4
def uHist (c : Cmd) : Nat := cmdAt c 0x30 2
def uMb (c : Cmd) : Nat := cmdAt c 0x32 2
def uLayer (c : Cmd) : Nat := cmdAt c 0x34 2
def uTensor (c : Cmd) : Nat := cmdAt c 0x36 1
def uTableD (c : Cmd) : Nat := cmdAt c 0x37 1
def uParam0 (c : Cmd) : Nat := cmdAt c 0x38 4
def uParam1 (c : Cmd) : Nat := cmdAt c 0x3C 4
/-- GATE_D: the context for du. -/
def duCtx (c : Cmd) : Nat := uParam1 c % 65536

/-! Table: STREAM operands -/
def sCtx (c : Cmd) : Nat := cmdAt c 0x1C 2
def sMode (c : Cmd) : Nat := cmdAt c 0x1E 1
def sBell (c : Cmd) : Nat := cmdAt c 0x20 2
def sCount (c : Cmd) : Nat := cmdAt c 0x24 4
def sAddr (c : Cmd) : Nat := cmdAt c 0x28 4
def sSrc (c : Cmd) : Nat := cmdAt c 0x2C 8
def sDst (c : Cmd) : Nat := cmdAt c 0x34 8

/-! Table: COURIER operands -/
def kCourier (c : Cmd) : Nat := cmdAt c 0x1C 1 % 64
def kCount (c : Cmd) : Nat := cmdAt c 0x20 4
def kSrc (c : Cmd) : Nat := cmdAt c 0x24 8
def kDst (c : Cmd) : Nat := cmdAt c 0x2C 8
def kCtrl (c : Cmd) : Nat := cmdAt c 0x34 4
def kPeriod (c : Cmd) : Nat := cmdAt c 0x38 4
/-- PACE_SRC and PACE_CRS of CTRL, whose bit i is bit i of CRS_CTRL. -/
def kPaceSrc (c : Cmd) : Nat := kCtrl c / 2 ^ 6 % 4
def kPaceCrs (c : Cmd) : Nat := kCtrl c / 2 ^ 8 % 64

/-! Table: ROLLCALL operands, Table: BUCKET operands -/
def rGroup (c : Cmd) : Nat := cmdAt c 0x1C 2 % 4096
def rSource (c : Cmd) : Nat := cmdAt c 0x1E 1
def rSlotops (c : Cmd) : Nat := cmdAt c 0x20 4
def rSrc (c : Cmd) : Nat := cmdAt c 0x24 4
def rDst (c : Cmd) : Nat := cmdAt c 0x28 4
def rRslot (c : Cmd) : Nat := cmdAt c 0x2C 2
/-- The result slots that the used slots are posted to (R304). -/
def rSlots (c : Cmd) : List Nat :=
  if rRslot c = 0xFFFF then [] else ((List.range 8).filter fun i => rSlotops c / 16 ^ i % 16 != 0).map (rRslot c + ·)
def bDtype (c : Cmd) : Nat := cmdAt c 0x1E 1
def bResult (c : Cmd) : Nat := cmdAt c 0x1F 1
def bCount (c : Cmd) : Nat := cmdAt c 0x20 4
def bSrc (c : Cmd) : Nat := cmdAt c 0x24 8
def bPiece (c : Cmd) : Nat := cmdAt c 0x2C 4
def bBlock (c : Cmd) : Nat := cmdAt c 0x30 4
def bRoot (c : Cmd) : Nat := cmdAt c 0x34 2
def bRootForm (c : Cmd) : Nat := cmdAt c 0x36 1
def bDeadline (c : Cmd) : Nat := cmdAt c 0x38 4

/-! ## Allowed bits (R253: non-zero reserved bits refuse) -/

/-- A mask over a command from (offset, mask) parts. -/
def opMask (parts : List (Nat × Nat)) : Nat := (parts.map fun p => p.2 <<< (8 * p.1)).foldl Nat.lor 0

/-- Operand bits of the locker opcodes (Table: Locker operands). -/
def lockerMask : Nat := opMask
  [(0x1C, 0x3FFFF), (0x20, 0xFFFF), (0x22, 0xFF), (0x23, 0xFF), (0x24, 0x1FFFF), (0x28, 0xFFFF),
   (0x2A, 0xFFFF), (0x2C, 0xFFFF), (0x2E, 0xFFFF), (0x30, 0xFFFF), (0x32, 0xFFFF), (0x34, 0xFF),
   (0x35, 0x07), (0x36, 0x3FFF), (0x38, 0xFFFF)]

/-- Operand bits shared by the bench and row-unit opcodes; FN, PARAM0 and PARAM1 are by opcode. -/
def benchMask (fn p0 p1 : Nat) : Nat := opMask
  [(0x1C, 0x07), (0x1D, fn), (0x1E, 0x3F), (0x1F, 0xFF), (0x20, 0xFFFF), (0x22, 0xFFFF), (0x24, 0xFFFF),
   (0x26, 0xFFFF), (0x28, 0xFFFFFFFF), (0x2C, 0xFFFFFFFF), (0x30, 0xFFFF), (0x32, 0xFFFF), (0x34, 0xFFFF),
   (0x36, 0xFF), (0x37, 0xFF), (0x38, p0), (0x3C, p1)]

/-- PARAM0 and PARAM1 bits of a row operation: eps for the NORM kinds, P and K for DROPOUT, the γβ
destination of NORM_D, the du context of GATE_D; zero otherwise. -/
def rowParams (op : Nat) : Nat × Nat :=
  if op = 4 ∨ op = 5 then (0xFFFFFFFF, 0)
  else if op = 6 then (0xFFFFFFFF, 0xFFFFFFFF)
  else if op = 3 then (0, 0xFFFF)
  else if op = 0xA then (0xFFFFFFFF, 0xFFFFFFFF)
  else (0, 0)

/-- The operand bits that an opcode may set; none for a reserved opcode (Table: Opcodes). -/
def operandMask (c : Cmd) : Option Nat :=
  match cOp c with
  | 0x00 => some 0
  | 0x01 => some (opMask [(0x1C, 0xFFFF), (0x20, 0xFFFFFFFFFFFFFFFF)])
  | 0x10 | 0x11 | 0x12 | 0x13 | 0x14 => some lockerMask
  | 0x20 => some (benchMask 0xF3 0x83FFFFFF 0)
  | 0x21 => some (benchMask 0 0x83FFFFFF 0)
  | 0x22 => some (benchMask 0x1F (rowParams (uRow c)).1 (rowParams (uRow c)).2)
  | 0x30 => some (opMask [(0x1C, 0xFFFF), (0x1E, 0x07), (0x20, 0xFFFF), (0x24, 0xFFFFFFFF),
      (0x28, 0xFFFFFFFF), (0x2C, 0xFFFFFFFFFFFFFFFF), (0x34, 0xFFFFFFFFFFFFFFFF)])
  | 0x31 => some (opMask [(0x1C, 0x3F), (0x20, 0xFFFFFFFF), (0x24, 0xFFFFFFFFFFFFFFFF),
      (0x2C, 0xFFFFFFFFFFFFFFFF), (0x34, 0x3F3FF0), (0x38, 0xFFFFFFFF)])
  | 0x40 => some (opMask [(0x1C, 0x0FFF), (0x1E, 0xFF), (0x20, 0xFFFFFFFF), (0x24, 0xFFFFFFFF),
      (0x28, 0xFFFFFFFF), (0x2C, 0xFFFF)])
  | 0x41 => some (opMask [(0x1C, 0x0FFF), (0x1E, 0xFF), (0x1F, 0x01), (0x20, 0xFFFFFFFF),
      (0x24, 0x8000FFFFFFFFFFFF), (0x2C, 0xFFFFFFFF), (0x30, 0xFFFFFFFF), (0x34, 0xFFFF), (0x36, 0x07),
      (0x38, 0xFFFFFFFF)])
  | _ => none

/-- The bits of the common part that a command may set: OP, FLAGS[2:0], KINDS, the objects and values; the
values of ASM waits and ARRIVE signals use bit 0 only (R252). -/
def commonMask (c : Cmd) : Nat :=
  let k := cmdAt c 2 1
  let v (asm : Bool) : Nat := if asm then 1 else 0xFFFFFFFF
  opMask [(0, 0xFF), (1, 0x07), (2, 0xFF), (4, 0xFFFFFFFFFFFFFFFF),
    (0xC, v (k % 4 == 3)), (0x10, v (k / 4 % 4 == 3)), (0x14, v (k / 16 % 4 == 2)), (0x18, v (k / 64 % 4 == 2))]

/-! ## Objects named (R253) -/

/-- The bells and assemblies that the waits and signals name lie within the set's limits. -/
def syncNamesOk (set : Nat) (c : Cmd) : Bool :=
  let k := cmdAt c 2 1
  let ok (isNone isAsm : Bool) (o : Nat) : Bool :=
    isNone || (if isAsm then decide (o / 64 < limAsms set) else decide (o < limBells set))
  ok (k % 4 == 0) (k % 4 == 3) (cmdAt c 4 2) && ok (k / 4 % 4 == 0) (k / 4 % 4 == 3) (cmdAt c 6 2)
    && ok (k / 16 % 4 == 0) (k / 16 % 4 == 2) (cmdAt c 8 2)
    && ok (k / 64 % 4 == 0) (k / 64 % 4 == 2) (cmdAt c 0xA 2)

/-- The other objects that the operands name lie within the set's limits. -/
def operandNamesOk (set : Nat) (c : Cmd) : Bool :=
  let ctx (n : Nat) : Bool := decide (n < limStreams set)
  let opt (n : Nat) : Bool := n == 0xFFFF || ctx n
  let ep (w : Nat) : Bool := w / 2 ^ 60 != 1 || decide (w / 2 ^ 32 % 2 ^ 18 < limLockers set)
  match cOp c with
  | 0x01 => decide (cSlot c < limSlots set)
  | 0x10 => decide (cLocker c < limLockers set) && decide (cTicket c < limBells set)
  | 0x11 | 0x12 | 0x14 => decide (cLocker c < limLockers set)
  | 0x13 => decide (cLocker c < limLockers set) && ctx (cStream c)
  | 0x20 | 0x21 | 0x22 => opt (uIn0 c) && opt (uIn1 c) && opt (uIn2 c) && opt (uOctx c)
      && !(cOp c == 0x22 && uRow c == 3 && !ctx (duCtx c))
  | 0x30 => ctx (sCtx c) && (sMode c / 4 % 2 == 0 || decide (sBell c < limBells set)) && ep (sSrc c) && ep (sDst c)
  | 0x31 => decide (kCourier c < limCouriers set) && !(kPaceSrc c == 2 && decide (limCouriers set ≤ kPaceCrs c))
  | 0x40 => (rSlots c).all fun n => decide (n < limSlots set)
  | _ => true

/-- A TAKE wait on a flag bell with a value other than 0 or 1 (R243). -/
def State.badFlagTake (s : State) (c : Cmd) : Bool :=
  let k := cmdAt c 2 1
  (k % 4 == 1 && s.isFlag (cmdAt c 4 2) && decide (1 < cmdAt c 0xC 4))
    || (k / 4 % 4 == 1 && s.isFlag (cmdAt c 6 2) && decide (1 < cmdAt c 0x10 4))

/-- A command refused with QUE_ILLEGAL when it reaches the head of its queue (R243, R253). -/
def State.illegalCmd (s : State) (host : Bool) (c : Cmd) : Bool :=
  let k := cmdAt c 2 1
  match operandMask c with
  | none => true
  | some m =>
    decide (c.toNat &&& (commonMask c ||| m) ≠ c.toNat)
      || k / 16 % 4 == 3 || k / 64 % 4 == 3
      || !syncNamesOk s.part.set c || !operandNamesOk s.part.set c
      || (cCurgen c && host) || s.badFlagTake c

end Sys2Proof.Machine
end

