-- ==== Sys2Proof/Machine/Queues.lean ====
section
/-! DEFINITION. Queues (R256 to R260): rings, push, the tests at the head, acceptance, refusal, completion and the
control actions; and the commands QUE_PUSH, RESUME, SKIP, FLUSH, HALT, RUN, SIGNAL, ASM_MASK_WRITE. -/

namespace Sys2Proof.Machine

def State.que (s : State) (q : Nat) : Que := Tab.get s.ques q
def State.setQue (s : State) (q : Nat) (x : Que) : State := { s with ques := Tab.put s.ques q x }
def State.modQue (s : State) (q : Nat) (f : Que → Que) : State := { s with ques := Tab.modify s.ques q f }

/-- Queue `q` exists (R256). -/
def State.queExists (s : State) (q : Nat) : Bool := decide (q < s.objQueues)

/-- Cloakroom address of command `i` of queue `q` (R256). -/
def State.ringAddr (s : State) (q i : Nat) : Nat :=
  q * s.ringDepth * 64 + (i % s.ringDepth) * 64

/-- Commands in the ring, HEAD to TAIL, counted modulo 2 × RING_DEPTH (R256). -/
def State.queCount (s : State) (q : Nat) : Nat :=
  let x := s.que q
  (x.tail + 2 * s.ringDepth - x.head) % (2 * s.ringDepth)

def State.queEmpty (s : State) (q : Nat) : Bool := (s.que q).head == (s.que q).tail
def State.queFull (s : State) (q : Nat) : Bool := decide (s.queCount q = s.ringDepth)

/-- The command at HEAD. -/
def State.headCmd (s : State) (q : Nat) : Cmd :=
  cmdOfBytes (s.t0Read (s.ringAddr q (s.que q).head) 64)

/-- The command at issue: the one held aside, else the one at HEAD; none when the queue has neither. -/
def State.curCmd (s : State) (q : Nat) : Option (Cmd × Option EntTag) :=
  match (s.que q).aside with
  | some x => some x
  | none => if s.queEmpty q then none else some (s.headCmd q, ((s.que q).tags.head?).join)

/-- Commands of queue `q` that a unit holds (accepted, not complete). -/
def State.flightsOf (s : State) (q : Nat) : List Flight := s.flights.filter (·.queue == q)

/-- A queue whose command is issued or accepted and not complete. -/
def State.queBusy (s : State) (q : Nat) : Bool := (s.que q).issued || (s.que q).late || !(s.flightsOf q).isEmpty

/-- The command at HEAD with its tag. -/
def State.headOf (s : State) (q : Nat) : Cmd × Option EntTag := (s.headCmd q, ((s.que q).tags.head?).join)

/-- The command of queue `q` that is with its unit and not accepted: one that runs on after the queue stopped, else the one at
issue. -/
def State.atIssue (s : State) (q : Nat) : Option (Cmd × Option EntTag) :=
  if (s.que q).late then some (s.headOf q) else if (s.que q).issued then s.curCmd q else none

/-- The internal pointers advanced by one. -/
def State.advance (s : State) (q : Nat) : State :=
  let s := s.modQue q fun x =>
    { x with head := (x.head + 1) % (2 * s.ringDepth), tags := x.tags.tail }
  { s with sync := { s.sync with dlLogged := false } }

/-- A command copied to slot TAIL of the ring, and TAIL advanced (R257, R329). -/
def State.append (s : State) (q : Nat) (c : Cmd) (tag : Option EntTag) : State :=
  let x := s.que q
  let s := s.t0Write (s.ringAddr q x.tail) (cmdBytes c)
  s.modQue q fun x => { x with tail := (x.tail + 1) % (2 * s.ringDepth), tags := x.tags ++ [tag] }

/-- QUE_STATUS.STATE (Table: QUE_STATUS): 0 IDLE, 1 READY, 2 WAITING, 3 BUSY, 4 HELD, 5 STOPPED, 6 HALTED. -/
def State.queState (s : State) (q : Nat) : Nat :=
  let x := s.que q
  match x.run with
  | .stopped => 5
  | .halted => 6
  | .going =>
    if x.held then 4
    else if x.issued then 3
    else if s.queEmpty q && x.aside.isNone then (if (s.flightsOf q).isEmpty then 0 else 3)
    else if x.waiting then 2
    else if !(s.flightsOf q).isEmpty then 3
    else 1

/-! ## Refusal and acceptance (R258, R259) -/

/-- Queue `q` enters STOPPED with `code`. -/
def State.haltQueue (s : State) (q code : Nat) : State :=
  let s := s.modQue q fun x => { x with run := .stopped, code := code, issued := false, waiting := false }
  { s with sync := { s.sync with waiters := s.sync.waiters.filter (· != q) } } |>.setEvBit 12 9

/-- The command of queue `q` with its unit is refused with `code`: it stays at HEAD or aside as it is. A queue that has stopped already
keeps the stopping command, and this one keeps the waits that it took (log 90). -/
def State.stopQueue (s : State) (q code : Nat) : State :=
  if (s.que q).late then s.modQue q fun x => { x with late := false, headTaken := true } else s.haltQueue q code

/-- The sync unit or the tutor refuses the command at the head of `q` with QUE_ILLEGAL (R253). -/
def State.refuseHead (s : State) (q obj : Nat) : State :=
  (s.logEv evQueIllegal (synErr obj q)).stopQueue q evQueIllegal.code

/-- A pending HALT takes effect at the command boundary (R259). -/
def State.boundaryHalt (s : State) (q : Nat) : State :=
  if (s.que q).haltReq && !s.queBusy q then
    s.modQue q fun x => { x with haltReq := false, run := .halted, waiting := false }
  else s

/-- The unit accepts the command at issue of queue `q`: HEAD advances, or the aside command leaves; the
command is now held by its unit (R258). -/
def State.acceptCmd (s : State) (q : Nat) (done : Bool) : State :=
  match (if (s.que q).late then some (s.headOf q) else s.curCmd q) with
  | none => s
  | some (c, tag) =>
    let s :=
      if (s.que q).late then (s.advance q).modQue q fun x => { x with late := false }
      else if (s.que q).aside.isSome then
        s.modQue q fun x => { x with aside := none, issued := false, taken := x.headTaken, headTaken := false }
      else (s.advance q).modQue q fun x => { x with issued := false, taken := false }
    { s with flights := s.flights ++ [{ queue := q, cmd := c, tag := tag, done := done, dropped := false, amax := 0, ran := false, bound := false }] }

/-- The first flight of queue `q` that `p` names marked done. -/
def markDone (p : Flight → Bool) : List Flight → List Flight
  | [] => []
  | f :: r => if p f && !f.done then { f with done := true } :: r else f :: markDone p r

/-- The first flight that `p` names marked as bound to a pass (R445). -/
def markBound (p : Flight → Bool) : List Flight → List Flight
  | [] => []
  | f :: r => if p f then { f with bound := true } :: r else f :: markBound p r

/-- The unit has finished a command of queue `q` (COMMAND_COMPLETE applies its signals). -/
def State.finish (s : State) (q : Nat) (p : Flight → Bool) : State :=
  { s with flights := markDone (fun f => f.queue == q && p f) s.flights }

/-- A command fails after acceptance: it is held aside and its queue stops with `code` (R259, R444). -/
def State.failFlight (s : State) (q code : Nat) (p : Flight → Bool) : State :=
  match s.flights.find? (fun f => f.queue == q && p f && !f.done) with
  | none => s
  | some f =>
    let s := { s with flights := s.flights.erase f }
    if f.dropped then s else
    -- a command that was issued meanwhile runs on (R259)
    (s.modQue q fun x => { x with
      aside := some (f.cmd, f.tag), taken := true, late := x.late || (x.issued && x.aside.isNone) }).haltQueue q code

/-! ## Waits at the head (R242, R258) -/

/-- The bells that a command's waits name. -/
def waitBells (c : Cmd) : List Nat :=
  let k := cmdAt c 2 1
  (if k % 4 = 1 ∨ k % 4 = 2 then [cmdAt c 4 2] else []) ++
    (if k / 4 % 4 = 1 ∨ k / 4 % 4 = 2 then [cmdAt c 6 2] else [])

/-- Queue `q` may test the waits of its command `c` now: it goes, holds no issued command or held arrival, and waits for no earlier
command (R258). -/
def State.mayTest (s : State) (q : Nat) (c : Cmd) : Bool :=
  let x := s.que q
  x.run == .going && !x.held && !x.issued && !x.late && !x.haltReq && !(cSerial c && !(s.flightsOf q).isEmpty)

/-- A queue that began to wait before `q`, names one of its bells and can pass now: it passes first (R242). `stuck`: its command cannot
pass for want of room in the partial store (R123). -/
def State.earlierWaiter (s : State) (q : Nat) (c : Cmd) (stuck : Nat → Bool) : Bool :=
  (s.sync.waiters.takeWhile (· != q)).any fun q' =>
    match s.curCmd q' with
    | none => false
    | some (c', _) =>
      s.mayTest q' c' && (waitBells c').any (fun b => (waitBells c).contains b) && (s.tryWaits c').isSome && !stuck q' 

/-- The waits of the command of a repeated entry were taken in the abandoned run (R335). -/
def State.deemed (s : State) (tag : Option EntTag) : Bool :=
  match tag with
  | none => false
  | some t => s.tut.runs.any fun r =>
      r.kind == t.kind && r.run == t.run && r.entry == t.entry && r.deemed.contains t.idx

/-- The waits taken recorded with their entry, for a repeat (R335). -/
def State.noteTaken (s : State) (tag : Option EntTag) : State :=
  match tag with
  | none => s
  | some t => { s with tut := { s.tut with runs := s.tut.runs.map fun r =>
      if r.kind == t.kind && r.run == t.run && r.entry == t.entry
      then { r with deemed := t.idx :: r.deemed.filter (· != t.idx) } else r } }

/-- What the test at the head of queue `q` finds (R243, R253, R258): nothing to issue, an illegal command,
waits that do not hold, or the command with the state in which its waits are taken. -/
inductive HeadTest where
  | nothing
  | illegal
  | waits
  | pass (c : Cmd) (tag : Option EntTag) (s : State)

def State.testHead (s : State) (q : Nat) (stuck : Nat → Bool) : HeadTest :=
  let x := s.que q
  if x.run ≠ .going ∨ x.held ∨ x.issued ∨ x.late ∨ x.haltReq then .nothing
  else match s.curCmd q with
  | none => .nothing
  | some (c, tag) =>
    if cSerial c && !(s.flightsOf q).isEmpty then .nothing
    else if s.t0Bad (s.ringAddr q x.head) 64 && x.aside.isNone then .nothing
    else if s.illegalCmd (!s.isTtQueue q) c then .illegal
    else if x.taken || s.deemed tag then .pass c tag s
    else if s.earlierWaiter q c stuck then .waits
    else match s.tryWaits c with
      | none => .waits
      | some s' => .pass c tag (s'.noteTaken tag)

/-- The queue waits: it joins the waiters in order (R242). -/
def State.beginWait (s : State) (q : Nat) : State :=
  let s := s.modQue q fun x => { x with waiting := true }
  if s.sync.waiters.contains q then s
  else { s with sync := { s.sync with waiters := s.sync.waiters ++ [q] } }

/-- The waits have been taken: the command goes to its unit (R258, R260). -/
def State.markIssued (s : State) (q : Nat) : State :=
  let s := s.modQue q fun x => { x with waiting := false, taken := true, issued := true }
  { s with sync := { s.sync with waiters := s.sync.waiters.filter (· != q), lastQ := q } }

/-- The command that queue `q` has issued to its unit, when its opcode is `op`. -/
def State.issuedTo (s : State) (q op : Nat) : Option (Cmd × Option EntTag) :=
  (s.atIssue q).filter fun x => cOp x.1 == op

/-! ## Completion (R258, R330) -/

/-- An entry's command completed: its count advances and the last one ends the entry, which signals
DONE_BELL by 1 (R330). -/
def EntRun.note (r : EntRun) (idx : Nat) : EntRun :=
  if r.finished.contains idx then r else { r with finished := idx :: r.finished, doneCount := r.doneCount + 1 }

/-- The signals that a completing flight applies; those the abandoned run applied are left out (R335). -/
def State.flightAdds (s : State) (f : Flight) : List (Nat × Nat) :=
  match f.tag with
  | none => cmdAdds f.cmd
  | some t =>
    if s.tut.runs.any (fun r => r.kind == t.kind && r.run == t.run && r.entry == t.entry &&
        r.signalled.contains t.idx) then [] else cmdAdds f.cmd

def State.flightArrivals (s : State) (f : Flight) : List (Nat × Nat × Nat × Nat) :=
  match f.tag with
  | none => (cmdArrivals f.cmd).map fun x => (x.1, x.2.1, x.2.2, f.queue)
  | some t =>
    if s.tut.runs.any (fun r => r.kind == t.kind && r.run == t.run && r.entry == t.entry &&
        r.signalled.contains t.idx) then []
    else (cmdArrivals f.cmd).map fun x => (x.1, x.2.1, x.2.2, f.queue)

/-! ## QUE_PUSH (R256, R257) -/

/-- A push of the staged command to queue `q` (R257). -/
def State.push (s : State) (q : Nat) : State :=
  if !s.queExists q || s.isTtQueue q then s.logEv evQueIllegal (synErr 0 q)
  else if s.queFull q then s.logEv evQueFull (synErr 0 q)
  else (s.append q s.sync.stage none).wake

/-! ## Control actions (R259) -/

/-- RESUME: the stopping command is issued again; COMMAND_ISSUE does not test its waits when TAKEN is 1. -/
def State.queResume (s : State) (q : Nat) : State :=
  if (s.que q).run = .stopped then s.modQue q fun x => { x with run := .going }
  else s.logEv evQueIllegal (synErr 0 q)

/-- SKIP: the stopping command is dropped, without its signals. -/
def State.queSkip (s : State) (q : Nat) : State :=
  if (s.que q).run = .stopped then
    let s := if (s.que q).aside.isSome then s
             else if s.queEmpty q then s else s.advance q
    s.modQue q fun x => { x with run := .going, aside := none, taken := x.aside.isSome && x.headTaken, headTaken := false }
  else s.logEv evQueIllegal (synErr 0 q)

/-- FLUSH: the aside command is discarded and HEAD set to TAIL. -/
def State.queFlush (s : State) (q : Nat) : State :=
  match (s.que q).run with
  | .going => s.logEv evQueIllegal (synErr 0 q)
  | r => s.modQue q fun x => { x with
      run := if r = .stopped then .going else .halted, aside := none, taken := false, late := false, headTaken := false
      head := x.tail, tags := [] }

/-- HALT: at the next command boundary, at once when the queue holds no issued command. -/
def State.queHalt (s : State) (q : Nat) : State :=
  if (s.que q).run = .going then
    let s := { s with sync := { s.sync with waiters := s.sync.waiters.filter (· != q) } }
    (s.modQue q fun x => { x with haltReq := true }).boundaryHalt q
  else s.logEv evQueIllegal (synErr 0 q)

/-- RUN: a HALTED queue goes on from HEAD. -/
def State.queRun (s : State) (q : Nat) : State :=
  if (s.que q).run = .halted then s.modQue q fun x => { x with run := .going }
  else s.logEv evQueIllegal (synErr 0 q)

/-- A write of QUE_CTRL (R259): one action bit, else refused; zero does nothing. -/
def State.writeQueCtrl (s : State) (q : Nat) (v : Nat) : State :=
  match v % 32 with
  | 0 => s
  | 1 => s.queResume q
  | 2 => s.queSkip q
  | 4 => s.queHalt q
  | 8 => s.queRun q
  | 16 => s.queFlush q
  | _ => s.logEv evQueIllegal (synErr 0 q)

/-- QUE_STATUS (Table: QUE_STATUS). -/
def State.queStatus (s : State) (q : Nat) : Word :=
  let x := s.que q
  word (at_ 48 x.code + at_ 26 x.tail + at_ 15 x.head + at_ 6 (b2n x.aside.isSome)
    + at_ 5 (b2n (x.taken && x.run == .stopped))
    + at_ 4 (b2n (s.queExists q && !s.isTtQueue q)) + s.queState q)

/-- QUE_WAIT: the first unmet wait of a WAITING queue's head command. -/
def State.queWait (s : State) (q : Nat) : Word :=
  if s.queState q ≠ 2 then 0 else
  match s.curCmd q with
  | none => 0
  | some (c, _) =>
    let k := cmdAt c 2 1
    match s.tryWait (k % 4) (cmdAt c 4 2) (cmdAt c 0xC 4) with
    | none => word (at_ 32 (cmdAt c 0xC 4) + at_ 16 (cmdAt c 4 2) + at_ 14 (k % 4))
    | some _ => word (at_ 32 (cmdAt c 0x10 4) + at_ 16 (cmdAt c 6 2) + at_ 14 (k / 4 % 4) + at_ 13 1)

end Sys2Proof.Machine
end

