-- ==== Sys2Proof/Machine/Codec.lean ====
section
/-! DEFINITION. The exponent code (R220 to R239): eligibility, code construction, the coded payload, its checks and
its expansion, and the codec counters. -/

namespace Sys2Proof.Machine

/-! ## Bit streams -/

/-- The `n` bits of `v`, least significant first. -/
def bitsLe : Nat → Nat → List Bool
  | 0, _ => []
  | n + 1, v => decide (v % 2 = 1) :: bitsLe n (v / 2)

/-- The `n` bits of `v`, most significant first. -/
def bitsBe (n v : Nat) : List Bool := (bitsLe n v).reverse

/-- The value of bits given most significant first. -/
def natBe (bs : List Bool) : Nat := bs.foldl (fun a b => 2 * a + b2n b) 0

/-- The value of bits given least significant first. -/
def natLe : List Bool → Nat
  | [] => 0
  | b :: r => b2n b + 2 * natLe r

/-- Bits packed into bytes from bit 0 of the first byte upwards; the last byte is filled with zeros. -/
def packBits : List Bool → Bytes
  | [] => []
  | b0 :: b1 :: b2 :: b3 :: b4 :: b5 :: b6 :: b7 :: r =>
    BitVec.ofNat 8 (natLe [b0, b1, b2, b3, b4, b5, b6, b7]) :: packBits r
  | l => [BitVec.ofNat 8 (natLe l)]

/-- The bits of a byte run, bit 0 of the first byte first. -/
def unpackBits (bs : Bytes) : List Bool := bs.flatMap fun b => bitsLe 8 b.toNat

/-! ## Formats with an exponent code (R220) -/

/-- FORMAT FP32, BF16 or FP16. -/
def codable (fmt : Nat) : Bool := decide (fmt ≤ 2)
/-- Elements of a tile, exponent width and mantissa width of the format (R225, R229). -/
def codeN (fmt : Nat) : Nat := if fmt = 0 then 8192 else 16384
def codeE (fmt : Nat) : Nat := if fmt = 2 then 5 else 8
def codeM (fmt : Nat) : Nat := if fmt = 0 then 23 else if fmt = 1 then 7 else 10

/-- The elements of a raw payload, as numbers. -/
def codeElems (fmt : Nat) (pay : Bytes) : List Nat :=
  let w := if fmt = 0 then 4 else 2
  (pieces w (codeN fmt) pay).map leNat

/-- Exponent field and sign–mantissa value of an element. -/
def expOf (fmt x : Nat) : Nat := (x >>> codeM fmt) % 2 ^ codeE fmt
def smOf (fmt x : Nat) : Nat :=
  (x >>> (codeE fmt + codeM fmt)) * 2 ^ codeM fmt + x % 2 ^ codeM fmt
/-- The element of an exponent and a sign–mantissa value. -/
def elemOf (fmt e sm : Nat) : Nat :=
  (sm / 2 ^ codeM fmt) <<< (codeE fmt + codeM fmt) ||| e <<< codeM fmt ||| sm % 2 ^ codeM fmt

/-! ## Building the code (R225 to R228) -/

/-- How often each exponent occurs: pairs of exponent and count, rising, zero counts left out. -/
def expCounts (fmt : Nat) (es : List Nat) : List (Nat × Nat) :=
  ((List.range (2 ^ codeE fmt)).map fun x => (x, es.countP (· == x))).filter (·.2 ≠ 0)

/-- The list of the code (R225): symbols in ascending value with their counts, the escape last as `none`. -/
def codeList (cnt : List (Nat × Nat)) : List (Option Nat × Nat) :=
  if cnt.length ≤ 32 then cnt.map fun p => (some p.1, p.2)
  else
    let total := (cnt.map Prod.snd).sum
    let byCount := sortBy (fun p => total - p.2) cnt
    let sel := sortBy Prod.fst (byCount.take 32)
    sel.map (fun p => (some p.1, p.2)) ++ [(none, total - (sel.map Prod.snd).sum)]

/-- A Huffman node: weight, order number, the leaves below it. -/
abbrev HNode := Nat × Nat × List Nat

/-- The smaller of two nodes by weight and then by order number. -/
def hLess (a b : HNode) : Bool := decide (a.1 < b.1 ∨ (a.1 = b.1 ∧ a.2.1 < b.2.1))

/-- The smallest node taken out of a list. -/
def hMin : List HNode → Option (HNode × List HNode)
  | [] => none
  | n :: r =>
    match hMin r with
    | none => some (n, [])
    | some (m, rest) => if hLess n m then some (n, r) else some (m, n :: rest)

/-- The merges of R226: each puts the leaves of two nodes one deeper. -/
def hMerge : Nat → Nat → List HNode → List Nat → List Nat
  | 0, _, _, depth => depth
  | fuel + 1, next, nodes, depth =>
    match hMin nodes with
    | none => depth
    | some (a, rest) =>
      match hMin rest with
      | none => depth
      | some (b, rest) =>
        let ls := a.2.2 ++ b.2.2
        let depth := depth.zipIdx.map fun d => if ls.contains d.2 then d.1 + 1 else d.1
        hMerge fuel (next + 1) ((a.1 + b.1, next, ls) :: rest) depth

/-- Code lengths by R226; a single symbol has length 1. -/
def huffLens (cnts : List Nat) : List Nat :=
  if cnts.length = 1 then [1]
  else hMerge cnts.length cnts.length (cnts.zipIdx.map fun c => (c.1, c.2, [c.2])) (cnts.map fun _ => 0)

/-- K of R227, in units of 2^-8 of the code space. -/
def kraft (lens : List Nat) : Nat := (lens.map fun l => 2 ^ (8 - l)).sum

/-- The entry to lengthen (R227): length below 8, the greatest length, then the smallest count, then latest. -/
def lenPick (es : List (Nat × Nat × Nat)) : Option Nat :=
  let c := es.filter fun e => decide (e.1 < 8)
  match c with
  | [] => none
  | e :: r => some (r.foldl (fun (b : Nat × Nat × Nat) x =>
      if b.1 < x.1 ∨ (b.1 = x.1 ∧ (x.2.1 < b.2.1 ∨ (x.2.1 = b.2.1 ∧ b.2.2 < x.2.2))) then x else b) e).2.2

/-- R227's lengthening, until K ≤ 256. -/
def limitLoop : Nat → List Nat → List Nat → List Nat
  | 0, _, lens => lens
  | fuel + 1, cnts, lens =>
    if kraft lens ≤ 256 then lens else
    match lenPick ((lens.zip cnts).zipIdx.map fun x => (x.1.1, x.1.2, x.2)) with
    | none => lens
    | some i => limitLoop fuel cnts (lens.zipIdx.map fun l => if l.2 = i then l.1 + 1 else l.1)

/-- Lengths limited to 8 (R227). -/
def limitLens (cnts lens : List Nat) : List Nat :=
  if lens.any (8 < ·) then limitLoop 256 cnts (lens.map (min 8)) else lens

/-- The canonical code (R228): per list entry its length and codeword. -/
def canonical (lens : List Nat) : List (Nat × Nat) :=
  let order := sortBy (fun x => x.1) lens.zipIdx
  let step (acc : List (Nat × Nat × Nat) × Option (Nat × Nat)) (x : Nat × Nat) :=
    let code := match acc.2 with
      | none => 0
      | some (l, c) => (c + 1) <<< (x.1 - l)
    (acc.1 ++ [(x.2, x.1, code)], some (x.1, code))
  let out := (order.foldl step ([], none)).1
  (sortBy (fun x => x.1) out).map fun x => x.2

/-- The code of a tile: its list of symbols (escape last), and per entry length and codeword. -/
def buildCode (fmt : Nat) (es : List Nat) : List (Option Nat × Nat × Nat) :=
  let cl := codeList (expCounts fmt es)
  let cnts := cl.map Prod.snd
  let cw := canonical (limitLens cnts (huffLens cnts))
  (cl.zip cw).map fun x => (x.1.1, x.2.1, x.2.2)

/-! ## The coded payload (R229 to R231) -/

/-- A symbol's bits in its lane (R230). -/
def codeSym (fmt : Nat) (code : List (Option Nat × Nat × Nat)) (e : Nat) : List Bool :=
  match code.find? (fun x => x.1 == some e) with
  | some x => bitsBe x.2.1 x.2.2
  | none =>
    match code.find? (fun x => x.1 == none) with
    | some x => bitsBe x.2.1 x.2.2 ++ bitsBe (codeE fmt) e
    | none => []

/-- Lane `k`: elements k, k + 64, k + 128 and so on (R230). -/
def lanes (es : List Nat) : List (List Nat) :=
  let rows := pieces 64 (es.length / 64) es
  (List.range 64).map fun k => rows.map fun r => r.getD k 0

/-- The coded payload and CODE_DESC of a raw payload (R229, R231). -/
def encodeTile (fmt : Nat) (pay : Bytes) : Bytes × Nat :=
  let xs := codeElems fmt pay
  let es := xs.map (expOf fmt)
  let code := buildCode fmt es
  let lb := (lanes es).map fun l => l.flatMap (codeSym fmt code)
  let dir := lb.flatMap fun l => leBytes 2 l.length
  let nent := code.length
  let tb := 8 * ((nent + 3) / 4)
  let table := (code.flatMap fun x => [BitVec.ofNat 8 (x.1.getD 0), BitVec.ofNat 8 x.2.1])
    ++ List.replicate (tb - 2 * nent) 0
  let area := lb.flatMap fun l =>
    let p := packBits l
    p ++ List.replicate (4 * ((l.length + 31) / 32) - p.length) 0
  let sm := packBits (xs.flatMap fun x => bitsLe (1 + codeM fmt) (smOf fmt x))
  let esc := code.any fun x => x.1 == none
  let maxlen := (code.map fun x => x.2.1).foldl max 0
  (dir ++ table ++ area ++ sm,
   at_ 16 (area.length / 4) + at_ 8 maxlen + at_ 6 (b2n esc) + (nent - b2n esc))

/-! ## Checks and expansion (R232) -/

/-- One lane decoded (R230): the exponents, and the bits left over; none for a bit sequence that begins no
codeword or an escaped value that is a symbol. -/
def decodeLane (fmt : Nat) (code : List (Option Nat × Nat × Nat)) : Nat → List Bool → Option (List Nat × List Bool)
  | 0, bs => some ([], bs)
  | n + 1, bs =>
    match code.find? (fun x => decide (x.2.1 ≤ bs.length) && (bs.take x.2.1) == bitsBe x.2.1 x.2.2) with
    | none => none
    | some (some e, l, _) =>
      match decodeLane fmt code n (bs.drop l) with
      | none => none
      | some (es, r) => some (e :: es, r)
    | some (none, l, _) =>
      let bs := bs.drop l
      let e := natBe (bs.take (codeE fmt))
      if bs.length < codeE fmt ∨ code.any (fun x => x.1 == some e) then none else
      match decodeLane fmt code n (bs.drop (codeE fmt)) with
      | none => none
      | some (es, r) => some (e :: es, r)

/-- The outcome of the checks of Table: Coded tile checks: the failing step and its code (CMP_LEN_ERR?), or the
raw payload. -/
inductive Decoded where
  | bad (step : Nat) (len : Bool)
  | ok (pay : Bytes)
  deriving DecidableEq, Repr

/-- The elements of 64 lanes in index order. -/
def unlane (ls : List (List Nat)) (rows : Nat) : List Nat :=
  (List.range rows).flatMap fun r => ls.map fun l => l.getD r 0

/-- Table: Coded tile checks on a payload of FORMAT `fmt`, KIND data when `data`, with the header's CMP_LENGTH
and CODE_DESC. -/
def decodeTile (fmt : Nat) (data : Bool) (len desc : Nat) (pay : Bytes) : Decoded :=
  let nsym := desc % 64
  let esc := desc / 64 % 2
  let maxlen := desc / 256 % 16
  let words := desc / 65536
  let n := codeN fmt
  let nent := nsym + esc
  let tb := 8 * ((nent + 3) / 4)
  let smLen := n * (1 + codeM fmt) / 8
  if !(codable fmt && data) then .bad 1 false
  else if nsym = 0 ∨ 32 < nsym ∨ maxlen = 0 ∨ 8 < maxlen ∨ desc / 128 % 2 ≠ 0 ∨ desc / 4096 % 16 ≠ 0
      ∨ (esc = 1 ∧ nsym ≠ 32) then .bad 2 false
  else if len ≠ 128 + tb + 4 * words + smLen ∨ 30720 < len then .bad 3 true
  else
    let tbl := slice pay 128 tb
    let ents := (List.range nent).map fun i => (leAt tbl (2 * i) 1, leAt tbl (2 * i + 1) 1)
    let vals := (ents.take nsym).map Prod.fst
    let lens := ents.map Prod.snd
    let rising := (vals.zip vals.tail).all fun p => decide (p.1 < p.2)
    let okTable := rising && vals.all (· < 2 ^ codeE fmt) && lens.all (fun l => 1 ≤ l && l ≤ maxlen)
      && lens.any (· == maxlen) && decide (kraft lens ≤ 256)
      && (tbl.drop (2 * nent)).all (· == 0)
    if !okTable then .bad 4 false else
    let ls := (List.range 64).map fun k => leAt pay (2 * k) 2
    if (ls.map fun l => (l + 31) / 32).sum ≠ words then .bad 5 true else
    let cw := canonical lens
    let syms : List (Option Nat) := (vals.map some) ++ (if esc = 1 then [none] else [])
    let code := (syms.zip cw).map fun x => (x.1, x.2.1, x.2.2)
    let offs := (List.range 64).map fun k => ((ls.take k).map fun l => 4 * ((l + 31) / 32)).sum
    let area := pay.drop (128 + tb)
    let streams := (ls.zip offs).map fun p => unpackBits (slice area p.2 (4 * ((p.1 + 31) / 32)))
    let dec := streams.map fun st => decodeLane fmt code (n / 64) st
    if dec.any Option.isNone then .bad 6 false else
    let dec := dec.filterMap id
    let exact := ((dec.zip streams).zip ls).all fun x =>
      decide (x.1.2.length - x.1.1.2.length = x.2) && x.1.1.2.all (· == false)
    if !exact then .bad 7 true else
    let es := unlane (dec.map Prod.fst) (n / 64)
    if buildCode fmt es ≠ code ∨ (esc = 1 ∧ leAt tbl (2 * nsym) 1 ≠ 0) then .bad 8 false else
    let sm := pieces (1 + codeM fmt) n (unpackBits (slice area (4 * words) smLen))
    let w := if fmt = 0 then 4 else 2
    .ok ((es.zip sm).flatMap fun x => leBytes w (elemOf fmt x.1 (natLe x.2)))

/-! ## Counters and events (R232, R239); ports are 0 far, 1 fabric 0, 2 fabric 1 -/

/-- A 64-bit saturating counter register advanced. -/
def State.inc64 (s : State) (a n : Nat) : State := s.incF a 0 64 n

/-- The OFF bit of a compressor (R238). -/
def State.codeOff (s : State) (port : Nat) : Bool := bitAt (s.reg aCmpCtrl) port

/-- A codec exists at the port (Table: CMP_STATUS, PRESENT). -/
def codecPresent (set port : Nat) : Bool := decide (set ≥ 2 ∨ (set = 1 ∧ port ≤ 1))

/-- What a compressor sends for a raw tile (Table: Coding decision): payload, CMP_LENGTH and CODE_DESC (both
zero when raw), with the counters (R239). -/
def State.compress (s : State) (port fmt : Nat) (nocode : Bool) (pay : Bytes) : (Bytes × Nat × Nat) × State :=
  if !codable fmt || nocode || !codecPresent s.part.set port then ((pay, 0, 0), s)
  else
    let s := s.inc64 (aCmpRaw + 8 * port) pay.length
    let raw := ((s.inc64 (aCmpOut + 8 * port) pay.length).incF (aCmpTiles + 8 * port) 0 32 1)
    if s.codeOff port then ((pay, 0, 0), raw)
    else
      let r := encodeTile fmt pay
      if 30720 < r.1.length then ((pay, 0, 0), raw)
      else ((r.1, r.1.length, r.2),
        ((s.inc64 (aCmpOut + 8 * port) r.1.length).incF (aCmpTiles + 8 * port) 32 32 1))

/-- A failed check logged, with CMP_ERR and CMP_ERR_DESC loaded (R232, R239). -/
def State.codeFail (s : State) (port step : Nat) (len : Bool) (hdr : Bytes) : State :=
  let s := s.logEv (if len then evCmpLen else evCmpCode)
    (at_ 46 port + at_ 42 step + leAt hdr 0x18 4)
  s.setReg aCmpErrDesc (word (at_ 32 (leAt hdr 0xC 4) + at_ 16 (leAt hdr 0x1C 2) + leAt hdr 8 2))

/-- An expander's work on a coded tile (R223, R232): the raw payload, or the event code of the failure; a tile
that passes through coded is checked and counted in PASSED. -/
def State.expand (s : State) (port : Nat) (hdr : Bytes) (pay : Bytes) (pass : Bool) : Except Nat Bytes × State :=
  let fmt := leAt hdr 0 1 % 16
  match decodeTile fmt (leAt hdr 0 1 / 16 % 4 == 0) (leAt hdr 8 4) (leAt hdr 0xC 4) pay with
  | .bad step len =>
    (.error (if len then evCmpLen.code else evCmpCode.code), s.codeFail port step len hdr)
  | .ok raw =>
    if pass then (.ok pay, s.incF (aCmpExp + 8 * port) 32 32 1)
    else (.ok raw, s.incF (aCmpExp + 8 * port) 0 32 1)

end Sys2Proof.Machine
end

