-- ==== Sys2Proof/Machine/Tiles.lean ====
section
/-! DEFINITION. Tiles (R65 to R78): shapes, headers, CRC-32C, the storage cipher and MAC of R376 and R377, the layout
of the regions that hold tiles, run positions, and the satchel checks of R78. -/

namespace Sys2Proof.Machine

/-! ## Checksums -/

/-- One step of a reflected 32-bit CRC. -/
def crcBit (poly c : BitVec 32) : BitVec 32 := if c.getLsbD 0 then (c >>> 1) ^^^ poly else c >>> 1

/-- Eight steps, after a byte has been added in. -/
def crcByte (poly c : BitVec 32) (b : Byte) : BitVec 32 :=
  let c := c ^^^ b.setWidth 32
  crcBit poly (crcBit poly (crcBit poly (crcBit poly (crcBit poly (crcBit poly (crcBit poly (crcBit poly c)))))))

/-- A CRC register run over bytes. -/
def crcRun (poly : BitVec 32) (c : BitVec 32) (bs : Bytes) : BitVec 32 := bs.foldl (crcByte poly) c

/-- The reflected CRC-32C polynomial (R215). -/
def polyC : BitVec 32 := 0x82F63B78#32

/-- CRC-32C: initial value and final XOR 0xFFFF_FFFF (R215). -/
def crc32c (bs : Bytes) : BitVec 32 := ~~~(crcRun polyC 0xFFFFFFFF#32 bs)

/-- The FCS of an Ethernet frame: CRC-32 of IEEE 802.3. -/
def crc32e (bs : Bytes) : BitVec 32 := ~~~(crcRun 0xEDB88320#32 0xFFFFFFFF#32 bs)

/-- One byte of CRC-64/ECMA-182, most significant bit first (R189). -/
def crc64Byte (c : Word) (b : Byte) : Word :=
  (List.range 8).foldl (fun c _ => if c.getLsbD 63 then (c <<< 1) ^^^ 0x42F0E1EBA9EA3693#64 else c <<< 1)
    (c ^^^ (b.setWidth 64 <<< 56))

/-- CRC-64/ECMA-182 with initial value zero and no final XOR. -/
def crc64 (bs : Bytes) : Word := bs.foldl crc64Byte 0

/-! ## Tile shapes (R67) -/

/-- Table: Tile shapes, by format: shape code, rows, columns, payload bytes, SCALE_MODE, scale bytes,
sub-slots per tile, data tiles per companion (0: unscaled). -/
structure Shape where
  code : Nat
  rows : Nat
  cols : Nat
  pay : Nat
  mode : Nat
  scale : Nat
  sub : Nat
  g : Nat
  deriving DecidableEq, Repr

def shapeOf (fmt : Nat) : Shape :=
  match fmt with
  | 0 => ⟨1, 64, 128, 32768, 0, 0, 0, 0⟩
  | 1 | 2 => ⟨2, 128, 128, 32768, 0, 0, 0, 0⟩
  | 3 | 4 => ⟨3, 128, 256, 32768, 1, 1024, 1, 16⟩
  | 5 | 6 => ⟨4, 256, 160, 30720, 1, 1280, 1, 16⟩
  | 7 => ⟨5, 256, 256, 32768, 1, 2048, 1, 16⟩
  | 8 => ⟨6, 256, 320, 30720, 1, 2560, 2, 8⟩
  | 9 => ⟨7, 256, 512, 32768, 1, 4096, 2, 8⟩
  | 10 | 11 => ⟨8, 128, 256, 32768, 2, 1024, 1, 16⟩
  | _ => ⟨0, 0, 0, 0, 3, 0, 0, 0⟩

/-- Bits per element of a format (Table: Data-type codes). -/
def elemBits (fmt : Nat) : Nat :=
  match fmt with
  | 0 => 32 | 1 | 2 => 16 | 3 | 4 => 8 | 5 | 6 => 6 | 7 => 4 | 8 => 3 | 9 => 2 | 10 | 11 => 8 | _ => 0

/-- A data-type code that is not reserved (R21, R22). -/
def codeOk (fmt : Nat) : Bool := decide (fmt ≤ 11)

/-- A format with block scales (0x3 to 0xB). -/
def scaled (fmt : Nat) : Bool := decide (3 ≤ fmt ∧ fmt ≤ 11)

/-- Positions of a run of `d` data tiles (R70). -/
def runLen (fmt d : Nat) : Nat :=
  let g := (shapeOf fmt).g
  if g = 0 then d else d + (d + g - 1) / g

/-- The group of run position `p`: its first position, and its companion's position in a run of `len`
positions (R70); `none` for an unscaled run. -/
def groupOf (fmt len p : Nat) : Option (Nat × Nat) :=
  let g := (shapeOf fmt).g
  if g = 0 then none else
  let a := p / (g + 1) * (g + 1)
  some (a, min (a + g) (len - 1))

/-- Position `p` is a companion (R70). -/
def isComp (fmt len p : Nat) : Bool :=
  match groupOf fmt len p with
  | none => false
  | some (_, c) => p == c

/-! ## Headers (Table: Tile header) -/

/-- The fields of a header that its writer chooses. -/
structure Hdr where
  fmt : Nat
  kind : Nat
  shape : Nat
  mode : Nat
  cmp : Bool
  nocode : Bool
  prov : Nat
  vrows : Nat
  vcols : Nat
  cmpLen : Nat
  desc : Nat
  epoch : Nat
  owner : Nat
  pos : Nat
  mac : Nat
  deriving DecidableEq, Repr

/-- Header bytes 0x00 to 0x3B. -/
def Hdr.body (h : Hdr) : Bytes :=
  leBytes 1 (h.fmt + 16 * h.kind + 64 * h.mode) ++ leBytes 1 h.shape
    ++ leBytes 1 (b2n h.cmp + 2 * b2n h.nocode) ++ leBytes 1 h.prov
    ++ leBytes 2 h.vrows ++ leBytes 2 h.vcols ++ leBytes 4 h.cmpLen ++ leBytes 4 h.desc
    ++ leBytes 8 h.epoch ++ leBytes 4 h.owner ++ leBytes 4 h.pos ++ leBytes 16 0
    ++ leBytes 8 h.mac ++ leBytes 4 0

/-- The 64 header bytes with HCRC (R72). -/
def Hdr.bytes (h : Hdr) : Bytes := h.body ++ leBytes 4 (crc32c h.body).toNat

/-- The fields of header bytes. -/
def Hdr.read (b : Bytes) : Hdr :=
  let ty := leAt b 0 1
  { fmt := ty % 16, kind := ty / 16 % 4, mode := ty / 64, shape := leAt b 1 1
    cmp := leAt b 2 1 % 2 == 1, nocode := leAt b 2 1 / 2 % 2 == 1, prov := leAt b 3 1
    vrows := leAt b 4 2, vcols := leAt b 6 2, cmpLen := leAt b 8 4, desc := leAt b 0xC 4
    epoch := leAt b 0x10 8, owner := leAt b 0x18 4, pos := leAt b 0x1C 4, mac := leAt b 0x30 8 }

/-- HCRC holds (step 2 of Table: Tile read checks). -/
def hcrcOk (b : Bytes) : Bool := leAt b 0x3C 4 == (crc32c (slice b 0 0x3C)).toNat

/-- No reserved code in TYPE or SHAPE (step 4; R22, R67). -/
def Hdr.codesOk (h : Hdr) : Bool :=
  let sh := shapeOf h.fmt
  match h.kind with
  | 0 => codeOk h.fmt && h.shape == sh.code && h.mode == sh.mode
  | 1 => scaled h.fmt && h.mode == sh.mode && h.shape == 0
  | _ => false

/-! ## Storage in T1 to T3 (R376, R377) -/

/-- The XTS tweak of data unit `j` of a slot (Table: XTS tweak). -/
def tweak (tier a epoch j : Nat) : Nat :=
  at_ 64 epoch + at_ 48 tier + ((a + 256 * j) / 256) % 2 ^ 48

/-- A stored payload encrypted, 256 bytes a data unit (R376). -/
def xtsStore (k1 k2 tier a epoch : Nat) (pay : Bytes) : Bytes :=
  (pieces 256 ((pay.length + 255) / 256) pay).zipIdx.flatMap fun u => xtsEnc k1 k2 (tweak tier a epoch u.2) u.1

/-- The inverse. -/
def xtsLoad (k1 k2 tier a epoch : Nat) (pay : Bytes) : Bytes :=
  (pieces 256 ((pay.length + 255) / 256) pay).zipIdx.flatMap fun u => xtsDec k1 k2 (tweak tier a epoch u.2) u.1

/-- The MAC of R377 over header bytes 0x00 to 0x2F and the encrypted stored payload. -/
def tileMac (km tier a epoch : Nat) (hdr stored : Bytes) : Nat :=
  (cmac km (leBytes 1 tier ++ leBytes 7 0 ++ leBytes 8 a ++ leBytes 8 epoch
    ++ slice hdr 0 0x30 ++ stored)).toNat

/-- `n` rounded up to a multiple of `m`. -/
def roundUp (n m : Nat) : Nat := (n + m - 1) / m * m

/-- Bytes padded with zeros to a multiple of `m`. -/
def padTo (m : Nat) (bs : Bytes) : Bytes := bs ++ List.replicate (roundUp bs.length m - bs.length) 0

/-- Header and stored payload of a tile as they go to a slot of a tier: plaintext in T0; encrypted with a MAC
in T1 to T3 (R72, R376, R377). -/
def sealTile (s : State) (loc : Loc) (h : Hdr) (pay : Bytes) : Bytes × Bytes :=
  let h := { h with epoch := loc.epoch, mac := 0 }
  let pay := if h.cmp then padTo 256 pay else pay
  if loc.tier = 0 then (h.bytes, pay)
  else
    let st := xtsStore s.sec.k1 s.sec.k2 loc.tier loc.pay loc.epoch pay
    ({ h with mac := tileMac s.sec.km loc.tier loc.pay loc.epoch h.body st }.bytes, st)

/-! ## Regions (R65, R200, Table: Locker region layout) -/

/-- Slots of a region of `size` bytes that holds payloads and headers (R40, R65). -/
def slotsIn (size : Nat) : Nat := size / 32832

/-- First slot B, slot count N and first header H of a tier's locker region. -/
def State.lkrRegion (s : State) (tier : Nat) : Nat × Nat × Nat :=
  match tier with
  | 0 => let n := slotsIn (s.ckLockers * 65536)
         (s.t0Lockers, n, s.t0Lockers + n * 32768)
  | 1 => (0, s.t1Lockers / 32768, s.t1Lockers)
  | 2 => let b := s.t2Base + s.markerRegion + s.t2Spill
         let n := if s.t2Present then slotsIn (s.t2Size - s.markerRegion - s.t2Spill) else 0
         (b, n, b + n * 32768)
  | _ => let n := if s.t3Present then slotsIn s.t3Size else 0
         (s.t3Base, n, s.t3Base + n * 32768)

/-- First slot, slot count and first header of the T0 (`t1` false) or T1 weight window (Table: Weight window
layout). -/
def State.winRegion (s : State) (t1 : Bool) : Nat × Nat × Nat :=
  if t1 then
    let b := s.t1Lockers + s.t1Lockers / 512
    (b, s.t1WindowSize / 32768, b + s.t1WindowSize)
  else
    let n := slotsIn (s.ckWindow * 65536)
    (s.t0Window, n, s.t0Window + n * 32768)

/-- The spill region (R174): slots of T2 from T2_BASE + STATE_SIZE. -/
def State.spillRegion (s : State) : Nat × Nat × Nat :=
  let b := s.t2Base + s.markerRegion
  let n := if s.t2Present then slotsIn s.t2Spill else 0
  (b, n, b + n * 32768)

/-- Slot `i` of a region in a tier, with an epoch. -/
def slotLoc (tier : Nat) (r : Nat × Nat × Nat) (i epoch : Nat) : Loc :=
  { tier := tier, pay := r.1 + i * 32768, hdr := r.2.2 + i * 64, epoch := epoch }

/-- A tier is present on this form (R83: an absent or fenced tier). -/
def State.tierPresent (s : State) (tier : Nat) : Bool :=
  match tier with
  | 0 => s.syl.isSome
  | 1 => s.syl.isSome
  | 2 => s.t2Present && !s.farFenced
  | _ => s.t3Present && !s.farFenced

/-! ## Satchels (R77, R78) -/

/-- A satchel: header, scale bytes, payload (raw, or coded and padded to 64). -/
def satchel (hdr scales pay : Bytes) : Bytes := hdr ++ scales ++ padTo 64 pay

def satHdr (sat : Bytes) : Bytes := sat.take 64
def satScales (sat : Bytes) : Bytes :=
  let h := Hdr.read (satHdr sat)
  slice sat 64 (shapeOf h.fmt).scale
/-- The payload bytes of a satchel: the coded length, or the shape's payload. -/
def satPay (sat : Bytes) : Bytes :=
  let h := Hdr.read (satHdr sat)
  slice sat (64 + (shapeOf h.fmt).scale) (if h.cmp then h.cmpLen else (shapeOf h.fmt).pay)

/-- The checks of R78: HCRC, no reserved code, and FORMAT and KIND for the destination (`fmt` for a locker). -/
def satOk (sat : Bytes) (fmt : Option Nat) : Bool :=
  let h := Hdr.read (satHdr sat)
  hcrcOk (satHdr sat) && h.codesOk && h.kind == 0 &&
    (match fmt with | none => true | some f => h.fmt == f)

end Sys2Proof.Machine
end

