-- ==== Sys2Proof/Machine/Formats.lean ====
section
/-! DEFINITION. Element formats (R145 to R148), the decoding of tiles (R117, R149), the quantiser (R150 to R154,
R156 to R158), the moment formats (R173), and Philox4x32-10 (R136). -/

namespace Sys2Proof.Machine

/-! ## Elements -/

/-- Exponent bits, mantissa bits and bias of a scaled element format 0x3 to 0x8 (Table: Element formats). -/
def elemFmt (fmt : Nat) : Nat × Nat × Int :=
  match fmt with
  | 3 => (4, 3, 7) | 4 => (5, 2, 15) | 5 => (3, 2, 3) | 6 => (2, 3, 1) | 7 => (2, 1, 1) | _ => (1, 1, 1)

/-- emax of a scaled format. -/
def emaxOf (fmt : Nat) : Int :=
  match fmt with
  | 3 => 8 | 4 => 15 | 5 => 4 | 6 => 2 | 7 => 2 | _ => 0

/-- The value of an element code; none for an illegal code (R146, R148, R149). INT8 and U8-SQRT give the
integer, unscaled formats their IEEE value. -/
def elemVal (fmt code : Nat) : Option Fp :=
  match fmt with
  | 0 => some (f32.val code)
  | 1 => some (bf16.val code)
  | 2 => some (fp16.val code)
  | 9 => match code % 4 with
    | 0 => some .zero | 1 => some .one | 3 => some (.neg .one) | _ => none
  | 10 => if code = 0x80 then none
          else some (if code < 128 then .fin false code 0 else .fin true (256 - code) 0)
  | 11 => some (.ofNat code)
  | _ =>
    let (eb, mb, bias) := elemFmt fmt
    let s := (code / 2 ^ (eb + mb)) % 2 == 1
    let x := (code / 2 ^ mb) % 2 ^ eb
    let m := code % 2 ^ mb
    if fmt = 3 ∧ x = 15 ∧ m = 7 then some .nan
    else if fmt = 4 ∧ x = 31 then some (if m = 0 then .inf s else .nan)
    else if x = 0 then some (.fin s m (1 - bias - mb))
    else some (.fin s (2 ^ mb + m) (x - bias - mb))

/-- The value of an E8M0 scale byte (R147). -/
def e8m0 (b : Nat) : Fp := if b = 0xFF then .nan else .fin false 1 ((b : Int) - 127)

/-- The element codes of a payload (R68): fields of the format's width, from bit 0 upwards. -/
def elemCodes (fmt n : Nat) (pay : Bytes) : List Nat :=
  if elemBits fmt % 8 = 0 then (pieces (elemBits fmt / 8) n pay).map leNat
  else (pieces (elemBits fmt) n (unpackBits pay)).map natLe

/-- The scale of each element of a row of a tile: one for each 32 elements (E8M0), or for each 128 (FP32). -/
def rowScales (fmt r : Nat) (scales : Bytes) : List Fp :=
  let sh := shapeOf fmt
  match sh.mode with
  | 1 => ((slice scales (r * (sh.cols / 32)) (sh.cols / 32)).map fun b => e8m0 b.toNat).flatMap (List.replicate 32)
  | 2 => ((pieces 4 2 (slice scales (r * 8) 8)).map fun b => v32 (leNat b)).flatMap (List.replicate 128)
  | _ => List.replicate sh.cols .one

/-- A list of options, all of them or none. -/
def allSome {α : Type} : List (Option α) → Option (List α)
  | [] => some []
  | none :: _ => none
  | some x :: r => (allSome r).map (x :: ·)

/-- The values of a data tile as rows, each element times its scale (R147, R148); none when an element code is
illegal (R149). Elements outside the valid corner are exact zero (R69, R120). -/
def tileRows (fmt vrows vcols : Nat) (scales pay : Bytes) : Option (List (List Fp)) :=
  let sh := shapeOf fmt
  let codes := elemCodes fmt (sh.rows * sh.cols) pay
  match allSome (codes.map (elemVal fmt)) with
  | none => none
  | some vs =>
    some ((pieces sh.cols sh.rows vs).zipIdx.map fun row =>
      (row.1.zip (rowScales fmt row.2 scales)).zipIdx.map fun x =>
        if row.2 < vrows ∧ x.2 < vcols then x.1.1.mul x.1.2 else .zero)

/-- A matrix of `rows` by `cols` from the rows of its data tiles in grid order (R69). -/
def gridMatrix {α : Type} (fmt rows cols : Nat) (tiles : List (List (List α))) : List (List α) :=
  let sh := shapeOf fmt
  let gc := (cols + sh.cols - 1) / sh.cols
  let gr := (rows + sh.rows - 1) / sh.rows
  let band (g : List (List (List α))) : List (List α) :=
    (List.range sh.rows).map fun r => (g.flatMap fun t => t.getD r []).take cols
  ((pieces gc gr tiles).flatMap band).take rows

/-- Data tiles of a tensor of `rows` by `cols` (R69). -/
def gridTiles (fmt rows cols : Nat) : Nat :=
  let sh := shapeOf fmt
  ((rows + sh.rows - 1) / sh.rows) * ((cols + sh.cols - 1) / sh.cols)

/-! ## Quantising (R150 to R152) -/

/-- Largest finite value of a scaled format. -/
def maxFin (fmt : Nat) : Fp :=
  match fmt with
  | 3 => .ofNat 448 | 4 => .ofNat 57344 | 5 => .ofNat 28 | 6 => .fin false 15 (-1) | 7 => .ofNat 6
  | 8 => .fin false 3 (-1) | _ => .one

/-- `F / 2^(c − 127)` rounded once to the format's precision with no limit on the exponent: significand and
power of two of the magnitude. -/
def quantGrid (fmt c : Nat) (f : Fp) : Nat × Int :=
  match f with
  | .fin _ m e =>
    let e := e - ((c : Int) - 127)
    if m = 0 then (0, 0)
    else if fmt = 9 then
      let y : Fp := .fin false m e
      (y.toInt.toNat, 0)
    else
      let (_, mb, bias) := elemFmt fmt
      rneGrid mb (1 - bias) m e
  | _ => (0, 0)

/-- The element overflows at code `c` (R151); non-finite values never do (R152). -/
def overflows (fmt c : Nat) (f : Fp) : Bool :=
  f.isFin && (maxFin fmt).lt (.fin false (quantGrid fmt c f).1 (quantGrid fmt c f).2)

/-- The sign bit of a scaled format, in place. -/
def elemSign (fmt : Nat) (s : Bool) : Nat := if s then 2 ^ (elemBits fmt - 1) else 0

/-- The element code of a finite value that fits at code `c` (R150). -/
def elemEnc (fmt c : Nat) (f : Fp) : Nat :=
  let p := quantGrid fmt c f
  if fmt = 9 then (if p.1 = 0 then 0 else if f.sign then 3 else 1)
  else
    let (_, mb, bias) := elemFmt fmt
    elemSign fmt f.sign + (if p.1 = 0 then 0 else encodeGrid mb (1 - bias) p)

/-- The code of the largest finite magnitude with the sign of F (R158). -/
def elemMax (fmt : Nat) (s : Bool) : Nat :=
  match fmt with
  | 3 => elemSign 3 s + 0x7E | 4 => elemSign 4 s + 0x7B | 5 => elemSign 5 s + 0x1F | 6 => elemSign 6 s + 0x1F
  | 7 => elemSign 7 s + 7 | 8 => elemSign 8 s + 3 | _ => if s then 3 else 1

/-- A format with a NaN or infinity code of its own (E4M3, E5M2). -/
def hasNan (fmt : Nat) : Bool := fmt == 3 || fmt == 4

/-- The code of a non-finite F (R152); `sgn` is the sign bit of its FP32 encoding. -/
def elemNonfin (fmt : Nat) (sgn : Bool) (f : Fp) : Nat :=
  match fmt, f with
  | 3, _ => elemSign 3 sgn + 0x7F
  | 4, .inf _ => elemSign 4 sgn + 0x7C
  | 4, _ => elemSign 4 sgn + 0x7F
  | _, _ => 0

/-- One row of outputs (FP32 encodings) of a tile quantised at code `c`: element codes and scale bytes. In formats
without a NaN, a block with a non-finite element takes scale byte 0xFF (R152); at code 254 elements that
overflow saturate and their block takes 0xFF (R158). -/
def quantRow (fmt c vcols : Nat) (row : List Nat) : List Nat × List Nat :=
  let sh := shapeOf fmt
  let row := (row.take vcols) ++ List.replicate (sh.cols - vcols) 0
  let blocks := (pieces 32 (sh.cols / 32) row).zipIdx.map fun b =>
    let fs := b.1.map fun w => (w, v32 w)
    let codes := fs.map fun x =>
      if !x.2.isFin then elemNonfin fmt (x.1 / 2 ^ 31 == 1) x.2
      else if overflows fmt c x.2 then elemMax fmt x.2.sign
      else elemEnc fmt c x.2
    let bad := fs.any fun x => (!x.2.isFin && !hasNan fmt) || overflows fmt c x.2
    (codes, if vcols ≤ 32 * b.2 then 0x7F else if bad then 0xFF else c)
  (blocks.flatMap Prod.fst, blocks.map Prod.snd)

/-- A quantised tile: scale bytes and payload, from rows of FP32 encodings with `vrows` by `vcols` valid. A row outside
the valid corner is zero with scale bytes 0x7F (R69). -/
def quantTile (fmt c vrows vcols : Nat) (rows : List (List Nat)) : Bytes × Bytes :=
  let sh := shapeOf fmt
  let q := (List.range sh.rows).map fun r =>
    if r < vrows then quantRow fmt c vcols (rows.getD r [])
    else (List.replicate sh.cols 0, List.replicate (sh.cols / 32) 0x7F)
  ((q.flatMap Prod.snd).map (BitVec.ofNat 8),
   packBits ((q.flatMap Prod.fst).flatMap (bitsLe (elemBits fmt))))

/-- An unscaled output tile (R153): FP32, BF16 or FP16 elements. -/
def plainTile (fmt vrows vcols : Nat) (rows : List (List Nat)) : Bytes :=
  let sh := shapeOf fmt
  (List.range sh.rows).flatMap fun r => (List.range sh.cols).flatMap fun c =>
    let w := if r < vrows ∧ c < vcols then (rows.getD r []).getD c 0 else 0
    match fmt with
    | 0 => leBytes 4 w
    | 1 => leBytes 2 (bf16.round (v32 w))
    | _ => leBytes 2 (fp16.round (v32 w))

/-! ## The running code (R156, R157) -/

def clampCode (x : Int) : Nat := if x < 0 then 0 else if 254 < x then 254 else x.toNat

/-- The start code of R156 for the estimate `a` (an FP32 encoding). -/
def startCode (fmt headroom a : Nat) : Nat :=
  let v := v32 a
  let l := if v.isZero then 0 else v.log2
  clampCode (l + headroom - emaxOf fmt + 127)

/-- Some element of the tile overflows at code `c`. -/
def tileOverflows (fmt c : Nat) (fs : List Fp) : Bool := fs.any (overflows fmt c)

/-- The smallest code above `c` at which nothing overflows, 254 when there is none (R157). -/
def fitCode (fmt : Nat) (fs : List Fp) : Nat → Nat → Nat
  | 0, _ => 254
  | fuel + 1, c => if 254 ≤ c then 254 else if tileOverflows fmt (c + 1) fs then fitCode fmt fs fuel (c + 1) else c + 1

/-- The largest finite magnitude among FP32 encodings, as an encoding. -/
def largestFin (ws : List Nat) : Nat :=
  ws.foldl (fun a w => let m := w % 2 ^ 31; if m < 0x7F800000 ∧ a < m then m else a) 0

/-- The code that a tile which overflows at `c` is re-quantised at (R157). -/
def raiseCode (fmt headroom c : Nat) (ws : List Nat) : Nat :=
  let fs := ws.map v32
  let est := (v32 (largestFin ws)).log2 + headroom - emaxOf fmt + 127
  min 254 (max (fitCode fmt fs 256 c) (clampCode est))

/-! ## The moment formats (R173) -/

/-- First moments of a row half: codes and the FP32 scale. -/
def encodeM (vals : List Fp) : List Nat × Nat :=
  let a := vals.foldl (fun a v => Fp.maxAbs a v.abs) .zero
  let sc := rne32 (a.div (.ofNat 127))
  let q (v : Fp) : Nat :=
    let n := (v.div (v32 sc)).toInt
    let n := max (-127) (min 127 n)
    if n < 0 then (256 + n).toNat else n.toNat
  (vals.map fun v => if sc = 0 then 0 else q v, sc)

/-- Second moments of a row half. -/
def encodeV (vals : List Fp) : List Nat × Nat :=
  let ss := vals.map fun v => q32 v.sqrt
  let a := ss.foldl (fun a v => Fp.maxAbs a v) .zero
  let sc := rne32 (a.div (.ofNat 255))
  let q (v : Fp) : Nat := (max 0 (min 255 (v.div (v32 sc)).toInt)).toNat
  (ss.map fun v => if sc = 0 then 0 else q v, sc)

/-- Decoded moments: `m = RNE32(q × σ)`, `v = RNE32(RNE32(u × σ)²)`; none for the illegal INT8 code. -/
def decodeM (code sc : Nat) : Option Fp := (elemVal 10 code).map fun q => mul32 q (v32 sc)
def decodeV (code sc : Nat) : Fp := let r := mul32 (.ofNat code) (v32 sc); mul32 r r

/-! ## Philox4x32-10 (R136) -/

/-- One round with key words `k0`, `k1` on counter words. -/
def philoxRound (k0 k1 : Nat) (x : Nat × Nat × Nat × Nat) : Nat × Nat × Nat × Nat :=
  let p0 := 0xD2511F53 * x.1
  let p1 := 0xCD9E8D57 * x.2.2.1
  (Nat.xor (Nat.xor (p1 / 2 ^ 32) x.2.1) k0, p1 % 2 ^ 32, Nat.xor (Nat.xor (p0 / 2 ^ 32) x.2.2.2) k1, p0 % 2 ^ 32)

/-- `n` rounds, the key bumped by the Weyl constants between them. -/
def philoxRounds : Nat → Nat → Nat → Nat × Nat × Nat × Nat → Nat × Nat × Nat × Nat
  | 0, _, _, x => x
  | n + 1, k0, k1, x =>
    philoxRounds n ((k0 + 0x9E3779B9) % 2 ^ 32) ((k1 + 0xBB67AE85) % 2 ^ 32) (philoxRound k0 k1 x)

/-- The four output words for a 64-bit key and counter words c0 to c3. -/
def philox (seed : Nat) (c0 c1 c2 c3 : Nat) : Nat × Nat × Nat × Nat :=
  philoxRounds 10 (seed % 2 ^ 32) (seed / 2 ^ 32 % 2 ^ 32) (c0, c1, c2, c3)

/-- The random word of element `e` of a tensor (R136). -/
def philoxElem (seed step mb layer tensor e : Nat) : Nat :=
  let g := e / 4
  let x := philox seed (g % 2 ^ 32) (tensor * 2 ^ 24 + (g / 2 ^ 32) % 2 ^ 24) (mb * 2 ^ 16 + layer) step
  match e % 4 with
  | 0 => x.1 | 1 => x.2.1 | 2 => x.2.2.1 | _ => x.2.2.2

end Sys2Proof.Machine
end

