-- ==== Sys2Proof/Machine/MemPorts.lean ====
section
/-! DEFINITION. The memory ports and the far port (R203, R204, R415 to R422): address mapping, requests under shares,
tags and credits, and the jobs that wait for responses. -/

namespace Sys2Proof.Machine

/-- Port and port unit of T1 byte address `a` (R415). -/
def State.t1Map (s : State) (a : Nat) : Nat × Nat :=
  if s.memFenced 1 then (0, a / 256)
  else ((a / 4096) % 2, ((a / 8192) * 4096 + a % 4096) / 256)

/-- Port and unit of an address of a tier: T1 by R415, T2 and T3 over the far port (2). -/
def State.tierMap (s : State) (tier a : Nat) : Nat × Nat :=
  if tier = 1 then s.t1Map a else (2, a / 256)

/-- Tags of a port (R204; far port: 512). -/
def State.tagsOf (s : State) (port : Nat) : Nat :=
  if port = 2 then 512 else if s.part.set = 0 then 256 else 1024

/-- The most requests a class may have outstanding at a memory port (R204). -/
def State.classTags (s : State) (port : Nat) (c : Cls) : Nat :=
  let t := s.tagsOf port
  if port = 2 then t else
  let r := t * s.shareRead / 100
  let w := t * s.shareWrite / 100
  match c with
  | .read => r
  | .write => w
  | .remote => t - r - w

def Cls.code : Cls → Nat
  | .read => 0 | .write => 1 | .remote => 2

/-- The tags of a port that are outstanding or await a late response (R417, R419). -/
def State.usedTags (s : State) (port : Nat) : List Nat :=
  (s.mem.out.filter (·.req.port == port)).map MemOut.tag ++ (s.mem.late.filter (·.1 == port)).map Prod.snd

/-- The lowest tag of a port that is not in use. -/
def State.freeTag (s : State) (port : Nat) : Option Nat :=
  let used := s.usedTags port
  (List.range (used.length + 1)).find? fun t => !used.contains t && decide (t < s.tagsOf port)

def State.credits (s : State) (port : Nat) : Nat :=
  if port = 0 then s.mem.credit0 else s.mem.credit1

/-- A port can take a request of this class now: credit or link, a free tag, and room in the class (R204, R416). -/
def State.portOpen (s : State) (port : Nat) (c : Cls) : Bool :=
  (if port = 2 then s.pins.farUp else decide (0 < s.credits port))
    && decide ((s.usedTags port).length < s.tagsOf port)
    && decide ((s.mem.out.countP fun o => o.req.port == port && o.req.cls == c) < s.classTags port c)

/-- A write to the request's unit is outstanding (R418, R422). -/
def State.unitWritten (s : State) (r : MemReq) : Bool :=
  s.mem.out.any fun o => o.req.wr && o.req.port == r.port && o.req.unit == r.unit

/-- A request sent: tag, credit, the beat at the port. -/
def State.sendReq (s : State) (r : MemReq) (retried : Bool) : State :=
  match s.freeTag r.port with
  | none => s
  | some t =>
    let m := s.mem
    let m := { m with
      out := m.out ++ [{ tag := t, req := r, retried := retried }]
      credit0 := if r.port = 0 then m.credit0 - 1 else m.credit0
      credit1 := if r.port = 1 then m.credit1 - 1 else m.credit1
      last := Tab.put m.last (4 * r.port + r.cls.code) r.who }
    { s with mem := m }.emit (.memReq r.port r.wr r.cls.code t r.unit r.mask r.data)

/-- The place of a requester in the round robin after the one last served (R203). -/
def State.turn (s : State) (r : MemReq) : Nat :=
  (r.who + 8192 - Tab.get s.mem.last (4 * r.port + r.cls.code) - 1) % 8192

/-- The ports with their classes. -/
def portClasses : List (Nat × Cls) := [0, 1, 2].flatMap fun p => [(p, .read), (p, .write), (p, .remote)]

/-- The waiting request that is served next: of those that can be sent, the first in the round robin of the first
one's port and class. -/
def State.nextReq (s : State) : Option MemReq :=
  let ready := portClasses.filter fun x => s.portOpen x.1 x.2
  match s.mem.wait.find? fun r => ready.contains (r.port, r.cls) && !s.unitWritten r with
  | none => none
  | some r => leastBy s.turn (s.mem.wait.filter fun x => x.port == r.port && x.cls == r.cls && !s.unitWritten x)

/-- Index from which on a waiting write is a retry (R420). -/
def retryMark : Nat := 2 ^ 20

/-- Waiting requests sent while any can be. -/
def pumpLoop : Nat → State → State
  | 0, s => s
  | n + 1, s =>
    match s.nextReq with
    | none => s
    | some r => pumpLoop n ({ s with mem := { s.mem with wait := s.mem.wait.erase r } }.sendReq r (decide (retryMark ≤ r.idx)))

def State.pump (s : State) : State := pumpLoop s.mem.wait.length s

/-- Units of the byte range [a, a + n) of a tier, as port, unit, mask of the 64-byte lanes touched. -/
def State.unitsOf (s : State) (tier a n : Nat) : List (Nat × Nat × Nat × Nat) :=
  if n = 0 then [] else
  (List.range ((a + n - 1) / 256 - a / 256 + 1)).map fun i =>
    let base := (a / 256 + i) * 256
    let pu := s.tierMap tier base
    let mask := ((List.range 4).map fun q =>
      if a < base + 64 * (q + 1) ∧ base + 64 * q < a + n then 2 ^ q else 0).sum
    (pu.1, pu.2, mask, base)

/-- The data of one unit of a write of `bs` at `a` (bytes outside the range are zero and masked). -/
def unitData (a base : Nat) (bs : Bytes) : Bytes :=
  (List.range 256).map fun j => if base + j < a then 0 else bs.getD (base + j - a) 0

/-- Reads of a byte range for job `job`; unit index `idx0` upwards. -/
def State.readReqs (s : State) (tier a n : Nat) (cls : Cls) (who job idx0 : Nat) : List MemReq :=
  (s.unitsOf tier a n).zipIdx.map fun u =>
    { port := u.1.1, wr := false, cls := cls, unit := u.1.2.1, mask := 0, data := [], who := who, job := job,
      idx := idx0 + u.2 }

def State.writeReqs (s : State) (tier a : Nat) (bs : Bytes) (cls : Cls) (who job idx0 : Nat) : List MemReq :=
  (s.unitsOf tier a bs.length).zipIdx.map fun u =>
    { port := u.1.1, wr := true, cls := cls, unit := u.1.2.1, mask := u.1.2.2.1,
      data := unitData a u.1.2.2.2 bs, who := who, job := job, idx := idx0 + u.2 }

/-- A job started with the requests `f` builds for its number. -/
def State.startJob (s : State) (kind : JobKind) (f : Nat → List MemReq) : State :=
  let id := s.mem.nextJob
  let rs := f id
  let j : Job := { id := id, kind := kind, todo := rs.length, got := [], cause := 0, badAddr := 0 }
  { s with mem := { s.mem with jobs := s.mem.jobs ++ [j], nextJob := id + 1, wait := s.mem.wait ++ rs } }.pump

/-- Further requests of a job (its next phase). -/
def State.moreReqs (s : State) (j : Job) (rs : List MemReq) : State :=
  let j := { j with todo := rs.length }
  { s with mem := { s.mem with jobs := s.mem.jobs ++ [j], wait := s.mem.wait ++ rs } }.pump

/-- The job with number `id`. -/
def State.job (s : State) (id : Nat) : Option Job := s.mem.jobs.find? (·.id == id)

/-- A job abandoned: it leaves the list and its waiting requests are dropped; requests already sent complete. -/
def State.dropJobs (s : State) (p : JobKind → Bool) : State :=
  let gone := (s.mem.jobs.filter fun j => p j.kind).map Job.id
  { s with mem := { s.mem with
      jobs := s.mem.jobs.filter fun j => !p j.kind
      wait := s.mem.wait.filter fun r => !gone.contains r.job } }

/-- One unit of a job answered: the data kept under its index, the first failure in address order noted; the
flag says that this was the last. -/
def Job.note (j : Job) (idx : Nat) (data : Bytes) (cause unitAddr : Nat) : Job :=
  { j with
    todo := j.todo - 1
    got := Tab.put j.got idx data
    cause := if cause ≠ 0 ∧ (j.cause = 0 ∨ unitAddr < j.badAddr) then cause else j.cause
    badAddr := if cause ≠ 0 ∧ (j.cause = 0 ∨ unitAddr < j.badAddr) then unitAddr else j.badAddr }

/-- The bytes of the units `idx0` to `idx0 + k - 1` of a job, joined. -/
def Job.bytes (j : Job) (idx0 k : Nat) : Bytes :=
  (List.range k).flatMap fun i => Tab.get j.got (idx0 + i)

/-- Bytes [a, a + n) out of the units that cover them, from index `idx0`. -/
def Job.range (j : Job) (idx0 a n : Nat) : Bytes :=
  let k := if n = 0 then 0 else (a + n - 1) / 256 - a / 256 + 1
  slice (j.bytes idx0 k) (a % 256) n

end Sys2Proof.Machine
end

