-- ==== Sys2Proof/Machine/StreamBase.lean ====
section
/-! DEFINITION. Stream contexts and couriers as the other units see them: endpoint fields (R199), the halt of a context
(R209, R337, R444), the end of a command that a context or courier runs, and the stops of R210. -/

namespace Sys2Proof.Machine

def State.stm (s : State) (c : Nat) : Stream := Tab.get s.stms c
def State.setStm (s : State) (c : Nat) (x : Stream) : State := { s with stms := Tab.put s.stms c x }
def State.modStm (s : State) (c : Nat) (f : Stream → Stream) : State := s.setStm c (f (s.stm c))

/-! ## Endpoints (Table: Endpoint kinds) -/

/-- KIND of an endpoint register. -/
def epKind (w : Word) : Nat := fld w 60 4
def epLocker (w : Word) : Nat := fld w 32 18
def epGen (w : Word) : Nat := fld w 0 16
def epFirst (w : Word) : Nat := fld w 0 32
def epUnit (w : Word) : Nat := fld w 0 2
def epStreamed (w : Word) : Bool := bitAt w 4
def epInput (w : Word) : Nat := fld w 4 2
def epChannel (w : Word) : Nat := fld w 0 8
def epNode (w : Word) : Nat := fld w 0 16
def epForm (w : Word) : Nat := fld w 16 3
def epEndpoint (w : Word) : Nat := fld w 24 16
def epVc (w : Word) : Nat := fld w 40 2

/-- COUNT and ADDR of STM_INDEX. -/
def Stream.count (x : Stream) : Nat := fld x.index 32 32
def Stream.addr (x : Stream) : Nat := fld x.index 0 27
/-- The number of entries of the pass: up to a terminator met, else COUNT. -/
def Stream.passEnd (x : Stream) : Nat := x.stop.getD x.count
def Stream.idxSide (x : Stream) : Bool := bitAt x.ctrl 4
def Stream.persist (x : Stream) : Bool := bitAt x.ctrl 5
def Stream.running (x : Stream) : Bool := x.st == 1

/-- The command that a flight holds names context `c`: its STREAM command, a READ bound to it, or a bench or
row-unit command that uses it. -/
def State.flightUses (s : State) (c : Nat) (f : Flight) : Bool :=
  match cOp f.cmd with
  | 0x30 => sCtx f.cmd == c && (s.stm c).runBy == some f.queue
  | 0x13 => cStream f.cmd == c && f.bound && ((s.stm c).bound.map Prod.fst) == some f.queue
  | 0x20 | 0x21 | 0x22 => uIn0 f.cmd == c || uIn1 f.cmd == c || uIn2 f.cmd == c || uOctx f.cmd == c
      || (cOp f.cmd == 0x22 && uRow f.cmd == 3 && uParam1 f.cmd % 65536 == c)
  | _ => false

/-- The commands that run on context `c` end without completing, with `code` (R337, R444). -/
def State.failCtxFlights (s : State) (c code : Nat) : State :=
  (s.flights.filter fun f => !f.done && s.flightUses c f).foldl
    (fun s f => s.failFlight f.queue code (· == f)) s

/-- Cells of a receive buffer returned to the partner (R284). -/
def State.freeCells (s : State) (p vc n : Nat) : State :=
  if n = 0 then s else
  let l := Tab.get s.fab.links p
  let l := { l with granted := l.granted.set vc ((l.granted.getD vc 0 + n) % 2 ^ 32) }
  { s with fab := { s.fab with links := Tab.put s.fab.links p l } }

/-- The connection halves of context `c` closed; the cells of satchels it had not taken are returned. -/
def State.closeConns (s : State) (c : Nat) : State :=
  let r := Tab.get s.fab.rconns c
  let s := s.freeCells r.port (epVc (s.stm c).src) (r.cells + (r.full.map Prod.fst).sum)
  { s with fab := { s.fab with
    conns := Tab.put s.fab.conns c default, rconns := Tab.put s.fab.rconns c default
    mcast := s.fab.mcast.filter (·.1 != c) } }

/-- The work of a context dropped: entries, reads at the ports, connections, satchels not consumed. -/
def State.dropCtxWork (s : State) (c : Nat) : State :=
  let s := s.dropJobs fun k => match k with
    | .tileRd r => (match r.use with | .stream c' _ => c' == c | _ => false)
    | _ => false
  let leave (r : Recovery) : Recovery := { r with waiters := r.waiters.filter fun u => match u with
    | .stream c' _ => c' != c
    | _ => true }
  let s := { s with err := { s.err with recov := s.err.recov.map leave } }
  (s.closeConns c).modStm c fun x => { x with ents := [], supply := [], inbox := [], failed := false }

/-- Context `c` enters HALTED with `code`: STM_ERR_ADDR (kind and entry concerned); its commands end (R209, R444). -/
def State.haltWith (s : State) (c code kind entry : Nat) : State :=
  let s := s.failCtxFlights c code
  let s := s.dropCtxWork c
  s.modStm c fun x => { x with
    st := 3, code := code, errKind := kind, errEntry := entry, cause := 0, runBy := none, bound := none, fed := false }

/-- Context `c` halts with an event of the stream engine. -/
def State.haltCtx (s : State) (c : Nat) (e : Ev) (kind entry : Nat) (form : Nat := 0) : State :=
  (s.logEv e (at_ 32 c + form)).haltWith c e.code kind entry

/-- The entry for which the next satchel of an unnumbered source comes (R209): the lowest that awaits one, else the next one
beyond the satchels held. -/
def State.nextSupplied (s : State) (c : Nat) : Nat :=
  let x := s.stm c
  match x.ents.find? (·.stage == 1) with
  | some e => e.i
  | none => x.issued + (if !x.fed ∧ epKind x.src = 7 then (Tab.get s.fab.rconns c).full.length else x.supply.length)

/-- Entry at which the FABRIC or ENGINE endpoint of context `c` fails: that of a failing source, else the next one to be
delivered. -/
def State.failingEntry (s : State) (c kind : Nat) : Nat :=
  let x := s.stm c
  if !x.fed ∧ epKind x.src = kind then s.nextSupplied c
  else match x.ents.find? (·.stage != 3) with
  | some e => e.i
  | none => x.issued

/-- Context `c` stopped without a completion (R210, a full load, an abort): IDLE. -/
def State.idleCtx (s : State) (c : Nat) : State :=
  (s.dropCtxWork c).modStm c fun x => { x with st := 0, cause := 0, runBy := none, bound := none, stop := none, fed := false }

/-! ## Couriers -/

def State.cr (s : State) (k : Nat) : Courier := Tab.get s.crs k
def State.setCr (s : State) (k : Nat) (x : Courier) : State := { s with crs := Tab.put s.crs k x }
def State.modCr (s : State) (k : Nat) (f : Courier → Courier) : State := s.setCr k (f (s.cr k))

/-- The COURIER command that runs courier `k` ends without completing (R444). -/
def State.failCrFlight (s : State) (k code : Nat) : State :=
  match (s.cr k).runBy with
  | none => s
  | some q => (s.failFlight q code fun f => cOp f.cmd == 0x31 && kCourier f.cmd == k).modCr k
      fun x => { x with runBy := none }

/-- Courier `k` abandoned and IDLE (R210). -/
def State.idleCr (s : State) (k : Nat) : State :=
  let s := if s.crsEng.busy = some k then { s with crsEng := { s.crsEng with busy := none, abortReq := false, phase := 0, data := [], fail := none } } else s
  let s := s.dropJobs fun j => match j with
    | .crsRd k' => k' == k | .crsWr k' => k' == k | _ => false
  s.modCr k fun x => { x with st := 0, runBy := none, pendingEv := 0 }

/-- The service level (R350, R351); a form without entropy or without an identity stays at L0 (R372, R432). -/
def State.serviceLevel (s : State) : Nat :=
  if !s.part.whole ∨ s.syl.isNone ∨ s.err.warmNeeded ∨ !s.sec.entropyOk ∨ s.sec.noIdentity then 0
  else if !(List.range (limBenches s.part.set)).any fun b => !s.benchFenced b then 1
  else if !(List.range (fabPorts s.part.set)).any fun p => !s.fabFenced p then 2
  else 3

end Sys2Proof.Machine
end

