-- ==== Sys2Proof/Machine/Links.lean ====
section
/-! DEFINITION. Links (R268 to R290, R295, R381 to R383, R425 to R428): frames and their protection, routing, the send
and receive sides, violations, keys. Ports 0 and 1 are the fabric ports, port 2 + l is federation link l. -/

namespace Sys2Proof.Machine

/-! ## The Weapa header (Table: Weapa header) -/

/-- The fields of a Weapa header; `ctrlR`, `formsR`, `keyR`, `rsv` are its reserved bits. -/
structure WHdr where
  ver : Nat
  typ : Nat
  vc : Nat
  mcast : Bool
  last : Bool
  ctrlR : Nat
  len : Nat
  dst : Nat
  src : Nat
  dform : Nat
  sform : Nat
  formsR : Nat
  key : Nat
  cls : Nat
  keyR : Nat
  ep : Nat
  msg : Nat
  lsn : Nat
  rsv : Nat
  deriving DecidableEq, Repr, Inhabited

def WHdr.bytes (h : WHdr) : Bytes :=
  leBytes 1 (16 * h.ver + h.typ) ++ leBytes 1 (h.vc + 4 * b2n h.mcast + 8 * b2n h.last + 16 * h.ctrlR)
    ++ leBytes 2 h.len ++ leBytes 2 h.dst ++ leBytes 2 h.src ++ leBytes 1 (h.dform + 8 * h.sform + 64 * h.formsR)
    ++ leBytes 1 (h.key + 2 * h.cls + 4 * h.keyR) ++ leBytes 2 h.ep ++ leBytes 4 h.msg ++ leBytes 6 h.lsn
    ++ leBytes 2 h.rsv

def WHdr.read (b : Bytes) : WHdr :=
  let c := leAt b 1 1
  let f := leAt b 8 1
  let k := leAt b 9 1
  { ver := leAt b 0 1 / 16, typ := leAt b 0 1 % 16, vc := c % 4, mcast := c / 4 % 2 == 1, last := c / 8 % 2 == 1
    ctrlR := c / 16, len := leAt b 2 2, dst := leAt b 4 2, src := leAt b 6 2, dform := f % 8, sform := f / 8 % 8
    formsR := f / 64, key := k % 2, cls := k / 2 % 2, keyR := k / 4, ep := leAt b 0xA 2, msg := leAt b 0xC 4
    lsn := leAt b 0x10 6, rsv := leAt b 0x16 2 }

/-- Frame types (Table: Frame types). -/
abbrev tData : Nat := 0
abbrev tLink : Nat := 1
abbrev tHello : Nat := 2
abbrev tMack : Nat := 3
abbrev tRepair : Nat := 4
abbrev tDetach : Nat := 5
abbrev tKey : Nat := 6
abbrev tFed : Nat := 7

/-- Port `p` is a federation link. -/
def isFed (p : Nat) : Bool := decide (2 ≤ p)

/-! ## Links and their registers -/

def State.flink (s : State) (p : Nat) : FLink := Tab.get s.fab.links p
def State.setFlink (s : State) (p : Nat) (l : FLink) : State :=
  { s with fab := { s.fab with links := Tab.put s.fab.links p l } }
def State.modFlink (s : State) (p : Nat) (f : FLink → FLink) : State := s.setFlink p (f (s.flink p))

/-- Link states (Table: Link states). -/
abbrev lsDown : Nat := 1
abbrev lsHello : Nat := 2
abbrev lsKeying : Nat := 3
abbrev lsUp : Nat := 4
abbrev lsDetained : Nat := 5

def State.isUp (s : State) (p : Nat) : Bool := (s.flink p).st == lsUp

/-- The form that federation link `l` reaches (Table: Federation link wiring), for links in use. -/
def State.fedPeer (s : State) (l : Nat) : Option Nat :=
  let m := match s.part.fed, l with
    | 1, 0 => 1 | 2, 0 => 1 | 2, 1 => 2 | 2, 3 => 3
    | 3, 0 => 1 | 3, 1 => 2 | 3, 2 => 4 | 3, 3 => 7
    | _, _ => 0
  if m = 0 then none else some (s.part.form ^^^ m)

/-- A port that exists and is not fenced. -/
def State.portLive (s : State) (p : Nat) : Bool :=
  if isFed p then !s.ucieFenced (p - 2) && (s.fedPeer (p - 2)).isSome else !s.fabFenced p

/-- The own package's roster entry (R44). -/
def State.ownEntry (s : State) : Option Nat :=
  (List.range s.packages).find? fun i => s.identityOf i == s.sec.pkg.toNat

/-- The own COORD; zero before a roster is in force. -/
def State.ownCoord (s : State) : Nat :=
  match s.ownEntry with
  | some i => s.coordOf i
  | none => 0

/-- The own node identifier. -/
def State.ownNode (s : State) : Nat :=
  match s.ownEntry with
  | some i => s.rosterAt i 0 2
  | none => 0

/-- The roster entry of a COORD, and of a node identifier. -/
def State.entryOfCoord (s : State) (c : Nat) : Option Nat := (List.range s.packages).find? fun i => s.coordOf i == c
def State.coordOfNode (s : State) (n : Nat) : Option Nat :=
  ((List.range s.packages).find? fun i => s.rosterAt i 0 2 == n).map s.coordOf

/-- Parts of a COORD. -/
def cRack (c : Nat) : Nat := c / 128
def cTray (c : Nat) : Nat := c / 8 % 16
def cSlotOf (c : Nat) : Nat := c % 8

/-- The level of a pair of packages (R273). -/
def coordLevel (a b : Nat) : Nat :=
  if a = b then 0 else if a / 8 = b / 8 then 1 else if cRack a = cRack b then 2 else 3

/-! ## The FABRIC section -/

def State.vcWeight (s : State) (v : Nat) : Nat :=
  s.sf tyFabric v 1 (match v with | 0 => 16 | 1 => 96 | 2 => 128 | _ => 16)
def State.violLimit (s : State) : Nat := s.sf tyFabric 4 2 16
def State.trayMode (s : State) : Nat := s.sf tyFabric 0x12 1
def State.mgroups (s : State) : Nat := s.sf tyFabric 0x10 2
def State.mgField (s : State) (g off n : Nat) : Nat := s.sf tyFabric (s.sf tyFabric 0x14 4 + 8 * g + off) n
/-- The member node identifiers of multicast group `g`, in list order; its fan-out. -/
def State.mgMembers (s : State) (g : Nat) : List Nat :=
  let n := s.mgField g 0 2
  let n := if n = 0 then 65536 else n
  (List.range n).map fun i => s.sf tyFabric (s.mgField g 4 4 + 2 * i) 2
def State.mgFanout (s : State) (g : Nat) : Nat := s.mgField g 2 1

/-- Receive cells per VC (Table: Receive cells per port). -/
def vcCells : List Nat := [64, 512, 1024, 448]

/-- Cells of a frame (R284). -/
def cellsOf (len : Nat) : Nat := (24 + len + 255) / 256

/-! ## Routing (R275, R278, R428) -/

/-- The port of R278 for a destination and endpoint. -/
def State.connPort (s : State) (dst ep : Nat) : Option Nat :=
  let p := (dst + ep) % 2
  if s.isUp p then some p else if s.isUp (1 - p) then some (1 - p) else none

/-- The federation link toward a form (R428). -/
def State.fedPort (s : State) (form : Nat) : Option Nat :=
  let up := (List.range 4).filter fun l => s.isUp (2 + l)
  match up.find? fun l => s.fedPeer l == some form with
  | some l => some (2 + l)
  | none =>
    let masks := (List.range 4).filterMap fun l => (s.fedPeer l).map fun f => f ^^^ s.part.form
    (up.find? fun l => match s.fedPeer l with
      | some n => masks.any fun m => n ^^^ m == form
      | none => false).map (2 + ·)

/-- The port by which a frame for (`dst`, `form`) on endpoint `ep` leaves this form; none when there is none UP. -/
def State.routePort (s : State) (dst form ep : Nat) : Option Nat :=
  if dst = s.ownCoord then s.fedPort form
  else if s.trayMode = 1 ∧ dst / 8 = s.ownCoord / 8 then
    let g := cSlotOf dst ^^^ cSlotOf s.ownCoord
    if g = s.part.form then (if s.isUp 0 then some 0 else none) else s.fedPort g
  else if s.trayMode = 1 ∧ s.part.form ≠ 0 then (if s.isUp 1 then some 1 else none)
  else s.connPort dst ep

/-! ## Building frames (R270, R286, Table: Federation framing) -/

/-- The octets before the header: DA, SA, ETHERTYPE; on a federation link the prefix. -/
def State.envelope (s : State) (p : Nat) (da : Bytes) : Bytes :=
  if isFed p then leBytes 2 0x5A46 ++ leBytes 2 0
  else slice da 0 6 ++ [0x02, 0x00] ++ beBytes 2 s.ownCoord ++ leBytes 1 s.part.form ++ leBytes 1 p ++ beBytes 2 0x88B5

/-- The end of a frame: PAD and FCS, or CRC-32C and zeros to the next 64-byte boundary. -/
def closeFrame (p : Nat) (b : Bytes) : Bytes :=
  if isFed p then padTo 64 (b ++ leBytes 4 (crc32c b).toNat)
  else
    let b := b ++ List.replicate (60 - b.length) 0
    b ++ leBytes 4 (crc32e b).toNat

/-- The GCM nonce of R286. -/
def linkNonce (cls key lsn : Nat) : Nat := at_ 56 cls + at_ 48 key + lsn

/-- A protected frame under the transmit key of its KEYID (R286). -/
def State.protect (s : State) (p : Nat) (h : WHdr) (pay : Bytes) : Bytes :=
  let l := s.flink p
  let key := ((if h.key = 0 then l.tx0 else l.tx1).getD 0)
  let aad := s.envelope p l.partnerSA ++ h.bytes
  let n := linkNonce h.cls h.key h.lsn
  closeFrame p (aad ++ gcmSeal key n aad pay)

/-- A HELLO or KEY frame sent at once (R271, R282). -/
def State.sendPlain (s : State) (p typ : Nat) (da pay : Bytes) : State :=
  let h : WHdr := { (default : WHdr) with ver := 1, typ := typ, len := pay.length }
  s.emit (.frame p (closeFrame p (s.envelope p da ++ h.bytes ++ pay)))

/-- A sequenced frame queued at a port. -/
def State.enqueue (s : State) (p : Nat) (h : WHdr) (pay : Bytes) : State :=
  s.modFlink p fun l => { l with queue := l.queue ++ [{ vc := h.vc, head := h.bytes, pay := pay }] }

/-- A frame of this form for (`dst`, `dform`), queued at the port that `routePort` gives; none without a route. -/
def State.sendTo (s : State) (typ vc dst dform ep : Nat) (pay : Bytes) (last : Bool := false) (mcast : Bool := false)
    (msg : Nat := 0) (port : Option Nat := none) : Option State :=
  let h : WHdr := { (default : WHdr) with
    ver := 1, typ := typ, vc := vc, mcast := mcast, last := last, len := pay.length, dst := dst, src := s.ownCoord
    dform := dform, sform := s.part.form, ep := ep, msg := msg }
  match (match port with | some p => some p | none => s.routePort dst dform ep) with
  | none => none
  | some p => some (s.enqueue p h pay)

/-- As `sendTo`; a frame without a route is lost. -/
def State.sendLossy (s : State) (typ vc dst dform ep : Nat) (pay : Bytes) : State :=
  (s.sendTo typ vc dst dform ep pay).getD s

/-! ## Leaving UP (R278, R280, R289, R290) -/

/-- Bits of FAB_ERR. -/
def fabErr (p cause peer grp : Nat) : Nat := at_ 40 (p % 2) + at_ 32 cause + at_ 16 peer + grp

/-- Contexts whose connection uses port `p`: sending, to multicast children, then receiving. -/
def State.ctxOnPort (s : State) (p : Nat) : List Nat :=
  nub (((s.fab.conns.filter fun c => decide (c.2.port = p)).map Prod.fst)
    ++ ((s.fab.mcast.filter fun c => c.2.children.any fun y => y.port == p && (y.attached || y.repair.isSome)).map Prod.fst)
    ++ ((s.fab.rconns.filter fun c => decide (c.2.port = p)).map Prod.fst))

/-- The running contexts on port `p` halt with STM_BUS_ERR (R278). -/
def State.haltPort (s : State) (p : Nat) : State :=
  (s.ctxOnPort p).foldl (fun s c =>
    if (s.stm c).running then s.haltCtx c evStmBusErr 7 (s.failingEntry c 7) else s) s

/-- The state of a port that has left UP: keys, ephemeral keys, queues, replay buffer and counters gone. -/
def FLink.cleared (l : FLink) (st : Nat) : FLink :=
  { (default : FLink) with
    st := st, aligned := l.aligned, window := l.window, partnerId := l.partnerId, retryWait := l.retryWait }

/-- Port `p` leaves for state `st`; leaving UP for DOWN logs FAB_LINK_DOWN with `cause` (R280). -/
def State.leaveUp (s : State) (p st cause : Nat) : State :=
  let up := s.isUp p
  let s := if up && st == lsDown && !isFed p then
      (s.logEv evLinkDown (fabErr p cause 0 0)).incF (aFabLinkerr + 8 * p) 0 16 1 else s
  let s := if up then s.haltPort p else s
  let s : State := { s with rcl := { s.rcl with wait := s.rcl.wait.filter (·.1 != p) } }
  s.modFlink p fun l => l.cleared st

/-! ## LINK frames and NAKs (R282) -/

/-- Four 4-byte words, VC0 first. -/
def word4 (l : List Nat) : Bytes := (List.range 4).flatMap fun v => leBytes 4 (l.getD v 0 % 2 ^ 32)

/-- A LINK frame sent now: ACK, the oldest NAK, the credit limits. -/
def State.sendLink (s : State) (p : Nat) : State :=
  let l := s.flink p
  let (nk, rest) := match l.naks with
    | [] => ((⟨0, 0, 0⟩ : Nak), [])
    | n :: r => (n, r)
  let pay := leBytes 6 l.rxLsn ++ leBytes 1 nk.kind ++ leBytes 1 nk.reason ++ leBytes 6 nk.lsn ++ leBytes 2 0
    ++ word4 l.granted ++ List.replicate 16 0
  let h : WHdr := { (default : WHdr) with
    ver := 1, typ := tLink, len := pay.length, dst := 0, src := s.ownCoord, sform := s.part.form, key := l.txIndex
    cls := 1, lsn := l.txLink }
  let s := s.emit (.frame p (s.protect p h pay))
  s.modFlink p fun l => { l with naks := rest, txLink := l.txLink + 1 }

/-- `n` LINK frames sent. -/
def State.sendLinks (s : State) : Nat → Nat → State
  | 0, _ => s
  | n + 1, p => State.sendLinks (s.sendLink p) n p

def State.addNak (s : State) (p kind reason lsn : Nat) : State :=
  s.modFlink p fun l => { l with naks := l.naks ++ [⟨kind, reason, lsn⟩] }

/-! ## Violations (R288, R289) -/

/-- One violation: logged, entered in the port's half of the violation log (log 87), answered by a NAK of `kind` (0: none), counted in the
window; the one beyond VIOL_LIMIT detains the port. -/
def State.violation (s : State) (p reason kind nakLsn : Nat) (h : WHdr) (lsnKnown : Bool) : State :=
  let q := p % 2
  let s := s.logEv evPartnerViolation (fabErr p 0 h.src 0)
  let nx := 128 * q + Tab.get s.fab.vlogNext q
  let a := word (at_ 32 (s.hall.toNat % 2 ^ 32) + at_ 24 reason + at_ 20 h.typ + at_ 18 h.vc + at_ 17 q
    + at_ 16 (b2n (kind != 0)) + h.src)
  let b := word (at_ 48 h.dst + (if lsnKnown then h.lsn else 0))
  let s := (s.setReg (aFabVlog + 16 * nx) a).setReg (aFabVlog + 16 * nx + 8) b
  let up := (Tab.get s.fab.vlogNext q + 1) % 128
  let s := ({ s with fab := { s.fab with vlogNext := Tab.put s.fab.vlogNext q up } } : State).incF aFabVlogPtr 32 32 1
  let s := s.setF aFabVlogPtr 0 8 (128 * q + up)
  let s := if isFed p then s else (s.incF (aFabViol + 8 * p) 32 32 1).incF (aFabViol + 8 * p) 16 16 1
  let s := if kind = 0 then s else s.addNak p kind reason nakLsn
  let s := s.modFlink p fun l => { l with window := l.window + 1 }
  if s.violLimit < (s.flink p).window then
    -- its answer is the last of the NAKs that wait, one to a LINK frame (R282)
    let s := if kind = 0 then s else s.sendLinks (s.flink p).naks.length p
    let s := s.logEv evLinkDetention (fabErr p 0 h.src 0)
    let w := (s.flink p).window
    ((s.haltPort p).modFlink p fun l => { (l.cleared lsDetained) with window := w })
  else s

/-! ## Receiving (R281, R287, Table: Receive checks) -/

/-- Offsets of the header in a frame of port `p`. -/
def hdrOff (p : Nat) : Nat := if isFed p then 4 else 14

/-- A frame type that carries no tag. -/
def plainType (t : Nat) : Bool := t == tHello || t == tKey

/-- The frame's length as LEN and TYPE give it. -/
def frameLen (p typ len : Nat) : Nat :=
  let body := hdrOff p + 24 + len + (if plainType typ then 0 else 16)
  if isFed p then roundUp (body + 4) 64 else max 64 (body + 4)

/-- The check value of step 1. -/
def frameSumOk (p : Nat) (f : Bytes) (h : WHdr) : Bool :=
  if isFed p then
    let body := hdrOff p + 24 + h.len + (if plainType h.typ then 0 else 16)
    decide (body + 4 ≤ f.length) && leAt f body 4 == (crc32c (f.take body)).toNat
  else decide (64 ≤ f.length) && leAt f (f.length - 4) 4 == (crc32e (f.take (f.length - 4))).toNat

/-- The type is reserved on this port. -/
def typeReserved (p typ : Nat) : Bool := typ == 0xF || (typ == tFed && !isFed p)

/-- The payload length that a type fixes. -/
def fixedLen (typ : Nat) : Option Nat :=
  match typ with
  | 1 => some 48 | 2 => some 32 | 3 | 4 | 5 => some 16 | 6 => some 0x1B8 | 7 => some 16 | _ => none

/-- The virtual channels of a type (Table: Frame types, Table: Collective frame types). -/
def vcAllowed (typ vc : Nat) : Bool :=
  match typ with
  | 0 => vc == 2 || vc == 3
  | 0xB | 0xC => vc == 1
  | _ => vc == 0

/-- What came of a received frame: discarded, or its header and plain payload. -/
inductive RxRes where
  | drop (s : State)
  | got (h : WHdr) (pay : Bytes) (s : State)

/-- The frame's destination is another form that this one passes frames on to: over the federation links (R275,
R428), or, with TRAY_MODE 1, from a tray link to another form of the package. -/
def State.relays (s : State) (p : Nat) (h : WHdr) : Bool :=
  (h.dst != s.ownCoord && isFed p) || (h.dst == s.ownCoord && h.dform != s.part.form && (isFed p || s.trayMode == 1))

/-- The frames of a satchel whose first one had header `h`, queued at port `p`. -/
def State.resend (s : State) (p : Nat) (h : WHdr) (sat : Bytes) : State :=
  let n := (sat.length + 4095) / 4096
  (List.range n).foldl (fun s k =>
    let part := (sat.drop (4096 * k)).take 4096
    s.enqueue p { h with lsn := 0, key := 0, len := part.length, last := decide (k + 1 = n), msg := h.msg / 16 * 16 + k } part) s

/-- A satchel in the form in which it leaves port `p`: coded by the port's compressor (R221, R222). -/
def State.satForPort (s : State) (p : Nat) (sat : Bytes) : Bytes × State :=
  let h := Hdr.read (satHdr sat)
  if isFed p || h.cmp then (sat, s)
  else
    let r := s.compress (p + 1) h.fmt (h.nocode || h.kind != 0) (satPay sat)
    if r.1.2.1 = 0 then (sat, r.2)
    else
      let h := { h with cmp := true, cmpLen := r.1.2.1, desc := r.1.2.2 }
      (satchel h.bytes (satScales sat) r.1.1, r.2)

/-- A satchel in the form in which it leaves the expander of port `p` toward a destination that takes coded tiles, or not (R223,
R232); none when a check failed. -/
def State.satExpanded (s : State) (p : Nat) (pass : Bool) (sat : Bytes) : Option Bytes × State :=
  let hb := satHdr sat
  let h := Hdr.read hb
  if !(h.cmp && hcrcOk hb) || isFed p then (some sat, s)
  else match s.expand (p + 1) hb (satPay sat) pass with
    | (.error _, s) => (none, s)
    | (.ok pay, s) =>
      (some (if pass then sat else satchel { h with cmp := false, cmpLen := 0, desc := 0 }.bytes (satScales sat) pay), s)

/-- The connection that a frame belongs to, as a number. -/
def WHdr.connKey (h : WHdr) : Nat := h.src + at_ 16 h.dst + at_ 32 h.ep + at_ 48 h.vc + at_ 50 h.dform + at_ 53 h.sform

/-- A frame from port `i` passed on, unchanged in content, toward its destination. A satchel that changes between a fabric port and
a federation link is gathered first: coded tiles are expanded before a federation link and coded at a fabric port, as R222 and
R223 say; one that fails its checks is discarded (log 88). -/
def State.relay (s : State) (i : Nat) (h : WHdr) (pay : Bytes) : State :=
  match s.routePort h.dst h.dform h.ep with
  | none => s
  | some p =>
    if isFed i = isFed p ∨ h.typ ≠ tData ∨ h.ep = 0xE400 then s.enqueue p { h with lsn := 0, key := 0 } pay
    else
      let sat := (if h.msg % 16 = 0 then [] else Tab.get s.fab.relays h.connKey) ++ pay
      if !h.last then { s with fab := { s.fab with relays := Tab.put s.fab.relays h.connKey sat } }
      else
        let s : State := { s with fab := { s.fab with relays := Tab.put s.fab.relays h.connKey [] } }
        match (if isFed i then (let r := s.satForPort p sat; (some r.1, r.2)) else s.satExpanded i false sat) with
        | (none, s) => s
        | (some sat, s) => s.resend p h sat

/-- Link-level checks of a HELLO or KEY frame's header (R271). -/
def plainHdrOk (h : WHdr) : Bool :=
  h.lsn == 0 && h.key == 0 && h.cls == 0 && h.keyR == 0 && h.msg == 0 && h.dst == 0 && h.src == 0 && h.ep == 0
    && h.ctrlR == 0 && h.formsR == 0 && h.rsv == 0 && h.vc == 0

/-- Steps 1 to 5 of Table: Receive checks, up to what the type of the frame needs beyond them. -/
def State.receive (s : State) (p : Nat) (f : Bytes) (bad : Bool) : RxRes :=
  let l := s.flink p
  let h := WHdr.read (slice f (hdrOff p) 24)
  if l.st ≤ lsDown ∨ l.st = lsDetained ∨ !s.portLive p then .drop s
  else if bad || !frameSumOk p f h then
    let s := if isFed p then s else s.incF (aFabLinkerr + 8 * p) 32 32 1
    .drop (if h.cls = 0 ∧ !plainType h.typ ∧ l.st = lsUp then s.addNak p 1 0 l.rxLsn else s)
  else
    let pay := slice f (hdrOff p + 24) h.len
    let k := if l.st = lsUp then 3 else 0
    if (!isFed p && beAt16 f != 0x88B5) || h.ver ≠ 1 then .drop (s.violation p 1 k l.rxLsn h false)
    else if typeReserved p h.typ then .drop (s.violation p 2 k l.rxLsn h false)
    else if 4096 < h.len ∨ frameLen p h.typ h.len ≠ f.length ∨ (fixedLen h.typ).any (· != h.len) then .drop (s.violation p 3 k l.rxLsn h false)
    else if plainType h.typ then
      if plainHdrOk h then .got h pay s else .drop (s.violation p 4 0 0 h false)
    else if l.st ≠ lsUp then .drop (s.violation p 6 k l.rxLsn h false)
    else match (if h.key = 0 then l.rx0 else l.rx1) with
    | none => .drop (s.violation p 6 3 l.rxLsn h false)
    | some key =>
      let aad := f.take (hdrOff p + 24)
      let n := linkNonce h.cls h.key h.lsn
      match gcmOpen key n aad pay (slice f (hdrOff p + 24 + h.len) 16) with
      | none => .drop (s.violation p 5 3 l.rxLsn h false)
      | some plain =>
      if h.cls = 1 then
        if h.lsn < l.rxLink then .drop s
        else if h.typ ≠ tLink ∨ h.ctrlR ≠ 0 ∨ h.formsR ≠ 0 ∨ h.keyR ≠ 0 ∨ h.rsv ≠ 0 ∨ h.vc ≠ 0 then
          .drop (s.violation p 4 2 h.lsn h true)
        else .got h plain (s.modFlink p fun l => { l with rxLink := h.lsn + 1 })
      else if h.lsn < l.rxLsn then .drop s
      else if l.rxLsn < h.lsn then
        .drop (if l.gapNak then s else (s.addNak p 1 0 l.rxLsn).modFlink p fun l => { l with gapNak := true })
      else if h.key ≠ l.rxIndex ∧ l.rxSwitch ≠ 0 ∧ l.rxSwitch ≤ h.lsn then
        -- an old-key frame at or past the first new-key frame (R383)
        .drop (s.violation p 6 3 l.rxLsn h false)
      else
        let c := cellsOf h.len
        let used := l.rxCells.getD h.vc 0
        let within := decide (c ≤ (l.granted.getD h.vc 0 + 2 ^ 32 - used) % 2 ^ 32)
        let s := s.modFlink p fun l => { l with
          rxLsn := l.rxLsn + 1, gapNak := false
          rxCells := l.rxCells.set h.vc ((used + c) % 2 ^ 32)
          rxSwitch := if h.key ≠ l.rxIndex then h.lsn else l.rxSwitch
          rxIndex := h.key }
        let fail (r : Nat) : RxRes := .drop ((s.freeCells p h.vc c).violation p r 2 h.lsn h true)
        if h.ctrlR ≠ 0 ∨ h.formsR ≠ 0 ∨ h.keyR ≠ 0 ∨ h.rsv ≠ 0 then fail 4
        else if !vcAllowed h.typ h.vc then fail 9
        else if !within then fail 0xC
        else if s.relays p h then .drop ((s.freeCells p h.vc c).relay p h plain)
        else if h.dst ≠ s.ownCoord ∨ h.dform ≠ s.part.form then fail 7
        else if (s.entryOfCoord h.src).isNone then fail 0xB
        else .got h plain s
where
  /-- ETHERTYPE of a fabric frame. -/
  beAt16 (f : Bytes) : Nat := beNat (slice f 12 2)

/-! ## Sending (R283 to R285, R295) -/

/-- Room in the replay buffer for `n` more bytes (R283). -/
def replayRoom (p : Nat) (l : FLink) (n : Nat) : Bool :=
  decide ((l.replay.map fun x => x.bytes.length).sum + n ≤ (if isFed p then 262144 else 524288))

/-- The first frame queued for VC `v`. -/
def FLink.headOf (l : FLink) (v : Nat) : Option QFrame := l.queue.find? (·.vc == v)

/-- Credit for a frame of VC `v` (R284). -/
def FLink.creditOk (l : FLink) (v len : Nat) : Bool :=
  decide (cellsOf len ≤ (l.limit.getD v 0 + 2 ^ 32 - l.sent.getD v 0) % 2 ^ 32)

/-- The round robin of R285 from the VC in turn: the frame that goes out next, with DEFICIT, turn and visit. -/
def drr (s : State) (p : Nat) : Nat → FLink → Option (QFrame × FLink)
  | 0, _ => none
  | n + 1, l =>
    let v := l.turn
    let next (l : FLink) : FLink := { l with turn := (v + 1) % 4, paid := false }
    match l.headOf v with
    | none => drr s p n (next { l with deficit := l.deficit.set v 0 })
    | some f =>
      let l := if l.paid then l else
        { l with paid := true, deficit := l.deficit.set v (l.deficit.getD v 0 + 64 * s.vcWeight v) }
      let len := 24 + f.pay.length
      if l.creditOk v f.pay.length && decide (len ≤ l.deficit.getD v 0) then
        let l := { l with deficit := l.deficit.set v (l.deficit.getD v 0 - len), queue := l.queue.erase f }
        some (f, if (l.headOf v).isSome then l else next { l with deficit := l.deficit.set v 0 })
      else drr s p n (next l)

/-- What fault injection does to a transmission (R295): 0 nothing, 1 drop, 2 corrupt a bit, 3 hold for reordering. -/
def State.inject (s : State) (p lsn tries len : Nat) : Nat × Nat :=
  if isFed p || !s.faultInject || !bitAt (s.reg aFabFiCtrl) p then (0, 0)
  else
    let x := philox (s.reg aFabFiSeed).toNat (lsn % 2 ^ 32) (lsn / 2 ^ 32 % 2 ^ 16 + at_ 16 p) tries 0
    if x.1 < s.regF aFabFiRate 0 32 then (1, 0)
    else if x.2.1 < s.regF aFabFiRate 32 32 then (2, x.2.2.2 % (8 * (len + 16)))
    else if x.2.2.1 < s.regF (aFabFiRate + 8) 0 32 then (3, 0)
    else (0, 0)
where
  /-- The published generator, as in chapter 05. -/
  philox (seed c0 c1 c2 c3 : Nat) : Nat × Nat × Nat × Nat :=
    Sys2Proof.Machine.philox seed c0 c1 c2 c3

/-- A bit of a fabric frame inverted, counted from the first payload byte; the FCS is formed after it. -/
def corruptFrame (f : Bytes) (bit : Nat) : Bytes :=
  let b := f.take (f.length - 4)
  let i := 38 + bit / 8
  let b := b.set i (b.getD i 0 ^^^ BitVec.ofNat 8 (2 ^ (bit % 8)))
  b ++ leBytes 4 (crc32e b).toNat

/-- The bytes of a transmission put on the port, after fault injection (R295); a frame held for reordering goes out
after the next one, and waits with it when that one is held too. -/
def State.transmit (s : State) (p lsn tries len : Nat) (f : Bytes) : State :=
  let inj := s.inject p lsn tries len
  let held := (s.flink p).held
  match inj.1 with
  | 3 => s.modFlink p fun l => { l with held := f :: held }
  | k =>
    let s := if k = 1 then s else s.emit (.frame p (if k = 2 then corruptFrame f inj.2 else f))
    if held.isEmpty then s
    else (held.foldl (fun s g => s.emit (.frame p g)) s).modFlink p fun l => { l with held := [] }

/-- One sequenced frame sent (FRAME_SEND). -/
def State.frameSend (s : State) (p : Nat) : State :=
  let l := s.flink p
  if l.st ≠ lsUp then s else
  match drr s p 4096 l with
  | none => s.setFlink p { l with deficit := l.deficit.zipIdx.map fun d => if (l.headOf d.2).isSome then d.1 else 0 }
  | some (f, l') =>
    let h := { WHdr.read f.head with lsn := l.txLsn, key := l.txIndex }
    let bytes := s.protect p h f.pay
    if !replayRoom p l bytes.length then s else
    let s := s.setFlink p { l' with
      txLsn := l.txLsn + 1
      sent := l'.sent.set f.vc ((l'.sent.getD f.vc 0 + cellsOf f.pay.length) % 2 ^ 32)
      replay := l'.replay ++ [{ lsn := l.txLsn, bytes := bytes, tries := 1, pay := f.pay }] }
    s.transmit p l.txLsn 0 f.pay.length bytes

/-- A held frame with no following one is sent after 1 µs (R295). -/
def State.reorderTimeout (s : State) (p : Nat) : State :=
  match (s.flink p).held with
  | [] => s
  | held => (held.foldl (fun s f => s.emit (.frame p f)) s).modFlink p fun l => { l with held := [] }

/-! ## LINK frames received (R283, R284, R383) -/

/-- Every unacknowledged frame from `lsn` sent again, its stored bytes unchanged; eight replays of one LSN in a row
take the port DOWN (R280). The flag says so. -/
def State.replayFrom (s : State) (p lsn : Nat) : State × Bool :=
  let l := s.flink p
  let again := l.replay.filter fun x => decide (lsn ≤ x.lsn)
  let s := again.foldl (fun s x => s.transmit p x.lsn x.tries (leAt x.bytes (hdrOff p + 2) 2) x.bytes) s
  let s := if isFed p then s else s.incF (aFabLinkerr + 8 * p) 16 16 again.length
  let s := s.modFlink p fun l => { l with
    replay := l.replay.map fun x => if lsn ≤ x.lsn then { x with tries := x.tries + 1 } else x
    replays := l.replays + 1 }
  (s, (s.flink p).replay.any fun x => decide (8 < x.tries))

/-- A LINK frame's payload applied; the flag says that the replay limit took the port DOWN. -/
def State.applyLink (s : State) (p : Nat) (pay : Bytes) : State × Bool :=
  let ack := leAt pay 0 6
  let kind := leAt pay 6 1
  let s := s.modFlink p fun l => { l with
    replay := l.replay.filter fun x => decide (ack ≤ x.lsn)
    replays := if (l.replay.any fun x => decide (x.lsn < ack)) then 0 else l.replays
    limit := (List.range 4).map fun v => leAt pay (0x10 + 4 * v) 4
    -- the old key goes once an ACK covers the first frame under the new one (R383)
    tx0 := if l.txIndex = 1 ∧ l.txSwitch < ack ∧ !l.renewing then none else l.tx0
    tx1 := if l.txIndex = 0 ∧ l.txSwitch < ack ∧ !l.renewing then none else l.tx1 }
  let s := if kind = 2 ∨ kind = 3 then
      let s := s.logEv evNakReceived (fabErr p 0 0 0)
      if isFed p then s else s.incF (aFabViol + 8 * p) 0 16 1
    else s
  if kind = 1 ∨ kind = 3 then s.replayFrom p (leAt pay 8 6) else (s, false)

/-! ## HELLO (R280) -/

/-- Own HELLO payload. -/
def State.helloPay (s : State) (p : Nat) (seen : Bool) : Bytes :=
  leBytes 1 0 ++ leBytes 1 (b2n seen) ++ leBytes 2 s.ownCoord ++ leBytes 2 s.ownNode ++ leBytes 1 (s.part.form + 8 * p)
    ++ leBytes 1 0 ++ word4 vcCells ++ ((List.range 4).map fun v => BitVec.ofNat 8 (s.vcWeight v)) ++ leBytes 4 0

/-- The HELLO timer. -/
def State.helloTimer (s : State) (p : Nat) : State :=
  let l := s.flink p
  if l.st = lsHello then s.sendPlain p tHello (List.replicate 6 0) (s.helloPay p l.helloIn.isSome) else s

/-- A HELLO received. -/
def State.helloIn (s : State) (p : Nat) (sa pay : Bytes) : State :=
  let l := s.flink p
  if l.st = lsHello then
    let s := s.modFlink p fun l => { l with
      helloIn := some pay, partnerSA := sa
      initCredit := (List.range 4).map fun v => leAt pay (8 + 4 * v) 4 }
    if leAt pay 1 1 % 2 = 1 then
      -- the partner has seen ours; ours tells that we have seen its own
      let s := s.sendPlain p tHello (List.replicate 6 0) (s.helloPay p true)
      s.modFlink p fun l => { l with st := lsKeying, index := 0 }
    else s
  else if l.st = lsUp then
    s.modFlink p fun l => { l with helloIn := l.helloIn.map fun o => o.take 0x18 ++ slice pay 0x18 4 ++ o.drop 0x1C }
  else s

/-! ## Keys (R381 to R383) -/

/-- The own OFFER under key index `idx`, with a fresh nonce and ephemeral key. -/
def State.makeOffer (s : State) (p idx : Nat) : State :=
  let (nonce, s) := s.drawBytes 48
  let (e, s) := s.drawBytes 48
  let eph := leNat e % (p384Order - 1) + 1
  let body := leBytes 1 1 ++ leBytes 1 0 ++ leBytes 1 idx ++ leBytes 1 0 ++ leBytes 2 s.ownCoord
    ++ leBytes 1 (s.part.form + 8 * p) ++ leBytes 1 0 ++ nonce ++ keyBytes (ecPublic eph) ++ keyBytes s.sec.idKey
    ++ List.replicate 96 0
  let f := s.free
  let off := body ++ keyBytes (ecdsaSign s.sec.idPriv (sha384 body) (signSecret f))
  { s with free := f + 1 }.modFlink p fun l => { l with offer := some off, eph := eph, index := idx }

/-- Whether the side of OFFER `a` is lower than that of `b`, by (ROLE, COORD, form, port). -/
def offerLower (a b : Bytes) : Bool :=
  let k (o : Bytes) : Nat := leAt o 1 1 * 2 ^ 32 + leAt o 4 2 * 2 ^ 16 + (leAt o 6 1 % 8) * 256 + leAt o 6 1 / 8
  decide (k a < k b)

/-- The keys of a pair of OFFERs: own transmit, own receive, confirmation; own CONFIRM and the partner's. -/
def linkKeys (eph : Nat) (own other : Bytes) : Nat × Nat × Bytes :=
  let z := sharedSecret eph (slice other 0x38 96)
  let low := offerLower own other
  let (a, b) := if low then (own, other) else (other, own)
  let k := kdf56c z (ascii "WEAPA" ++ slice own 2 1 ++ slice a 8 48 ++ slice b 8 48) 96
  let k0 := leNat (slice k 0 32)
  let k1 := leNat (slice k 32 32)
  (if low then k0 else k1, if low then k1 else k0, slice k 64 32)

/-- A CONFIRM's value: HMAC under the confirmation key over both OFFERs, the lower side's first, and a ROLE byte. -/
def confirmVal (conf own other : Bytes) (role : Nat) : Bytes :=
  let (a, b) := if offerLower own other then (own, other) else (other, own)
  digestBytes (hmac384 conf (a ++ b ++ leBytes 1 role))

/-- SEC_ROSTER_FAIL: the port logs it, counts it in SEC_LINKS, enters DOWN and tries again after a second; steps 1
and 2 record the COORD. -/
def State.rosterFail (s : State) (p detail coord : Nat) : State :=
  let s := s.logEv evRosterFail (at_ 32 coord + at_ 16 (if isFed p then p - 2 else p) + detail)
  let s := s.incF aSecLinks 16 16 1
  let s := if detail = 1 ∨ detail = 2 then
      { s with sec := { s.sec with rosterFailed := coord :: s.sec.rosterFailed.filter (· != coord) } } else s
  (s.leaveUp p lsDown 0).modFlink p fun l => { l with retryWait := true }

/-- Table: Partner checks, steps 1 to 4, on an OFFER; the failing DETAIL. -/
def State.offerFails (s : State) (p : Nat) (o : Bytes) : Option Nat :=
  let role := leAt o 1 1
  let coord := leAt o 4 2
  let id := slice o 0x98 96
  let tray := !isFed p && s.trayMode == 1 && p == 0 && s.part.form != 0
  if !ecdsaVerify id (sha384 (slice o 0 0x158)) (slice o 0x158 96) then some 3
  else if tray && coord != s.ownCoord / 8 * 8 + (cSlotOf s.ownCoord ^^^ s.part.form) then some 1
  else if role = 0 then
    if isFed p then (if coord ≠ s.ownCoord then some 1 else none)
    else if coord = s.ownCoord ∨ (s.entryOfCoord coord).isNone then some 1
    else match s.entryOfCoord coord with
      | some i => if s.identityOf i ≠ (sha384 id).toNat then some 2 else none
      | none => some 1
  else
    let own := match s.syl with | some im => im.ownerKey | none => []
    if !ecdsaVerify own (sha384 id) (slice o 0xF8 96) then some 4 else none

/-- Own CONFIRM sent, once both OFFERs are known (R381). -/
def State.sendConfirm (s : State) (p : Nat) : State :=
  let l := s.flink p
  match l.offer, l.offerIn with
  | some own, some other =>
    if l.confirmSent then s else
    let (tx, rx, conf) := linkKeys l.eph own other
    let pay := leBytes 1 2 ++ leBytes 1 0 ++ leBytes 1 l.index ++ leBytes 1 0 ++ leBytes 2 s.ownCoord
      ++ leBytes 1 (s.part.form + 8 * p) ++ leBytes 1 0 ++ confirmVal conf own other 0 ++ List.replicate 0x180 0
    (s.sendPlain p tKey l.partnerSA (slice pay 0 0x1B8)).modFlink p fun l => { l with
      confirmSent := true, pendTx := tx, pendRx := rx }
  | _, _ => s

/-- The new keys installed; in KEYING the port enters UP with counters at 0 and credits from INIT_CREDIT (R280). -/
def State.installKeys (s : State) (p : Nat) : State :=
  let l := s.flink p
  let cred := if isFed p then vcCells else l.initCredit
  let s := s.modFlink p fun l => { l with
    tx0 := if l.index = 0 then some l.pendTx else l.tx0
    tx1 := if l.index = 1 then some l.pendTx else l.tx1
    rx0 := if l.index = 0 then some l.pendRx else l.rx0
    rx1 := if l.index = 1 then some l.pendRx else l.rx1
    txIndex := l.index, txSwitch := l.txLsn, eph := 0, offer := none, offerIn := none, confirmSent := false
    renewing := false, rxSwitch := 0
    partnerId := sha384 (slice (l.offerIn.getD []) 0x98 96) }
  let ok := s.sec.rosterFailed.filter fun c => c != leAt (l.offerIn.getD []) 4 2
  let s := { s with sec := { s.sec with rosterFailed := ok } }
  if l.st = lsKeying then
    s.modFlink p fun l => { l with
      st := lsUp, txLsn := 0, txLink := 0, rxLsn := 0, rxLink := 0, txSwitch := 0, rxSwitch := 0, rxIndex := l.index
      limit := cred, sent := [0, 0, 0, 0], granted := vcCells, rxCells := [0, 0, 0, 0], deficit := [0, 0, 0, 0]
      replay := [], naks := [], replays := 0 }
  else s

/-- A KEY frame received: an OFFER or a CONFIRM. -/
def State.keyIn (s : State) (p : Nat) (pay : Bytes) : State :=
  let l := s.flink p
  if l.st ≠ lsKeying ∧ l.st ≠ lsUp then s
  else if leAt pay 0 1 = 1 then
    let idx := leAt pay 2 1 % 2
    if l.st = lsUp ∧ idx = l.txIndex then s else
    match s.offerFails p pay with
    | some d => s.rosterFail p d (leAt pay 4 2)
    | none =>
      let s := if l.offer.isSome ∧ l.index = idx then s else s.makeOffer p idx
      let s := s.modFlink p fun l => { l with offerIn := some pay, renewing := l.st == lsUp }
      -- the own OFFER goes out before the CONFIRM that covers it
      let s := s.sendPlain p tKey l.partnerSA ((s.flink p).offer.getD [])
      s.sendConfirm p
  else if leAt pay 0 1 = 2 then
    match l.offer, l.offerIn with
    | some own, some other =>
      let (_, _, conf) := linkKeys l.eph own other
      if slice pay 8 48 ≠ confirmVal conf own other (leAt other 1 1) then s.rosterFail p 5 (leAt pay 4 2)
      else s.installKeys p
    | _, _ => s
  else s

/-- Every 10 µs an OFFER goes out until the partner's has come (R381). -/
def State.offerTimer (s : State) (p : Nat) : State :=
  let l := s.flink p
  if (l.st = lsKeying ∨ (l.st = lsUp ∧ l.renewing)) ∧ l.offerIn.isNone then
    let s := if l.offer.isSome then s else s.makeOffer p l.index
    s.sendPlain p tKey l.partnerSA ((s.flink p).offer.getD [])
  else s

/-- A counter reaches 2^47: an OFFER for the other key index (R383). -/
def State.keyRenewal (s : State) (p : Nat) : State :=
  let l := s.flink p
  if l.st = lsUp ∧ !l.renewing ∧ (2 ^ 47 ≤ l.txLsn ∨ 2 ^ 47 ≤ l.rxLsn ∨ 2 ^ 47 ≤ l.txLink ∨ 2 ^ 47 ≤ l.rxLink) then
    let s := (s.makeOffer p (1 - l.txIndex)).modFlink p fun l => { l with renewing := true, offerIn := none }
    s.sendPlain p tKey l.partnerSA ((s.flink p).offer.getD [])
  else s

/-- A second after a failed check the port keys again (R382). -/
def State.rosterRetry (s : State) (p : Nat) : State :=
  let l := s.flink p
  if l.retryWait ∧ l.st ≤ lsDown ∧ s.portLive p then
    s.modFlink p fun l => { l with retryWait := false, st := if isFed p then lsKeying else lsHello }
  else s

/-! ## States of a fabric port -/

/-- HOLD_DOWN of FAB_CTRL for port `p`. -/
def State.heldDown (s : State) (p : Nat) : Bool := !isFed p && bitAt (s.reg aFabCtrl) p

/-- PCS alignment reported: DOWN to HELLO (R280). -/
def State.pcsAlign (s : State) (p : Nat) : State :=
  if isFed p then s else
  let s := s.modFlink p fun l => { l with aligned := true }
  if s.portLive p ∧ (s.flink p).st = lsDown ∧ !s.heldDown p ∧ !(s.flink p).retryWait then
    s.modFlink p fun l => { l with st := lsHello }
  else s

/-- A federation link trained: KEYING (R381). -/
def State.linkTrained (s : State) (p : Nat) : State :=
  if s.portLive p ∧ (s.flink p).st ≤ lsDown then
    s.modFlink p fun l => { l with aligned := true, st := lsKeying, index := 0 }
  else s

/-- RELEASE of a detained port (R290). -/
def State.fabRelease (s : State) (p : Nat) : State :=
  if (s.flink p).st = lsDetained then
    let s := if isFed p then s else s.setF (aFabViol + 8 * p) 16 16 0
    s.modFlink p fun l => { l with st := lsDown, window := 0 }
  else s

/-- A window boundary (R289). -/
def State.violWindow (s : State) (p : Nat) : State :=
  let s := if isFed p then s else s.setF (aFabViol + 8 * p) 16 16 0
  s.modFlink p fun l => { l with window := 0 }

end Sys2Proof.Machine
end

