-- ==== Sys2Proof/Machine/Lockers.lean ====
section
/-! DEFINITION. The locker directory (R79 to R93): entries, slots and extents, state transitions, releases, refusals;
and the view registers (LKR_SEL_WRITE, LKR_STATE_READ). -/

namespace Sys2Proof.Machine

/-! ## States (Table: Locker states) -/

abbrev lkFree : Nat := 0
abbrev lkOpen : Nat := 1
abbrev lkPlaced : Nat := 2
abbrev lkMoving : Nat := 3
abbrev lkDropped : Nat := 4
abbrev lkRecalled : Nat := 5
abbrev lkConsumed : Nat := 6
abbrev lkDetained : Nat := 7

def State.lkr (s : State) (l : Nat) : Locker := Tab.get s.lkrs l
def State.setLkr (s : State) (l : Nat) (x : Locker) : State := { s with lkrs := Tab.put s.lkrs l x }
def State.modLkr (s : State) (l : Nat) (f : Locker → Locker) : State := s.setLkr l (f (s.lkr l))
def State.modEnt (s : State) (l : Nat) (f : LkrEnt → LkrEnt) : State := s.modLkr l fun x => { x with e := f x.e }

/-- Bits [47:0] of LKR_ERR. -/
def lkrErr (l tier pos : Nat) : Nat := at_ 24 l + at_ 22 tier + pos % 65536

/-- Lockers not FREE. -/
def State.lkrInUse (s : State) : Nat := s.lkrs.countP fun x => x.2.e.st != 0

/-- LKR_COUNT.HIGH_WATER follows the lockers in use. -/
def State.noteHigh (s : State) : State :=
  if s.regF aLkrCount 32 32 < s.lkrInUse then s.setF aLkrCount 32 32 s.lkrInUse else s

/-! ## Slots (R89 to R91, R340) -/

/-- The extents in use in a tier's locker region, as first slot and length: lockers, and staging runs in T1. -/
def State.extents (s : State) (tier : Nat) : List (Nat × Nat) :=
  let one (len : Nat) (o : Option (Nat × Nat)) : List (Nat × Nat) :=
    match o with
    | some (t, f) => if t = tier then [(f, len)] else []
    | none => []
  s.lkrs.flatMap (fun x => one x.2.e.len x.2.slotA ++ one x.2.e.len x.2.slotB)
    ++ (if tier = 1 then s.mkr.runs.flatMap fun r => one r.tiles r.place else [])

/-- The free extents within [lo, hi), in address order. -/
def gaps (lo hi : Nat) (used : List (Nat × Nat)) : List (Nat × Nat) :=
  let used := sortBy Prod.fst (used.filter fun u => decide (0 < u.2))
  let r := used.foldl (fun (acc : List (Nat × Nat) × Nat) u =>
    let a := max acc.2 lo
    let b := min u.1 hi
    ((if a < b then acc.1 ++ [(a, b - a)] else acc.1), max acc.2 (u.1 + u.2))) ([], lo)
  if r.2 < hi then r.1 ++ [(r.2, hi - r.2)] else r.1

/-- The lowest-addressed free extent of at least `n` slots within [lo, hi) (R89). -/
def lowestFit (lo hi n : Nat) (used : List (Nat × Nat)) : Option Nat :=
  ((gaps lo hi used).find? fun g => decide (n ≤ g.2)).map Prod.fst

def largestGap (lo hi : Nat) (used : List (Nat × Nat)) : Nat :=
  (gaps lo hi used).foldl (fun m g => max m g.2) 0

/-- Slots of a tier's locker region; zero for an absent tier. -/
def State.tierSlots (s : State) (tier : Nat) : Nat :=
  if s.tierPresent tier then (s.lkrRegion tier).2.1 else 0

/-- Locker `l` is a carry locker of the term in force (R340); a locker of an exam is an ordinary one (R341). -/
def State.isCarry (s : State) (l : Nat) : Bool :=
  decide (s.tut.carryBase ≤ l ∧ l < s.tut.carryBase + s.tut.carryCount)
    && !(s.tut.term == 3 && ((s.lkr l).byExam || (s.lkr l).e.st == lkFree))

/-- The slots of a tier that locker `l` may use: ordinary lockers below the limit of T0 or T1, carry lockers from
the limit upwards (R340); a limit of 0 stands for the whole region (R341). -/
def State.slotRange (s : State) (tier l : Nat) : Nat × Nat :=
  let n := s.tierSlots tier
  let lim := if tier = 0 then s.tut.limT0 else if tier = 1 then s.tut.limT1 else n
  let lim := if lim = 0 then n else lim
  if 2 ≤ tier then (0, n)
  else if s.isCarry l then (min lim n, n) else (0, min lim n)

/-- The largest free extent that locker `l` could take (R91, R98): R341 has the space condition fail where the locker's own area
has no room, so it is read within that area, and LKR_FREE_Tn reports the whole region (DEDUCED, log 84). -/
def State.largestFree (s : State) (tier l : Nat) : Nat :=
  let r := s.slotRange tier l
  largestGap r.1 r.2 (s.extents tier)

/-- The slot that an allocation of `n` for locker `l` gets (R89). -/
def State.fit (s : State) (tier l n : Nat) : Option Nat :=
  let r := s.slotRange tier l
  lowestFit r.1 r.2 n (s.extents tier)

/-- One epoch taken (R79). -/
def State.takeEpoch (s : State) : Nat × State :=
  ((s.reg aLkrEpoch).toNat, s.setReg aLkrEpoch (s.reg aLkrEpoch + 1))

/-- The state that matters for writing: that left, while the locker is DETAINED. -/
def LkrEnt.live (e : LkrEnt) : Nat := if e.st = lkDetained then e.prior else e.st

/-! ## Work under way for a locker -/

/-- A tile of locker `l`. -/
def RTile.ofLocker (l : Nat) : RTile → Bool
  | .locker l' _ => l' == l
  | _ => false

/-- A memory job that reads from or writes to locker `l`. -/
def jobOf (l : Nat) (k : JobKind) : Bool :=
  match k with
  | .tileRd r => r.tile.ofLocker l
  | .tileWr (.locker l' _) _ _ _ _ _ => l' == l
  | _ => false

/-- Reads being served, moves in flight, or a source attempt of a recovery in progress (R84). -/
def State.lkrBusy (s : State) (l : Nat) : Bool :=
  s.mem.jobs.any (fun j => jobOf l j.kind)
    || s.err.recov.any fun r => r.rd.tile.ofLocker l && r.source != 0 && r.found.isNone && !r.writing

/-! ## Backlogs (R101) -/

/-- Bytes leave the T1 or the far backlog. -/
def State.shareLeaves (s : State) (far : Bool) (n : Nat) : State :=
  let a := if far then aPlnBacklogFar else aPlnBacklogT1
  s.setReg a (word ((s.reg a).toNat - n))

/-- The share of position `p` of a run (R101). -/
def Locker.shareOf (x : Locker) (p : Nat) : Nat :=
  x.share + (if p + 1 = x.e.len then x.shareLast else 0)

/-- The shares of all positions of locker `l` whose payload write was not issued leave at once (R101). -/
def State.dropShares (s : State) (l : Nat) : State :=
  let x := s.lkr l
  if x.share = 0 then s else
  let gone := (List.range x.e.len).filter fun p => (Tab.get x.wpos p).st == 0
  let n := (gone.map x.shareOf).sum
  (s.shareLeaves x.shareFar n).modLkr l fun x => { x with share := 0, shareLast := 0 }

/-! ## Release and failure of waiting reads (R84, R87) -/

/-- Contexts that wait under R87 for positions of locker `l` halt with STM_ILLEGAL. -/
def State.failReads (s : State) (l : Nat) : State :=
  let cs := s.stms.filter fun c => c.2.running && epKind c.2.src == 1 && epLocker c.2.src == l
    && c.2.ents.any (·.stage == 0)
  cs.foldl (fun s c => s.haltCtx c.1 evStmIllegal 1 (((c.2.ents.filter (·.stage == 0)).map SEnt.i).headD 0)) s

/-- A slot release lets staging and held OPENs try again; those rows are commands of their own. -/
def State.freeSlots (s : State) (l : Nat) : State := s.modLkr l fun x => { x with slotA := none, slotB := none, mover := none }

/-- Locker `l` becomes FREE and its slots are released (Table: Locker transitions); its waiting reads fail. -/
def State.freeLkr (s : State) (l : Nat) : State :=
  let s := (s.dropShares l).freeSlots l
  let s := s.modLkr l fun x => { x with
    e := { x.e with st := 0 }, wpos := [], moveNext := 0, opened := false, byExam := false, drop := false
    heldRecall := none, rel := false, share := 0, shareLast := 0 }
  s.failReads l

/-- What waits for the end of reads and moves in flight is done once there are none: a RELEASE (R84), the slots
of a CONSUMED locker. -/
def State.settleLkr (s : State) (l : Nat) : State :=
  let x := s.lkr l
  if s.lkrBusy l then s
  else if x.rel then s.freeLkr l
  else if x.e.st = lkConsumed then s.freeSlots l
  else s

/-- The recoveries of tiles of locker `l` end without effect after the source attempt in progress (R84); those with no
attempt in progress end at once. -/
def State.stopRecov (s : State) (l : Nat) : State :=
  let keep := s.err.recov.filter fun r => !r.rd.tile.ofLocker l || (r.source != 0 && r.found.isNone) || r.writing
  let f (r : Recovery) : Recovery := if r.rd.tile.ofLocker l && !r.writing then { r with stopped := true } else r
  { s with err := { s.err with recov := keep.map f } }

/-- The payload writes of locker `l` that a port has taken end on their own, for their backlog share (R101); its other
writes are dropped, and with `reads` its reads too. -/
def State.detachJobs (s : State) (l : Nat) (reads : Bool) : State :=
  let drops (k : JobKind) : Bool := jobOf l k && (reads || (match k with
    | .tileRd _ => false
    | _ => true))
  let issued (j : Job) : Bool := match j.kind with
    | .tileWr (.locker l' _) _ false _ share _ => l' == l && share != 0 && s.mem.out.any (fun o => o.req.job == j.id)
    | _ => false
  let still (j : Job) : Nat := s.mem.out.countP fun o => o.req.job == j.id
  let free (j : Job) : Job := match j.kind with
    | .tileWr _ loc hdr head share far => { j with kind := .tileWr .plain loc hdr head share far, todo := still j }
    | _ => j
  let gone := (s.mem.jobs.filter issued).map Job.id
  let s := { s with mem := { s.mem with
    jobs := s.mem.jobs.map fun j => if issued j then free j else j
    wait := s.mem.wait.filter fun r => !gone.contains r.job } }
  -- shares of payload writes that no port has taken leave at once
  let lost := s.mem.jobs.filter fun j => drops j.kind
  let s := lost.foldl (fun s j => match j.kind with
    | .tileWr _ _ false _ share far => if share = 0 then s else s.shareLeaves far share
    | _ => s) s
  s.dropJobs drops

/-- RELEASE: at once, or when reads being served and moves in flight have ended (R84). A recovery of the locker ends without
effect after its source attempt; the writes of a producer are abandoned, and the shares of positions not issued leave at once
(R101). -/
def State.releaseLkr (s : State) (l : Nat) : State :=
  let s := s.stopRecov l
  let e := (s.lkr l).e
  let produced := e.live == lkOpen || (e.live == lkMoving && e.src == 4)
  let s := if produced then (s.detachJobs l false).dropShares l else s
  (s.modLkr l fun x => { x with rel := true }).settleLkr l

/-- A common abort or full load frees a locker at once. -/
def State.abortLkr (s : State) (l : Nat) : State :=
  let s := s.detachJobs l true
  let s := { s with err := { s.err with recov := s.err.recov.filter fun r => !r.rd.tile.ofLocker l } }
  s.freeLkr l

/-! ## Refusals (R83) -/

/-- A locker command refused: the code logged, the queue stopped at the command. -/
def State.refuseLkr (s : State) (q : Nat) (e : Ev) (l tier : Nat) : State :=
  let s := s.logEv e (lkrErr l tier 0)
  let s := if e = evLkrStale then s.incF aLkrStats 16 16 1
           else if e = evLkrNoSpace then s.incF aLkrStats 0 16 1 else s
  s.stopQueue q e.code

/-- The GEN that a command names: with CURGEN the locker's own (R255). -/
def State.cmdGen (s : State) (c : Cmd) : Nat :=
  if cCurgen c then (s.lkr (cLocker c)).e.gen else cGen c

/-- The checks of R83 that every locker command passes first: the locker exists, GEN agrees. -/
def State.lkrCheck (s : State) (c : Cmd) : Option Ev :=
  if s.objLockers ≤ cLocker c then some evLkrIllegal
  else if s.cmdGen c ≠ (s.lkr (cLocker c)).e.gen then some evLkrStale
  else none

/-! ## Transitions -/

/-- TICKET is signalled by READS_LEFT as a locker enters RECALLED (R85). -/
def State.enterRecalled (s : State) (l : Nat) : State :=
  let s := s.modEnt l fun e => { e with st := lkRecalled }
  s.signalAll [((s.lkr l).e.ticket, (s.lkr l).e.reads)]

/-- The tutor takes up the recompute entry of locker `l` (R139, R336): a run of its own, under the
locker's number; its P is the latest period started, or that of the READ that asks (R336). -/
def State.beginRecompute (s : State) (l : Nat) : State :=
  let r : EntRun := { kind := 2, run := l, entry := (s.lkr l).rr.entry, period := s.tut.started, copied := 0, doneCount := 0
                      ended := false, deemed := [], signalled := [], finished := [] }
  { s with tut := { s.tut with runs := (s.tut.runs.filter fun x => !(x.kind == 2 && x.run == l)) ++ [r] } }

/-- A move or recall to `tier` at slot `f` starts: MOVING, one epoch taken (Table: Locker transitions). -/
def State.startMove (s : State) (l tier f : Nat) (isRecall recompute : Bool) : State :=
  let (ep, s) := s.takeEpoch
  let s := if recompute then s.beginRecompute l else s
  s.modLkr l fun x => { x with
    slotB := some (tier, f), wpos := [], moveNext := 0
    e := { x.e with st := lkMoving, src := if recompute then 4 else x.e.tier, dest := tier, isRecall := isRecall,
                    dslot := f, done := 0, depoch := ep } }

/-- A RECALL to `tier` acts on a PLACED or DROPPED locker (Table: Locker transitions); none when no extent of the
recall tier is large enough. -/
def State.applyRecall (s : State) (l tier : Nat) : Option State :=
  let e := (s.lkr l).e
  if e.st = lkPlaced ∧ e.tier < 2 then some (s.enterRecalled l)
  else match s.fit tier l e.len with
    | none => none
    | some f => some (s.startMove l tier f true (e.st == lkDropped))

/-- The implied recall of a consuming READ that finds the run in T2 or T3, or DROPPED (R84), logged and counted (R93). Answers
none when T1 has no room. -/
def State.impliedRecall (s : State) (l : Nat) : Option State :=
  let e := (s.lkr l).e
  match s.fit 1 l e.len with
  | none => none
  | some f =>
    let s := (s.logEv evLkrLate (lkrErr l e.tier 0)).incF aLkrStats 32 16 1
    some (s.startMove l 1 f true (e.st == lkDropped))

/-- Consuming READs of locker `l` that have been accepted and have not completed. -/
def State.consumingReads (s : State) (l : Nat) : List Flight :=
  s.flights.filter fun f => !f.done && !f.dropped && cOp f.cmd == 0x13 && cConsume f.cmd && cLocker f.cmd == l

/-- A locker that has come to PLACED in T2 or T3 while a consuming READ of it runs is recalled for it: such READs are served from
T0 and T1 only (R84, R87). Without room the READs fail with LKR_NO_SPACE (log 84). -/
def State.impliedDue (s : State) (l : Nat) : State :=
  let e := (s.lkr l).e
  let reads := s.consumingReads l
  if e.st ≠ lkPlaced ∨ e.tier < 2 ∨ (s.lkr l).rel ∨ reads.isEmpty then s
  else match s.impliedRecall l with
    | some s => s
    | none =>
      let s := (s.logEv evLkrNoSpace (lkrErr l 1 0)).incF aLkrStats 0 16 1
      reads.foldl (fun s f => s.failFlight f.queue evLkrNoSpace.code (· == f)) s

/-- The last position of an OPEN, move, recall or recompute is committed. A DETAINED locker stays so: its run completes
when the recovery has taken it back to the state it left (Table: Locker transitions). -/
def State.runComplete (s : State) (l : Nat) : State :=
  let x := s.lkr l
  if x.e.st = lkOpen then
    (s.modLkr l fun x => { x with
      e := { x.e with st := if x.drop then lkDropped else lkPlaced }, wpos := [], share := 0, shareLast := 0 }).impliedDue l
  else if x.e.st = lkMoving then
    let s := s.modLkr l fun x => { x with
      slotA := x.slotB, slotB := none, mover := none, wpos := []
      e := { x.e with st := lkPlaced, tier := x.e.dest, first := x.e.dslot, epoch := x.e.depoch } }
    let s := if x.e.src = 4 then s.incF aBncRecomp 32 32 1 else s
    if x.e.isRecall then s.enterRecalled l
    else match x.heldRecall with
      | none => s.impliedDue l
      | some tier =>
        -- the RECALL held behind the move (R86)
        let s := s.modLkr l fun x => { x with heldRecall := none }
        match s.applyRecall l tier with
        | some s => s
        | none => (s.logEv evLkrNoSpace (lkrErr l tier 0)).incF aLkrStats 0 16 1
  else s

/-- Where position `p` of a locker's run lies in its tier, and at its destination. -/
def State.runLoc (s : State) (l p : Nat) : Loc :=
  let e := (s.lkr l).e
  slotLoc e.tier (s.lkrRegion e.tier) (e.first + p) e.epoch
def State.destLoc (s : State) (l p : Nat) : Loc :=
  let e := (s.lkr l).e
  slotLoc e.dest (s.lkrRegion e.dest) (e.dslot + p) e.depoch

/-- Position `p` is committed in the locker's current OPEN, move, recall or recompute. -/
def State.posDone (s : State) (l p : Nat) : Bool := (Tab.get (s.lkr l).wpos p).st == 5

/-- Whether a position may be written by a stream: OPEN or a recompute in progress, inside the run, no companion, not
written yet (R197). -/
def State.posWritable (s : State) (l p : Nat) : Bool :=
  let x := s.lkr l
  decide (p < x.e.len) && !isComp x.e.fmt x.e.len p && (Tab.get x.wpos p).st == 0
    && !x.rel && (x.e.live == lkOpen || (x.e.live == lkMoving && x.e.src == 4))

/-! ## Consuming reads (R84, R87) -/

/-- A consuming READ of locker `l` completes. -/
def State.consumeRead (s : State) (l : Nat) : State :=
  let e := (s.lkr l).e
  if e.st = lkPlaced ∧ 2 ≤ e.tier then s
  else if e.st = lkPlaced ∨ e.st = lkRecalled ∨ e.st = lkMoving ∨ e.st = lkDetained then
    let s := s.modEnt l fun e => { e with reads := e.reads - 1 }
    if e.reads ≤ 1 then
      let s := s.modEnt l fun e => { e with st := lkConsumed, reads := 0 }
      let s := s.stopRecov l
      (s.settleLkr l).failReads l
    else s
  else s

/-! ## Host view (R92): LKR_SEL_WRITE, LKR_STATE_READ -/

/-- LKR_STATE of an entry. -/
def LkrEnt.stateWord (e : LkrEnt) : Word :=
  word (at_ 48 e.gen + at_ 44 e.reads + at_ 40 e.fmt + at_ 37 e.prov + at_ 35 e.cls + at_ 34 (b2n e.isRecall)
    + at_ 28 e.prior + at_ 25 e.src + at_ 23 e.dest + at_ 21 e.tier + e.st)

/-- The four view registers cleared. -/
def State.clearLkrView (s : State) : State :=
  [aLkrRun, aLkrDest, aLkrNeed, aLkrEntryEpoch].foldl (fun s a => s.setReg a 0) s

/-- A write of LKR_SEL (LKR_SEL_WRITE). -/
def State.writeLkrSel (s : State) (v : Word) : State :=
  (s.setReg aLkrSel (word (fld v 0 18))).clearLkrView

/-- A read of LKR_STATE: the entry of the selected locker latched into the view (LKR_STATE_READ). -/
def State.readLkrState (s : State) : Word × State :=
  let l := s.regF aLkrSel 0 18
  let e := (s.lkr l).e
  let s := s.setReg aLkrRun (word (at_ 32 e.first + e.len))
  let s := s.setReg aLkrDest (word (at_ 32 e.dslot + e.done))
  let s := s.setReg aLkrNeed (word (at_ 32 e.need + at_ 16 e.ticket))
  let s := s.setReg aLkrEntryEpoch (word e.epoch)
  (e.stateWord, s.setReg aLkrState e.stateWord)

/-- LKR_FREE_Tn (R91). -/
def State.lkrFreeReg (s : State) (tier : Nat) : Word :=
  let n := s.tierSlots tier
  let g := gaps 0 n (s.extents tier)
  word (at_ 32 (largestGap 0 n (s.extents tier)) + (g.map Prod.snd).sum)

def execLkrSelWrite (v : Word) (s : State) : Res :=
  .next (s.hostWrites ((s.writeLkrSel v).wake))

def execLkrStateRead (s : State) : Res :=
  let r := s.readLkrState
  .next (s.hostReads (r.2.emit (.hostResp r.1 false)))

end Sys2Proof.Machine
end

