-- ==== Sys2Proof/Machine/Results.lean ====
section
/-! DEFINITION. NOP and POST, the result slots (R261 to R263), the host's writes to bells, assemblies and queues (R244,
R249, R257, R259, R413), the deadlock detector (R264, R265). -/

namespace Sys2Proof.Machine

/-- A host write that names an array entry beyond the set's limit: discarded, HOST_HOLE (R436). -/
def State.hostHole (s : State) : State := s.logEv evHostHole 0

/-- An access or doorbell for a form the package lacks: discarded, HOST_UNMAPPED (R412). -/
def State.hostUnmapped (s : State) : State := s.logEv evHostUnmapped 0

/-! ## NOP and POST -/

/-- NOP: accepted; it completes, since its waits have passed (R254). -/
def State.doNop (s : State) (q : Nat) : State :=
  match s.issuedTo q 0x00 with
  | none => s
  | some _ => s.acceptCmd q true

/-- A value posted to a slot (R261). -/
def State.post (s : State) (slot : Nat) (v : Word) (q : Nat) : State :=
  let r := Tab.get s.slots slot
  let s := { s with slots := Tab.put s.slots slot { r with
      value := v, valid := true, overw := r.overw || r.valid, seq := r.seq + 1 } }
  if r.valid then s.logEv evResOverwrite (synErr slot q) else s

/-- POST: the slot takes VALUE; the command is then complete. -/
def State.doPost (s : State) (q : Nat) : State :=
  match s.issuedTo q 0x01 with
  | none => s
  | some (c, _) => (s.post (cSlot c) (word (cValue c)) q).acceptCmd q true

def execNop (q : BitVec 13) (s : State) : Res := .next (s.doNop q.toNat)
def execPost (q : BitVec 13) (s : State) : Res := .next (s.doPost q.toNat)

/-! ## Reads of result slots (R262) -/

/-- RES_STATUS of a slot. -/
def ResSlot.status (r : ResSlot) : Word :=
  word (at_ 63 (b2n r.valid) + at_ 62 (b2n r.overw) + r.seq.toNat)

/-- A read of RES_STATUS copies the slot. -/
def State.readResStatus (s : State) (slot : Nat) : Word × State :=
  let r := Tab.get s.slots slot
  (r.status, { s with slots := Tab.put s.slots slot { r with copy := r.value } })

/-- A read of RES_TAKE consumes the value, or gives the empty marker. -/
def State.readResTake (s : State) (slot : Nat) : Word × State :=
  let r := Tab.get s.slots slot
  if r.valid then
    (r.value, { s with slots := Tab.put s.slots slot { r with
      valid := false, overw := false, takeSeq := r.seq, takeEmpty := false } })
  else
    (0xE000000000000000#64, { s with slots := Tab.put s.slots slot { r with takeSeq := r.seq, takeEmpty := true } })

/-- RES_TAKE_SEQ of a slot. -/
def ResSlot.takeWord (r : ResSlot) : Word := word (at_ 63 (b2n r.takeEmpty) + r.takeSeq.toNat)

/-- A host read answered with the value of the pair. -/
def State.answer (r : Word × State) : State := r.2.emit (.hostResp r.1 false)

/-- Slots beyond the set's limit are holes: they read zero (R436). -/
def State.resRead (s : State) (slot : Nat) (f : Word × State) : State :=
  if slot < limSlots s.part.set then State.answer f else s.emit (.hostResp 0 false)

def execResStatusRead (slot : BitVec 12) (s : State) : Res :=
  .next (s.hostReads (s.resRead slot.toNat (s.readResStatus slot.toNat)))

def execResTake (slot : BitVec 12) (s : State) : Res :=
  .next (s.hostReads (s.resRead slot.toNat (s.readResTake slot.toNat)))

/-! ## Bells, assemblies and queues written by the host -/

/-- A host signal of `v` to bell `n` (R244). -/
def State.hostSignal (s : State) (n v : Nat) : State :=
  if n < limBells s.part.set then s.signalAll [(n, v)] else s.hostHole

/-- A host write of ASM_MASK (R249). -/
def State.hostMask (s : State) (a : Nat) (m : Word) : State :=
  if a < limAsms s.part.set then s.writeMask a m else s.hostHole

/-- A host write of QUE_CTRL (R259); the action bits are those of the row. -/
def State.hostQueCtrl (s : State) (q v : Nat) : State :=
  if q < limQueues s.part.set then s.writeQueCtrl q v else s.hostHole

def execQuePush (q : Word) (s : State) : Res :=
  .next (s.hostWrites (s.push (fld q 0 13)))
def execSignal (n : BitVec 16) (v : Word) (s : State) : Res :=
  .next (s.hostWrites (s.hostSignal n.toNat (fld v 32 32)))
def execAsmMaskWrite (a : BitVec 10) (m : Word) (s : State) : Res :=
  .next (s.hostWrites (s.hostMask a.toNat m))
def execResume (q : BitVec 13) (s : State) : Res :=
  .next (s.hostWrites (s.hostQueCtrl q.toNat 1))
def execHalt (q : BitVec 13) (s : State) : Res :=
  .next (s.hostWrites (s.hostQueCtrl q.toNat 4))
def execRun (q : BitVec 13) (s : State) : Res :=
  .next (s.hostWrites (s.hostQueCtrl q.toNat 8))

/-! ## The deadlock detector -/

/-- The internal queue of the closing sequence is BUSY: the Marker sweeps or writes records, or a roll call or the
arrival is in progress (R264). -/
def State.closingBusy (s : State) : Bool :=
  match s.tut.closing with
  | .gate | .gating | .sweep | .digest | .digesting | .searching | .close | .closeWait | .arrive => true
  | _ => false

/-- The internal queue waits on the clip bell or on another wait of the sequence. -/
def State.closingWaits (s : State) : Bool :=
  match s.tut.closing with
  | .idle | .done => false
  | _ => !s.closingBusy

/-- A directory move is under way; a recompute (SRC 4) is no mover's work. -/
def State.moverRuns (s : State) : Bool := s.lkrs.any fun x => x.2.e.st == lkMoving && x.2.e.src != 4

/-- The form is stalled (R264). -/
def State.isStalled (s : State) : Bool :=
  let qs := s.ques.map Prod.fst
  (s.closingWaits || qs.any fun q => s.queState q == 2 || s.queState q == 4)
    && !s.closingBusy && qs.all (fun q => s.queState q != 1 && s.queState q != 3)
    && s.flights.isEmpty
    && s.stms.all (fun c => c.2.st != 1) && s.crs.all (fun c => c.2.st != 1) && !s.moverRuns
    && s.mem.out.isEmpty && s.mem.wait.isEmpty
    && s.fab.links.all (fun l => l.2.queue.isEmpty && l.2.replay.isEmpty)
    && s.rcl.colls.all (fun c => !c.issued)

/-- The value that a snapshot record gives for a wait: its bell, or COUNT[s] of its assembly. -/
def State.waitValue (s : State) (kind obj val : Nat) : Nat :=
  match kind with
  | 0 => 0
  | 3 => (s.asm (obj / 64)).count (val % 2)
  | _ => s.bell obj

/-- The snapshot record of a queue (Table: Snapshot record). -/
def State.snapRecord (s : State) (q : Nat) : Bytes :=
  let c := if s.queEmpty q then 0 else s.headCmd q
  let k := cmdAt c 2 1
  leBytes 2 q ++ leBytes 1 (s.queState q) ++ leBytes 1 k ++ leBytes 4 (cmdAt c 4 4) ++ leBytes 8 (cmdAt c 0xC 8)
    ++ leBytes 4 (s.waitValue (k % 4) (cmdAt c 4 2) (cmdAt c 0xC 4))
    ++ leBytes 4 (s.waitValue (k / 4 % 4) (cmdAt c 6 2) (cmdAt c 0x10 4))
    ++ leBytes 4 (s.que q).head ++ leBytes 4 0

/-- The detector's report (R264, R265): DEADLOCK logged, the snapshot written, SYN_DL set. -/
def State.reportDeadlock (s : State) : State :=
  let blocked := (s.ques.map Prod.fst).filter fun q => let st := s.queState q; st == 2 || st == 4 || st == 5
  let recs := blocked.take s.snapMax
  let bytes := recs.flatMap s.snapRecord
  let s := s.logEv evDeadlock (synErr 0 (blocked.headD 0))
  let s := if bytes.isEmpty then s else s.t0Write (s.t0Scratch + s.snapOffset) bytes
  { s with sync := { s.sync with
      dlLogged := true, dlRecords := recs.length, dlBlocked := blocked.length, dlFirst := blocked.headD 0 } }

/-- The detector's row: the form has been stalled for DEADLOCK_US. -/
def State.deadlock (s : State) : State :=
  if s.isStalled && s.deadlockUs != 0 && !s.sync.dlLogged then s.reportDeadlock else s

def execDeadlock (s : State) : Res := .next s.deadlock

end Sys2Proof.Machine
end

