-- ==== Sys2Proof/Machine/Sections2.lean ====
section
/-! DEFINITION. More fields of the sections in force: NUMERICS, MARKER, COLLECTIVES, the group table of ROSTER; and the
syllabus-reserved areas of the SCRATCH region (R41). -/

namespace Sys2Proof.Machine

/-! ## NUMERICS -/

def State.nmSeed (s : State) : Nat := s.sf tyNumerics 0 8
/-- SPILL_LEN (Table: NUMERICS section, benches and row units). -/
def State.nmSpill (s : State) : Nat := 2 ^ s.sf tyNumerics 8 1 12
def State.nmTables (s : State) : Nat := s.sf tyNumerics 9 1
def State.nmExpTable (s : State) : Nat := s.sf tyNumerics 0xA 1 0xFF
/-- Byte offset of function table `t` in the section: 1,024 bytes each. -/
def State.nmTable (s : State) (t : Nat) : Bytes := slice (s.sect tyNumerics) (s.sf tyNumerics 0x10 4 + 1024 * t) 1024
def State.nmPartOff (s : State) : Nat := s.sf tyNumerics 0x14 4
def State.nmPartSize (s : State) : Nat := s.sf tyNumerics 0x18 4
def State.nmHeadroom (s : State) : Nat := s.sf tyNumerics 0x40 1 1
def State.nmWgrad (s : State) : Nat := s.sf tyNumerics 0x41 1
def State.nmHists (s : State) : Nat := s.sf tyNumerics 0x44 4
/-- A field of the descriptor of history `h`. -/
def State.nmDesc (s : State) (h off n : Nat) : Nat := s.sf tyNumerics (s.sf tyNumerics 0x48 4 + 16 * h + off) n
def State.nmBase (s : State) (h : Nat) : Nat := s.nmDesc h 0 1 % 16
def State.nmSentinel (s : State) (h : Nat) : Bool := s.nmDesc h 1 1 % 2 == 1

/-! ## MARKER (Table: MARKER section, Table: Piece descriptor) -/

def State.mkField (s : State) (off n : Nat) (d : Nat := 0) : Nat := s.sf tyMarker off n d
def State.mkPieces (s : State) : Nat := s.sf tyMarker 0x10 4
def State.mkLayers (s : State) : Nat := s.sf tyMarker 0x3C 2
def State.mkBucketTiles (s : State) : Nat := s.sf tyMarker 0x3E 2
def State.mkClipEn (s : State) : Bool := s.sf tyMarker 0x44 1 == 1
def State.mkClipBell (s : State) : Nat := s.sf tyMarker 0x46 2
/-- A field of the descriptor of piece `p`. -/
def State.pc (s : State) (p off n : Nat) : Nat := s.sf tyMarker (s.sf tyMarker 0x14 4 + 64 * p + off) n
def State.pcRows (s : State) (p : Nat) : Nat := s.pc p 0 4
def State.pcCols (s : State) (p : Nat) : Nat := s.pc p 4 4
def State.pcOpt (s : State) (p : Nat) : Nat := s.pc p 0x10 1
def State.pcFmt (s : State) (p : Nat) : Nat := s.pc p 0x11 1
def State.pcFlags (s : State) (p : Nat) : Nat := s.pc p 0x12 1
def State.pcMask (s : State) (p : Nat) : Bool := s.pcFlags p % 2 == 1
def State.pcRescale (s : State) (p : Nat) : Bool := s.pcFlags p / 2 % 2 == 1
def State.pcDigest (s : State) (p : Nat) : Bool := s.pcFlags p / 4 % 2 == 1
/-- Mask entries of a piece: one for each 256 × 256 block. -/
def State.pcMaskBlocks (s : State) (p : Nat) : Nat := ((s.pcRows p + 255) / 256) * ((s.pcCols p + 255) / 256)

/-! ## COLLECTIVES, groups (R298, R299, R324) -/

def State.clTimeout (s : State) : Nat := s.sf tyCollectives 0 4 50000
def State.clHold (s : State) : Nat := s.sf tyCollectives 4 2 2000
def State.clHomework (s : State) : Nat := s.sf tyCollectives 6 1 1
def State.clDivAuto (s : State) : Nat := s.sf tyCollectives 7 1 1
def State.clMerge (s : State) : Nat := s.sf tyCollectives 8 1 3

/-! ## SCRATCH areas (R41) -/

/-- The syllabus-reserved areas of SCRATCH, as offset and size. -/
def State.reservedScratch (s : State) : List (Nat × Nat) :=
  [(0, s.nmHists * 128), (s.nmPartOff, s.nmPartSize), (s.snapOffset, s.snapMax * 32)]
    ++ ((List.range s.mkPieces).filter s.pcMask).map fun p => (s.pc p 0x24 4, 64 * s.pcMaskBlocks p)

/-- The run [off, off + n) of SCRATCH meets a reserved area. -/
def State.hitsReserved (s : State) (off n : Nat) : Bool :=
  s.reservedScratch.any fun a => decide (0 < n ∧ 0 < a.2 ∧ off < a.1 + a.2 ∧ a.1 < off + n)

end Sys2Proof.Machine
end

