-- ==== Sys2Proof/Machine/Planner.lean ====
section
/-! DEFINITION. The planner (R94 to R115): inputs, the live evaluation, pinned placements, fallbacks, held OPENs, prefetch;
and the locker commands OPEN, MOVE, RECALL, READ, RELEASE, with HELD_OPEN_RETRY and PLN_LAST_IN_READ. -/

namespace Sys2Proof.Machine

/-! ## Inputs (R98 to R102) -/

/-- Unsigned arithmetic that saturates at 2^64 − 1 (R105). -/
def sat64 (n : Nat) : Nat := min n (2 ^ 64 - 1)
def mulS (a b : Nat) : Nat := sat64 (a * b)
def addS (a b : Nat) : Nat := sat64 (a + b)

/-- WR_T1, RD_T1 and WR_FAR = RD_FAR in MB/s (Table: Planner rates). -/
def State.rateT1 (s : State) (share : Nat) : Nat :=
  let u := b2n (!s.memFenced 0) + b2n (!s.memFenced 1)
  u * (if s.part.set = 0 then 64000 else 512000) * share / 100
def State.wrT1 (s : State) : Nat := s.rateT1 s.shareWrite
def State.rdT1 (s : State) : Nat := s.rateT1 s.shareRead
def State.rateFar (s : State) : Nat :=
  if s.farFenced then 0 else (if farLanes s.part.set = 16 then 121000 else 60500) * s.plFarShare / 100

/-- `t(x, r)` in nanoseconds, saturating (R102); without bound for rate zero. -/
def tNs (x r : Nat) : Nat :=
  if r = 0 then 2 ^ 64 - 1 else sat64 ((mulS x 1000 + r - 1) / r)

/-- F of R102, in MHz. -/
def nominalF (set : Nat) : Nat := fsetOf set

/-- NOW in microseconds (R99). -/
def State.plnNow (s : State) : Nat :=
  match s.pln.clock with
  | none => 0
  | some c => min (2 ^ 32 - 1) (c / 100)

def State.backlogT1 (s : State) : Nat := fld (s.reg aPlnBacklogT1) 0 48
def State.backlogFar (s : State) : Nat := fld (s.reg aPlnBacklogFar) 0 48

/-- The period that issued the command at issue of queue `q`: that of its entry; 0 for a host queue (R99). -/
def State.periodOf (s : State) (tag : Option EntTag) : Nat :=
  match tag with
  | none => 0
  | some t => ((s.tut.runs.find? fun r => r.kind == t.kind && r.run == t.run && r.entry == t.entry).map
      EntRun.period).getD 0

/-- The reuse time W (R99). -/
def State.reuse (s : State) (host : Bool) (p need : Nat) : Nat :=
  if s.tut.term ≠ 1 ∨ host then 0
  else if p < need ∧ need + 1 ≤ s.plPeriods ∧ s.plnNow < s.plPstart need then s.plPstart need - s.plnNow else 0

/-- What one evaluation knows of an OPEN. -/
structure PlnIn where
  l : Nat
  n : Nat
  fmt : Nat
  cls : Nat
  prov : Nat
  need : Nat
  rcyc : Nat
  p : Nat
  host : Bool
  w : Nat
  deriving DecidableEq, Repr

def State.plnIn (s : State) (c : Cmd) (tag : Option EntTag) : PlnIn :=
  let p := s.periodOf tag
  { l := cLocker c, n := cLength c, fmt := cFormat c, cls := cClass c, prov := cProv c, need := cNeed c
    rcyc := cRcyc c, p := p, host := tag.isNone, w := s.reuse tag.isNone p (cNeed c) }

/-- B and Bc (R102). -/
def PlnIn.bytes (i : PlnIn) : Nat := i.n * 32768
def State.codedBytes (s : State) (i : PlnIn) : Nat := (i.bytes * s.plCr i.fmt + 15) / 16

/-- The OFFLOAD target (R103). -/
def State.offTarget (s : State) (i : PlnIn) : Nat :=
  match s.plOffTier with
  | 0 => 2
  | 1 => 3
  | _ => if s.tierPresent 2 && decide (i.n ≤ s.largestFree 2 i.l) then 2 else 3

/-- Round trips by placement code (Table: Round trips). -/
def State.roundTrip (s : State) (i : PlnIn) (opt : Nat) : Nat :=
  match opt with
  | 1 => 0
  | 2 => addS (tNs (addS s.backlogT1 i.bytes) s.wrT1) (tNs i.bytes s.rdT1)
  | 3 => sat64 ((mulS (mulS i.n i.rcyc) 1000 + nominalF s.part.set - 1) / nominalF s.part.set)
  | _ => addS (tNs (addS s.backlogFar (s.codedBytes i)) s.rateFar) (tNs (s.codedBytes i) s.rateFar)

/-- Space and the other conditions of a placement besides timing (Table: Feasibility conditions); `early`: the
early-layer rule counts. -/
def State.placeOk (s : State) (i : PlnIn) (early : Bool) (opt : Nat) : Bool :=
  match opt with
  | 1 => decide (i.n + s.plT0Reserve ≤ s.largestFree 0 i.l)
  | 2 => decide (i.n ≤ s.largestFree 1 i.l) && !early
  | 3 => i.prov == 1 && decide (0 < i.rcyc)
  | _ => s.tierPresent (s.offTarget i) && !s.farFenced && decide (i.n ≤ s.largestFree (s.offTarget i) i.l)

/-- The early-layer rule removes STACK (R107). -/
def State.earlyRule (s : State) (i : PlnIn) : Bool :=
  s.tut.term == 1 && !i.host && decide (1 ≤ i.p ∧ i.p ≤ s.plEarlyLast) && i.cls == 2
    && decide (s.plEarlyMin ≤ i.n) && (s.t2Present || s.t3Present)

/-- The timing test (R103). -/
def State.timely (s : State) (i : PlnIn) (opt : Nat) : Bool :=
  decide (mulS (s.roundTrip i opt) (1024 + s.plSlack) ≤ mulS i.w 1024000)

/-- The cost of an option (R104, R105). -/
def State.plnCost (s : State) (i : PlnIn) (opt : Nat) : Nat :=
  let occ (t : Nat) := mulS (mulS i.n i.w) (s.plOw t) / 1024
  match opt with
  | 1 => occ 0
  | 2 => addS (occ 1) (mulS (s.roundTrip i 2) s.plXw1)
  | 3 => mulS (mulS (s.roundTrip i 3) s.plXwr) (if i.cls = 1 then s.plCbR else 16) / 16
  | _ => mulS (addS (occ (s.offTarget i)) (mulS (s.roundTrip i 4) s.plXw2)) (if i.cls = 2 then s.plCbO else 16) / 16

/-- What the planner decides. -/
inductive Choice where
  | place (opt : Nat)
  | hold
  deriving DecidableEq, Repr

/-- The live evaluation over the options `opts` (the first of least cost, R106), with the record of R114 and the fallbacks of R108 and R109. -/
def State.liveEval (s : State) (i : PlnIn) (opts : List Nat) : Choice × State :=
  let early := s.earlyRule i
  let ok (o : Nat) : Bool := opts.contains o && s.placeOk i early o && s.timely i o
  let feas := [1, 2, 3, 4].filter ok
  let cost (o : Nat) : Nat := s.plnCost i o
  let pick := leastBy cost feas
  let late := leastBy (s.roundTrip i) (opts.filter (s.placeOk i false))
  let ch := match pick with
    | some o => some o
    | none => late
  let feasBits := (feas.map fun o => 2 ^ (o - 1)).sum
  let lastIn := word (at_ 48 i.need + at_ 44 feasBits + at_ 42 i.cls + at_ 39 i.prov + at_ 36 (ch.getD 0)
    + at_ 18 i.l + at_ 17 (b2n (s.offTarget i == 3)) + i.n)
  let costs := [1, 2, 3, 4].map fun o => if feas.contains o then word (cost o) else BitVec.allOnes 64
  let s := { s with pln := { s.pln with live := [lastIn, word i.w] ++ costs } }
  match pick, late with
  | some o, _ => (.place o, s)
  | none, some o => (.place o, (s.logEv evPlnLate (at_ 18 i.l)).incF aPlnStats 48 16 1)
  | none, none => (.hold, s)

/-- The placement of an OPEN (R95 to R97, R108, R109). `again`: a held OPEN is evaluated again; its pinned
events are not logged a second time. -/
def State.choosePlace (s : State) (i : PlnIn) (placement : Nat) (again : Bool) : Choice × State :=
  let note (s : State) (e : Ev) (lo : Option Nat) : State :=
    if again then s else
    let s := s.logEv e (at_ 18 i.l)
    match lo with
    | some b => s.incF aPlnStats b 16 1
    | none => s
  if s.plMode = 1 ∧ s.tut.term = 1 ∧ placement = 0 then s.liveEval i [1, 2, 3, 4]
  else
    let s := if placement = 0 then note s evPlnUnpinned none else s
    let p := if placement = 0 then 2 else placement
    if p = 3 ∧ i.prov ≠ 1 then
      let s := note s evRecomputeRefused (some 0)
      if s.placeOk i false 2 then (.place 2, s)
      else (note s evPlnPinFallback (some 16)).liveEval i [1, 4]
    else if p = 3 ∨ s.placeOk i false p then (.place p, s)
    else (note s evPlnPinFallback (some 16)).liveEval i ([1, 2, 3, 4].filter (· != p))

/-! ## Prefetch (R111, R112) -/

/-- Prefetch distance k of a run placed by `opt` (R111). -/
def State.prefetchK (s : State) (i : PlnIn) (opt : Nat) : Nat :=
  if s.tut.term ≠ 1 ∨ s.plPeriods ≤ i.need ∨ i.host then min s.plPfMin (i.need - 1)
  else
    let rb := if opt = 3 then s.roundTrip i 3
      else addS (tNs (s.codedBytes i) s.rateFar) (if s.plRecallTier = 1 then tNs i.bytes s.wrT1 else 0)
    let fits (k : Nat) : Bool :=
      decide (mulS rb (1024 + s.plSlack) ≤ mulS (s.plPstart i.need - s.plPstart (i.need - k)) 1024000)
    (((List.range i.need).filter fun k => decide (s.plPfMin ≤ k ∧ k + 1 ≤ i.need)).find? fits).getD (i.need - 1)

/-- The planner's own RECALL of a listed locker (R112). -/
def State.prefetchRecall (s : State) (l gen : Nat) : State :=
  let e := (s.lkr l).e
  if e.gen = gen ∧ ((e.st = lkPlaced ∧ 2 ≤ e.tier) ∨ e.st = lkDropped) then
    let s := s.incF aPlnRecalls 0 32 1
    match s.applyRecall l s.plRecallTier with
    | some s => s
    | none => (s.logEv evLkrNoSpace (lkrErr l s.plRecallTier 0)).incF aLkrStats 0 16 1
  else s

/-- The run entered in the recall list, or recalled at once when its period has started (R111). -/
def State.listRecall (s : State) (i : PlnIn) (opt : Nat) : State :=
  let per := max (i.need - s.prefetchK i opt) (i.p + 1)
  if per ≤ s.tut.started ∧ s.tut.started ≠ 0 then s.prefetchRecall i.l (s.lkr i.l).e.gen
  else { s with pln := { s.pln with listed := Tab.put s.pln.listed i.l (per, (s.lkr i.l).e.gen + 1) } }

/-- The RECALLs of the prefetch at the start of period `p`, in ascending locker index (R112). -/
def State.prefetchAt (s : State) (p : Nat) : State :=
  let due := s.pln.listed.filter fun x => decide (x.2.1 = p)
  let s := { s with pln := { s.pln with listed := s.pln.listed.filter fun x => decide (x.2.1 ≠ p) } }
  due.foldl (fun s x => s.prefetchRecall x.1 (x.2.2 - 1)) s

/-! ## OPEN (R84) -/

/-- The fields that OPEN sets; GEN advances (Table: Locker transitions). -/
def State.openEntry (s : State) (c : Cmd) (tag : Option EntTag) (fmt len : Nat) : State :=
  let l := cLocker c
  s.modLkr l fun x => { x with
    opened := true, byExam := s.tut.term == 3 && tag.isSome, openBy := tag, wpos := [], moveNext := 0, hist := cHist c, rel := false
    heldRecall := none
    e := { x.e with st := lkOpen, cls := cClass c, prov := cProv c, fmt := fmt, len := len, reads := cReads c
                    need := cNeed c, ticket := cTicket c, done := 0, gen := (x.e.gen + 1) % 65536, src := 0, isRecall := false } }

/-- Slots and an epoch for a stored placement in `tier`. -/
def State.openStored (s : State) (l tier : Nat) : State :=
  match s.fit tier l (s.lkr l).e.len with
  | none => s
  | some f =>
    let (ep, s) := s.takeEpoch
    s.modLkr l fun x => { x with
      slotA := some (tier, f), drop := false, e := { x.e with tier := tier, first := f, epoch := ep } }

/-- The tier of a placement code. -/
def State.placeTier (s : State) (i : PlnIn) (opt : Nat) : Nat :=
  match opt with
  | 1 => 0
  | 2 => 1
  | _ => s.offTarget i

/-- The placement carried out: entry, slots, epoch, backlog share, recompute record, recall list. -/
def State.openAs (s : State) (c : Cmd) (tag : Option EntTag) (i : PlnIn) (opt : Nat) : State :=
  let tier := s.placeTier i opt
  let bc := s.codedBytes i
  let s := s.openEntry c tag i.fmt i.n
  let s := if opt = 3 then
      s.modLkr i.l fun x => { x with
        drop := true, slotA := none
        rr := { entry := cEntry c, unit := cRUnit c, step := s.stepCtr.toNat, mb := cMb c, layer := cLayer c
                tensor := cTensor c, qstate := 0, qfmt := i.fmt } }
    else s.openStored i.l tier
  let s := if opt = 2 then
      let s := s.setReg aPlnBacklogT1 (word (satAdd (2 ^ 48 - 1) s.backlogT1 i.bytes))
      s.modLkr i.l fun x => { x with share := 32768, shareLast := 0, shareFar := false }
    else if opt = 4 then
      let s := s.setReg aPlnBacklogFar (word (satAdd (2 ^ 48 - 1) s.backlogFar bc))
      s.modLkr i.l fun x => { x with share := bc / i.n, shareLast := bc % i.n, shareFar := true }
    else s
  let s := match opt with
    | 1 => s.incF aPlnDec0 32 32 1
    | 2 => s.incF aPlnDec0 0 32 1
    | 3 => s.incF aPlnDec1 32 32 1
    | _ => s.incF aPlnDec1 0 32 1
  let s := if opt = 3 ∨ opt = 4 then s.listRecall i opt else s
  s.noteHigh

/-- Key of the format rung of an entry and a history. -/
def EntTag.rungKey (t : EntTag) (h : Nat) : Nat := (t.entry + 65536 * (t.kind + 4 * t.run)) * 16384 + h

/-- An OPEN that is repeated by a widening carries the rung's format and the length of its piece (R161). -/
def State.widened (s : State) (c : Cmd) (tag : Option EntTag) : Cmd :=
  match tag with
  | none => c
  | some t =>
    match Tab.get s.bnc.rung (t.rungKey (cHist c)) with
    | 0 => c
    | r + 1 =>
      let b := s.sect tyNumerics
      let d := leAt b 0x48 4 + 16 * cHist c
      if leAt b (d + 1) 1 % 2 = 1 then
        let n := let sh := shapeOf r
          ((leAt b (d + 4) 4 + sh.rows - 1) / sh.rows) * ((leAt b (d + 8) 4 + sh.cols - 1) / sh.cols)
        cmdSet (cmdSet c 0x23 1 (r + 16 * cReads c)) 0x24 4 (runLen r n)
      else c

/-- ENTRY names a recompute entry of the timetable section in force (R336). -/
def State.entryOk (s : State) (e : Nat) : Bool :=
  decide (e < ttEntries s.recSect) && entRecompute s.recSect e

/-- The refusal of an OPEN, if any (R22, R83, R336). The reserved PROVENANCE codes 6 and 7 and the reserved CLASS 0b11 are taken as
they are: the spec names no refusal for them (DESIGN CHOICE, log 84). -/
def State.openRefusal (s : State) (c : Cmd) : Option Ev :=
  match s.lkrCheck c with
  | some e => some e
  | none =>
    if 5 ≤ cPlace c ∨ !codeOk (cFormat c) then some ⟨4, 0x0503, none⟩
    else if (s.lkr (cLocker c)).e.st ≠ lkFree ∨ cLength c = 0 ∨ 65536 < cLength c ∨ cReads c = 0 then some evLkrIllegal
    else if (cPlace c = 3 ∨ 0 < cRcyc c) ∧ !s.entryOk (cEntry c) then some evLkrIllegal
    else none

/-- The OPEN of queue `q` evaluated and carried out, or held (R94, R109). -/
def State.tryOpen (s : State) (q : Nat) (c : Cmd) (tag : Option EntTag) (again : Bool) : State :=
  let c := s.widened c tag
  let i := s.plnIn c tag
  match s.choosePlace i (cPlace c) again with
  | (.place o, s) =>
    let s := { s with pln := { s.pln with held := s.pln.held.filter (·.queue != q) } }
    (s.openAs c tag i o).acceptCmd q true
  | (.hold, s) =>
    if again then s
    else
      let s := (s.logEv evPlnHeld (at_ 18 i.l)).incF aPlnStats 32 16 1
      { s with pln := { s.pln with held := s.pln.held ++ [{ queue := q, cmd := c }] } }

def execLkrOpen (q : BitVec 13) (s : State) : Res :=
  let q := q.toNat
  match s.issuedTo q 0x10 with
  | none => .next s
  | some (c, tag) =>
    if s.pln.held.any (·.queue == q) then .next s
    else match s.openRefusal c with
    | some e => .next (s.refuseLkr q e (cLocker c) 0)
    | none => .next (s.tryOpen q c tag false)

def execHeldOpenRetry (q : BitVec 13) (s : State) : Res :=
  let q := q.toNat
  if s.pln.held.any (·.queue == q) then
    match s.issuedTo q 0x10 with
    | none => .next s
    | some (c, tag) => .next (s.tryOpen q c tag true)
  else .next s

/-! ## MOVE, RECALL, READ, RELEASE (R83 to R86, R445) -/

/-- MOVE. While a RELEASE of the locker waits, MOVE, RECALL and READ are refused with LKR_ILLEGAL_OP: the spec is silent (DESIGN
CHOICE, log 84). -/
def execLkrMove (q : BitVec 13) (s : State) : Res :=
  let q := q.toNat
  match s.issuedTo q 0x11 with
  | none => .next s
  | some (c, _) =>
    let l := cLocker c
    let tier := cPlace c
    let e := (s.lkr l).e
    match s.lkrCheck c with
    | some ev => .next (s.refuseLkr q ev l (tier % 4))
    | none =>
      if 4 ≤ tier ∨ !s.tierPresent tier ∨ e.st ≠ lkPlaced ∨ e.tier = tier ∨ (s.lkr l).rel then
        .next (s.refuseLkr q evLkrIllegal l (tier % 4))
      else match s.fit tier l e.len with
      | none => .next (s.refuseLkr q evLkrNoSpace l tier)
      | some f => .next ((s.startMove l tier f false false).acceptCmd q true)

/-- RECALL. A second one while one is held for the locker is refused with LKR_ILLEGAL_OP: R86 says only that at most one is held
(DESIGN CHOICE, log 84). -/
def execLkrRecall (q : BitVec 13) (s : State) : Res :=
  let q := q.toNat
  match s.issuedTo q 0x12 with
  | none => .next s
  | some (c, _) =>
    let l := cLocker c
    let tier := cPlace c
    let x := s.lkr l
    match s.lkrCheck c with
    | some ev => .next (s.refuseLkr q ev l (tier % 4))
    | none =>
      if 2 ≤ tier ∨ !s.tierPresent tier ∨ x.rel then .next (s.refuseLkr q evLkrIllegal l (tier % 4))
      else if x.e.st = lkRecalled ∨ (x.e.st = lkMoving ∧ x.e.isRecall) then .next (s.acceptCmd q true)
      else if x.e.st = lkMoving then
        if x.heldRecall.isSome then .next (s.refuseLkr q evLkrIllegal l tier)
        else .next ((s.modLkr l fun x => { x with heldRecall := some tier }).acceptCmd q true)
      else if x.e.st = lkPlaced ∨ x.e.st = lkDropped then
        match s.applyRecall l tier with
        | some s => .next (s.acceptCmd q true)
        | none => .next (s.refuseLkr q evLkrNoSpace l tier)
      else .next (s.refuseLkr q evLkrIllegal l tier)

/-- A READ that R83 refuses in the locker's state. -/
def Locker.readIllegal (x : Locker) (consume : Bool) : Bool :=
  x.e.st == lkFree || x.e.st == lkConsumed || (x.e.st == lkDropped && !consume)
    || (x.e.st == lkOpen && (consume || x.drop)) || x.rel

/-- A READ of locker `l` through context `c` that no pass has been bound to. -/
def freeRead (l c : Nat) (f : Flight) : Bool :=
  cOp f.cmd == 0x13 && !f.done && !f.dropped && !f.bound && cStream f.cmd == c && cLocker f.cmd == l

/-- The binding of an accepted READ to the pass in progress (R445): its source is this locker with the current GEN. The READ is the
last command that its queue handed over. -/
def State.bindRead (s : State) (q l c : Nat) (consume : Bool) : State :=
  let x := s.stm c
  if x.st = 1 ∧ epKind x.src = 1 ∧ epLocker x.src = l ∧ epGen x.src = (s.lkr l).e.gen ∧ x.bound.isNone then
    ({ s with flights := (markBound (fun f => f.queue == q && freeRead l c f) s.flights.reverse).reverse } : State).modStm c
      fun x => { x with bound := some (q, consume) }
  else s

/-- The recompute that a READ of period `p` has started for locker `l` sees that P (R336). -/
def State.recomputeFor (s : State) (l p : Nat) : State :=
  let f (r : EntRun) : EntRun := if r.kind = 2 ∧ r.run = l ∧ r.copied = 0 then { r with period := p } else r
  { s with tut := { s.tut with runs := s.tut.runs.map f } }

def execLkrRead (q : BitVec 13) (s : State) : Res :=
  let q := q.toNat
  match s.issuedTo q 0x13 with
  | none => .next s
  | some (c, tag) =>
    let l := cLocker c
    let x := s.lkr l
    match s.lkrCheck c with
    | some ev => .next (s.refuseLkr q ev l 0)
    | none =>
      if x.readIllegal (cConsume c) then .next (s.refuseLkr q evLkrIllegal l x.e.tier)
      else if cConsume c ∧ ((x.e.st = lkPlaced ∧ 2 ≤ x.e.tier) ∨ x.e.st = lkDropped) then
        match s.impliedRecall l with
        | none => .next (s.refuseLkr q evLkrNoSpace l 1)
        | some t =>
          let t := if tag.isSome then t.recomputeFor l (s.periodOf tag) else t
          .next ((t.acceptCmd q false).bindRead q l (cStream c) true)
      else .next ((s.acceptCmd q false).bindRead q l (cStream c) (cConsume c))

def execLkrRelease (q : BitVec 13) (s : State) : Res :=
  let q := q.toNat
  match s.issuedTo q 0x14 with
  | none => .next s
  | some (c, _) =>
    let l := cLocker c
    match s.lkrCheck c with
    | some ev => .next (s.refuseLkr q ev l 0)
    | none =>
      if (s.lkr l).e.st = lkFree then .next (s.refuseLkr q evLkrIllegal l 0)
      else .next ((s.acceptCmd q true).releaseLkr l)

/-! ## PLN_LAST_IN_READ (R114) -/

/-- The record of the last live evaluation latched into the view. -/
def State.readLastIn (s : State) : Word × State :=
  let r := s.pln.live
  let s := (List.range 5).foldl (fun s i => s.setReg (aPlnLastW + 8 * i) (r.getD (i + 1) 0)) s
  (r.getD 0 0, s.setReg aPlnLastIn (r.getD 0 0))

def execPlnLastInRead (s : State) : Res :=
  let r := s.readLastIn
  .next (s.hostReads (r.2.emit (.hostResp r.1 false)))

end Sys2Proof.Machine
end

