-- ==== Sys2Proof/Machine/TileIO.lean ====
section
/-! DEFINITION. Reading and writing tiles: the read checks (R75, R76, R376 to R378), the start of a recovery (R353), the
write path of lockers, windows and other slots (R73, R74, R78), the directory's movers (R84 to R88, R199). -/

namespace Sys2Proof.Machine

/-! ## Requesters -/

/-- The requester number of the mover of locker `l` (R200). -/
def State.moverWho (s : State) (l : Nat) : Nat := 4096 + (s.lkr l).mover.getD 0

/-- The requester number of a read (R203). -/
def State.useWho (s : State) : TileUse → Nat
  | .stream c _ => c
  | .mover l _ => s.moverWho l
  | _ => 4112

/-- The share under which a tile is read: a peer's state fetch is REMOTE (R356). -/
def TileUse.cls : TileUse → Cls
  | .fetch _ _ => .remote
  | _ => .read

/-! ## Expected values -/

/-- OWNER of a locker's tiles on this form. -/
def State.ownerWord (s : State) (l : Nat) : Nat := l + at_ 18 s.part.form

/-- POSITION of the data tile at run position `p` (Table: Tile header): first sub-slot and count for scaled formats. -/
def posWord (fmt p : Nat) : Nat :=
  let sh := shapeOf fmt
  if sh.g = 0 then p else p + at_ 16 (p % (sh.g + 1) * sh.sub) + at_ 20 sh.sub

/-- A read of data position `p` of locker `l` at the copy that starts at `at0` (its place for a position). -/
def State.lockerRd (s : State) (l p : Nat) (place : Nat → Loc) (use : TileUse) (pass : Bool) : TileRd :=
  let e := (s.lkr l).e
  let sh := shapeOf e.fmt
  { use := use, tile := .locker l p, loc := place p, own := some (s.ownerWord l, posWord e.fmt p), fmt := e.fmt
    comp := (groupOf e.fmt e.len p).map fun g => (place g.2, g.2, p % (sh.g + 1) * sh.sub, sh.sub)
    anyEp := false, pass := pass, phase := 0 }

/-! ## Table: Tile read checks -/

/-- Why a tile fails a check of steps 1 to 6. -/
inductive TileBad where
  | ue | mac | illegal | mismatch | codec
  deriving DecidableEq, Repr

/-- Stored payload bytes of a tile (R376). -/
def storedLen (h : Hdr) : Nat :=
  if h.cmp then min 32768 (roundUp h.cmpLen 256)
  else if h.kind = 1 then 32768
  else if (shapeOf h.fmt).pay = 0 then 32768 else (shapeOf h.fmt).pay

/-- Steps 1 to 5 on a tile of KIND `kind`; `hdr` and `stored` are absent when the read was poisoned. -/
def State.checkTile (s : State) (loc : Loc) (anyEp : Bool) (kind fmt : Nat) (own : Option (Nat × Nat))
    (hdr stored : Option Bytes) : Option TileBad :=
  match hdr with
  | none => some .ue
  | some hb =>
    let h := Hdr.read hb
    let ep := if anyEp then h.epoch else loc.epoch
    match stored with
    | none => some .ue
    | some st =>
      if !hcrcOk hb then some .ue
      else if loc.tier ≠ 0 ∧ h.mac ≠ tileMac s.sec.km loc.tier loc.pay ep hb st then some .mac
      else if !h.codesOk then some .illegal
      else match own with
        | none => none
        | some (o, p) =>
          if h.fmt ≠ fmt ∨ h.kind ≠ kind ∨ h.owner ≠ o ∨ h.pos ≠ p ∨ h.epoch ≠ ep then some .mismatch else none

/-- A stored payload in plain. -/
def State.plainOf (s : State) (loc : Loc) (ep : Nat) (stored : Bytes) : Bytes :=
  if loc.tier = 0 then stored else xtsLoad s.sec.k1 s.sec.k2 loc.tier loc.pay ep stored

/-- PIECE, PART and TILE of MKR_ERR. -/
def mkrErr (piece part tile : Nat) : Nat := at_ 24 piece + at_ 21 part + tile % 65536

/-- The failure of a check logged in the unit that reads the tile: the directory for a locker's tile, the Marker for its
state, the stream engine for the windows (log 20). The companion's position stands for the tile's when `comp`. -/
def State.logTileBad (s : State) (rd : TileRd) (b : TileBad) (comp : Bool) : State :=
  let tier := rd.loc.tier
  let low : Nat := match rd.tile with
    | .locker l p => lkrErr l tier (if comp then (rd.comp.map fun c => c.2.1).getD p else p)
    | .window _ _ => (match rd.use with | .stream c _ => at_ 32 c | _ => 0)
    | .state_ piece part tile => mkrErr piece part tile
    | .record slot => mkrErr 0x3FFFF 6 slot
    | .stage run tile => mkrErr (((s.mkr.runs.find? (·.id == run)).map StageRun.piece).getD 0) 7 tile
  let (ue, bad) : Ev × Ev := match rd.tile with
    | .locker _ _ => (evLkrTierUe, ⟨4, 0x0503, none⟩)
    | .window _ _ => (evStmTierUe, ⟨9, 0x0503, none⟩)
    | _ => (evMkrTierUe, evMkrTierUe)
  match b with
  | .ue => s.logEv ue low
  | .mac =>
    let a := if comp then (rd.comp.map fun c => c.1.pay).getD rd.loc.pay else rd.loc.pay
    ((s.logEv ue low).logEv evSecMac (at_ 18 tier)).setReg aSecErrAddr (word a)
  | .illegal => s.logEv bad low
  | .mismatch => (match rd.tile with
    | .locker _ _ => s.logEv evLkrHeader low
    | _ => s.logEv ue low)
  | .codec => (match rd.tile with
    | .locker _ _ | .window _ _ => s
    | _ => s.logEv ue low)

/-- A tile that failed. -/
def TileGot.failed : TileGot := { ok := false, hdr := [], scales := [], pay := [], coded := false }

/-- The scale bytes kept beside a slot of a weight window. -/
def State.slotScales (s : State) : RTile → Bytes
  | .window t1 slot => Tab.get s.sec.winScales (2 * slot + b2n t1)
  | _ => []

/-- The tile read judged by Table: Tile read checks, its companion by R75, and expanded or passed on by R223; the event
of a failure is logged, except for a source attempt of a recovery (R354). -/
def State.judgeTile (s : State) (rd : TileRd) (hdr stored chdr cstored : Option Bytes) : TileGot × State :=
  let log (s : State) (b : TileBad) (comp : Bool) : State := match rd.use with
    | .recov _ => s
    | _ => s.logTileBad rd b comp
  match s.checkTile rd.loc rd.anyEp 0 rd.fmt rd.own hdr stored with
  | some b => (.failed, log s b false)
  | none =>
    let hb := hdr.getD []
    let h := Hdr.read hb
    let ep := if rd.anyEp then h.epoch else rd.loc.epoch
    let plain := s.plainOf rd.loc ep (stored.getD [])
    let raw := { h with cmp := false, cmpLen := 0, desc := 0 }.bytes
    let far := decide (2 ≤ rd.loc.tier)
    let r : Option (Bytes × Bytes × Bool) × State :=
      -- neither the cloakroom nor a memory port has an expander (R221, log 88)
      if h.cmp && !far then (none, s)
      else if h.cmp then
        match s.expand 0 hb (plain.take h.cmpLen) (rd.pass && far) with
        | (.error _, s) => (none, s)
        | (.ok p, s) => (some (if rd.pass && far then (hb, p, true) else (raw, p, false)), s)
      else (some (hb, plain, false), s)
    match r with
    | (none, s) => (.failed, log s .codec false)
    | (some (hb, pay, coded), s) =>
      let n := (shapeOf h.fmt).scale
      match rd.comp with
      | none =>
        if n = 0 then ({ ok := true, hdr := hb, scales := [], pay := pay, coded := coded }, s)
        else
          -- the scales that the slot was stored with; free values for one that no satchel was stored in (log 57)
          let kept := s.slotScales rd.tile
          let (sc, s) := if kept.length = n then (kept, s) else s.drawBytes n
          ({ ok := true, hdr := hb, scales := sc, pay := pay, coded := coded }, s)
      | some (cl, cp, first, _) =>
        match s.checkTile cl false 1 rd.fmt (rd.own.map fun o => (o.1, cp)) chdr cstored with
        | some b => (.failed, log s b true)
        | none =>
          let sc := slice (s.plainOf cl cl.epoch (cstored.getD [])) (first * 2048) n
          ({ ok := true, hdr := hb, scales := sc, pay := pay, coded := coded }, s)

/-! ## Reading -/

/-- `n` bytes of the cloakroom, absent when a word of them is uncorrectable (R348). -/
def State.t0Get (s : State) (a n : Nat) : Option Bytes := if s.t0Bad a n then none else some (s.t0Read a n)

/-- Header and stored payload of a T0 slot. -/
def State.t0Tile (s : State) (loc : Loc) : Option Bytes × Option Bytes :=
  let h := s.t0Get loc.hdr 64
  (h, s.t0Get loc.pay (storedLen (Hdr.read (h.getD []))))

/-- SRAM_UNCORRECTABLE for a T0 tile (R348). -/
def State.t0Log (s : State) (bad : Bool) : State := if bad then s.logEv evSramUncorrectable 0 else s

/-- A tile of T0 read at once. -/
def State.readNow (s : State) (rd : TileRd) : TileGot × State :=
  let d := s.t0Tile rd.loc
  let c := match rd.comp with
    | none => (none, none)
    | some (cl, _, _, _) => s.t0Tile cl
  let s := s.t0Log (d.1.isNone || d.2.isNone || (rd.comp.isSome && (c.1.isNone || c.2.isNone)))
  s.judgeTile rd d.1 d.2 c.1 c.2

/-- The header reads of a tile in T1 to T3: index 0 its own, index 1 its companion's. -/
def State.startRead (s : State) (rd : TileRd) : State :=
  s.startJob (.tileRd rd) fun id =>
    let one (loc : Loc) (i : Nat) : List MemReq := s.readReqs loc.tier loc.hdr 64 rd.use.cls (s.useWho rd.use) id i
    one rd.loc 0 ++ (match rd.comp with
      | none => []
      | some (cl, _, _, _) => one cl 1)

/-- The tile asked for: its outcome at once from T0, else none and a job at the ports. -/
def State.askTile (s : State) (rd : TileRd) : Option TileGot × State :=
  if rd.loc.tier = 0 then let r := s.readNow rd; (some r.1, r.2)
  else (none, s.startRead rd)

/-- A header unit of a job: absent when its read failed. -/
def Job.header (j : Job) (loc : Loc) (i : Nat) : Option Bytes :=
  let u := Tab.get j.got i
  if u.isEmpty then none else some (slice u (loc.hdr % 256) 64)

/-- A stored payload of a job, absent when a unit of it failed. -/
def Job.payload (j : Job) (loc : Loc) (i n : Nat) : Option Bytes :=
  let k := if n = 0 then 0 else (loc.pay + n - 1) / 256 - loc.pay / 256 + 1
  if (List.range k).any fun x => (Tab.get j.got (i + x)).isEmpty then none
  else some (j.range i loc.pay n)

/-- A tile job all of whose requests have been answered: its payloads are read next, or it is judged. -/
def State.endRead (s : State) (j : Job) (rd : TileRd) : Option TileGot × State :=
  let hb := j.header rd.loc 0
  let cb := match rd.comp with
    | none => none
    | some (cl, _, _, _) => j.header cl 1
  let n := storedLen (Hdr.read (hb.getD []))
  if rd.phase = 0 then
    if hb.any hcrcOk then
      let rd' := { rd with phase := 1 }
      let own := s.readReqs rd.loc.tier rd.loc.pay n rd.use.cls (s.useWho rd.use) j.id 16
      let comp := match rd.comp with
        | none => []
        | some (cl, _, _, _) => s.readReqs cl.tier cl.pay 32768 rd.use.cls (s.useWho rd.use) j.id 256
      (none, s.moreReqs { j with kind := .tileRd rd' } (own ++ comp))
    else
      -- step 1 or step 2 fails on the header alone
      let r := s.judgeTile rd hb (hb.map fun _ => []) none none
      (some r.1, r.2)
  else
    let cs := match rd.comp with
      | none => none
      | some (cl, _, _, _) => j.payload cl 256 32768
    let r := s.judgeTile rd hb (j.payload rd.loc 16 n) cb cs
    (some r.1, r.2)

/-! ## Detention and recovery (R84, R353) -/

/-- A locker whose tile failed a check enters DETAINED from PLACED, MOVING or RECALLED. An OPEN one, of which the table has no such
row, stays OPEN while the recovery runs, and is freed when it fails (DESIGN CHOICE, log 84). -/
def State.detain (s : State) (l : Nat) : State :=
  let e := (s.lkr l).e
  if e.st = lkPlaced ∨ e.st = lkMoving ∨ e.st = lkRecalled then
    ((s.modEnt l fun e => { e with prior := e.st, st := lkDetained }).incF aLkrStats 48 16 1).setEvBit 4 2
  else s

/-- Recoveries that hold one of the sixteen places. -/
def State.recovRunning (s : State) : Nat := s.err.recov.countP fun r => r.source != 0

/-- Source 1, refetch, of recovery `r`: the same slot once more. A T0 slot is read when its row runs. -/
def State.refetch (s : State) (r : Recovery) : State :=
  let rd := { r.rd with use := .recov r.id, phase := 0 }
  if rd.loc.tier = 0 then s else s.startRead rd

/-- A recovery attempt runs for another tile of the locker of `t`: one recovery runs for a locker (R85), its failed tiles one
after the other. -/
def State.lkrRecovering (s : State) (t : RTile) (id : Nat) : Bool :=
  match t with
  | .locker l _ => s.err.recov.any fun r => r.id != id && r.rd.tile.ofLocker l && r.source != 0
  | _ => false

/-- A reader of a failed tile waits on the tile's one recovery, which starts when none runs for it; a seventeenth
waits (R353), and so does a further tile of a locker under recovery. -/
def State.beginRecovery (s : State) (rd : TileRd) : State :=
  let s := match rd.tile with
    | .locker l _ => s.detain l
    | _ => s
  match s.err.recov.find? fun r => r.rd.tile == rd.tile && !r.stopped && !r.writing with
  | some r =>
    let join (x : Recovery) : Recovery := if x.id = r.id then { x with waiters := x.waiters ++ [rd.use] } else x
    { s with err := { s.err with recov := s.err.recov.map join } }
  | none =>
    let run := decide (s.recovRunning < 16) && !s.lkrRecovering rd.tile s.err.nextId
    let r : Recovery := { id := s.err.nextId, rd := rd, source := if run then 1 else 0, waiters := [rd.use]
                          found := none, writing := false, stopped := false, need := [], got := []
                          peer := 0 }
    let s := { s with err := { s.err with recov := s.err.recov ++ [r], nextId := s.err.nextId + 1 } }
    if run then s.refetch r else s

/-! ## Writing -/

/-- A received tile as it is stored in a slot: header fields for the slot, and the payload as R224 codes it for the
tier (T2 and T3 over the far port's compressor). -/
def State.forSlot (s : State) (tier owner pos : Nat) (g : TileGot) : (Hdr × Bytes) × State :=
  let h := Hdr.read g.hdr
  let h := { h with owner := owner, pos := pos }
  if 2 ≤ tier ∧ !g.coded then
    let r := s.compress 0 h.fmt (h.nocode || h.kind != 0) g.pay
    (({ h with cmp := decide (r.1.2.1 ≠ 0), cmpLen := r.1.2.1, desc := r.1.2.2 }, r.1.1), r.2)
  else if g.coded then ((h, g.pay), s)
  else (({ h with cmp := false, cmpLen := 0, desc := 0 }, g.pay), s)

/-- The class of a tile write (R202, R203). -/
def WrUse.cls : WrUse → Cls
  | .chain _ _ _ => .remote
  | _ => .write

/-- A payload written to a slot; at T0 the bytes are there at once and the flag says so. -/
def State.writePay (s : State) (use : WrUse) (who : Nat) (cls : Cls) (loc : Loc) (head stored : Bytes)
    (share : Nat) (far : Bool) : Bool × State :=
  if loc.tier = 0 then (true, s.t0Write loc.pay stored)
  else (false, s.startJob (.tileWr use loc false head share far) fun id =>
    s.writeReqs loc.tier loc.pay stored cls who id 0)

/-- A header written to a slot. -/
def State.writeHead (s : State) (use : WrUse) (who : Nat) (cls : Cls) (loc : Loc) (head : Bytes) : Bool × State :=
  if loc.tier = 0 then (true, s.t0Write loc.hdr head)
  else (false, s.startJob (.tileWr use loc true head 0 false) fun id => s.writeReqs loc.tier loc.hdr head cls who id 0)

/-! ## Runs of lockers (R73, R74) -/

/-- Where position `p` of the run being written lies: its slot of the OPEN, or of the destination. -/
def State.writeLoc (s : State) (l p : Nat) : Loc :=
  if (s.lkr l).e.live = lkMoving ∨ ((s.lkr l).e.live = lkConsumed ∧ (s.lkr l).slotB.isSome) then s.destLoc l p
  else s.runLoc l p

/-- Requester of a locker's writes: the mover of a move or recompute, else the context `c` that brings the tile (R200, R203). -/
def State.lkrWho (s : State) (l c : Nat) : Nat := if (s.lkr l).e.live = lkMoving then s.moverWho l else c

def State.setPos (s : State) (l p : Nat) (f : PosW → PosW) : State :=
  s.modLkr l fun x => { x with wpos := Tab.modify x.wpos p f }

/-- Positions of the group of position `p`, or `p` alone. -/
def State.groupPos (s : State) (l p : Nat) : List Nat :=
  let e := (s.lkr l).e
  match groupOf e.fmt e.len p with
  | none => [p]
  | some (a, c) => (List.range (c + 1 - a)).map (a + ·)

/-- Positions of a group have all been committed: they count in TILES_DONE, and the last one ends the run. -/
def State.groupDone (s : State) (l : Nat) (ps : List Nat) : State :=
  let s := ps.foldl (fun s p => s.setPos l p fun w => { w with st := 5, hdr := [], scales := [] }) s
  let s := s.modEnt l fun e => { e with done := e.done + ps.length }
  let e := (s.lkr l).e
  let s := if e.live = lkMoving ∧ e.src = 4 then s.incF aBncRecomp 0 32 ps.length else s
  if (s.lkr l).e.done = (s.lkr l).e.len then s.runComplete l else s

/-- The companion's payload and header for the group of a data position. -/
def State.compTile (s : State) (l : Nat) (ps : List Nat) (cp : Nat) : Bytes × Bytes :=
  let x := s.lkr l
  let sh := shapeOf x.e.fmt
  let data := ps.filter (· != cp)
  let pay := data.flatMap fun p => slice (Tab.get x.wpos p).scales 0 (2048 * sh.sub)
  let prov := leAt (Tab.get x.wpos (data.headD 0)).hdr 3 1
  let h : Hdr := { fmt := x.e.fmt, kind := 1, shape := 0, mode := sh.mode, cmp := false, nocode := false, prov := prov
                   vrows := data.length * sh.sub, vcols := 0, cmpLen := 0, desc := 0, epoch := 0
                   owner := s.ownerWord l, pos := cp, mac := 0 }
  sealTile s (s.writeLoc l cp) h (slice pay 0 32768)

/-- The headers of the data positions `ps` written in order (R74, step 3). -/
def State.dataHeads (s : State) (l : Nat) (ps : List Nat) : State :=
  ps.foldl (fun s p =>
    let w := Tab.get (s.lkr l).wpos p
    let r := s.writeHead (.locker l p) w.who .write (s.writeLoc l p) w.hdr
    r.2.setPos l p fun w => { w with st := if r.1 then 4 else 3 }) s

/-- What follows when a step of the writing of position `p` has ended: for an unscaled run its header; for a scaled
one the companion once every data payload of the group is written, then the companion's header, then the data
headers; then the group is committed. -/
def State.commitStep : Nat → State → Nat → Nat → State
  | 0, s, _, _ => s
  | n + 1, s, l, p =>
    let e := (s.lkr l).e
    let st (q : Nat) : Nat := (Tab.get (s.lkr l).wpos q).st
    match groupOf e.fmt e.len p with
    | none =>
      if st p = 2 then
        let s := s.dataHeads l [p]
        if (Tab.get (s.lkr l).wpos p).st = 4 then s.groupDone l [p] else s
      else if st p = 4 then s.groupDone l [p] else s
    | some (a, c) =>
      let ps := (List.range (c - a)).map (a + ·)
      if st c = 0 ∧ ps.all (fun q => st q == 2) then
        let t := s.compTile l (ps ++ [c]) c
        let x := s.lkr l
        let who := (Tab.get x.wpos p).who
        let r := s.writePay (.locker l c) who .write (s.writeLoc l c) t.1 t.2
          (if x.e.live = lkOpen then x.shareOf c else 0) x.shareFar
        State.commitStep n (r.2.setPos l c fun _ => { st := if r.1 then 2 else 1, who := who, hdr := t.1, scales := [] }) l c
      else if st c = 2 then
        let w := Tab.get (s.lkr l).wpos c
        let r := s.writeHead (.locker l c) w.who .write (s.writeLoc l c) w.hdr
        State.commitStep n (r.2.setPos l c fun w => { w with st := if r.1 then 4 else 3 }) l c
      else if st c = 4 ∧ ps.all (fun q => st q == 2) then
        State.commitStep n (s.dataHeads l ps) l c
      else if st c = 4 ∧ ps.all (fun q => st q == 4) then s.groupDone l (ps ++ [c])
      else s

/-- A tile stored at data position `p` of locker `l`, brought by context `c` where no mover carries it (R78). A run placed by
RECOMPUTE stores nothing: its tiles are passed on. -/
def State.storeLocker (s : State) (l p c : Nat) (g : TileGot) : State :=
  let x := s.lkr l
  if x.e.live = lkOpen ∧ x.drop then
    -- a companion position is passed with the last data tile of its group
    let s := s.setPos l p fun w => { w with st := 4 }
    let ps := s.groupPos l p
    let data := ps.filter fun q => !isComp x.e.fmt x.e.len q
    if data.all fun q => (Tab.get (s.lkr l).wpos q).st == 4 then s.groupDone l ps else s
  else
    let loc := s.writeLoc l p
    let ((h, pay), s) := s.forSlot loc.tier (s.ownerWord l) (posWord x.e.fmt p) g
    let t := sealTile s loc h pay
    let share := if x.e.live = lkOpen then x.shareOf p else 0
    let who := s.lkrWho l c
    let r := s.writePay (.locker l p) who .write loc t.1 t.2 share x.shareFar
    let s := r.2.setPos l p fun _ => { st := if r.1 then 2 else 1, who := who, hdr := t.1, scales := g.scales }
    if r.1 then s.commitStep 6 l p else s

/-- A write of a locker's position has ended well: payload (`hdr` false) or header. -/
def State.lockerWrote (s : State) (l p : Nat) (hdr : Bool) : State :=
  (s.setPos l p fun w => { w with st := if hdr then 4 else 2 }).commitStep 6 l p

/-! ## Movers -/

/-- The movers that are free, in ascending number. -/
def State.freeMovers (s : State) : List Nat :=
  (List.range 16).filter fun m => !s.lkrs.any fun x => x.2.mover == some m

/-- The sixteen movers go to the moves, recalls and recomputes that wait for one, in the order in which these started (R200). -/
def State.giveMovers (s : State) : State :=
  let ls := s.lkrs.filter fun x => x.2.mover.isNone && x.2.e.live == lkMoving && !x.2.rel
  (((sortBy (fun (x : Nat × Locker) => x.2.e.depoch) ls).map Prod.fst).zip s.freeMovers).foldl
    (fun s x => s.modLkr x.1 fun k => { k with mover := some x.2 }) s

/-- Lockers whose positions a mover reads: moves and recalls. -/
def State.movers (s : State) : List Nat :=
  (s.lkrs.filter fun x => x.2.mover.isSome && x.2.e.st == lkMoving && x.2.e.src != 4 && !x.2.rel).map Prod.fst

/-- Positions of a move read and not yet committed. -/
def Locker.inFlight (x : Locker) : Nat :=
  (List.range x.moveNext).countP fun p => !isComp x.e.fmt x.e.len p && (Tab.get x.wpos p).st != 5

/-- A move's position delivered to the destination, or failed. -/
def State.moved (s : State) (l p : Nat) (rd : TileRd) (g : TileGot) : State :=
  if g.ok then s.storeLocker l p 4112 g else s.beginRecovery rd

/-- One mover issues positions of locker `l` up to sixteen in flight (R443). -/
def State.moveLoop : Nat → State → Nat → State
  | 0, s, _ => s
  | n + 1, s, l =>
    let x := s.lkr l
    let p := x.moveNext
    if x.e.st ≠ lkMoving ∨ x.e.len ≤ p ∨ 16 ≤ x.inFlight then s
    else
      let s := s.modLkr l fun x => { x with moveNext := p + 1 }
      if isComp x.e.fmt x.e.len p then State.moveLoop n s l
      else
        let rd := s.lockerRd l p (s.runLoc l) (.mover l p) (decide (2 ≤ x.e.dest))
        match s.askTile rd with
        | (none, s) => State.moveLoop n s l
        | (some g, s) => State.moveLoop n (s.moved l p rd g) l

/-- Every mover goes on. -/
def State.pumpMovers (s : State) : State :=
  let s := s.giveMovers
  s.movers.foldl (fun s l => State.moveLoop ((s.lkr l).e.len + 1) s l) s

end Sys2Proof.Machine
end

