-- ==== Sys2Proof/Machine/Streams.lean ====
section
/-! DEFINITION. Stream contexts (R196 to R209, R443 to R445): START, ABORT, the issue of entries, delivery to every kind of
destination (R78, R199, R201, R277, R291), the end of a pass; and the commands STM_START, STM_ABORT, STREAM_PASS_END (STREAM,
STREAM_ENTRY_ISSUE and SATCHEL_RECEIVE stand in Checkpoint.lean, which adds the endpoint kinds of R385). -/

namespace Sys2Proof.Machine

/-! ## Units named by endpoints (R119, R199) -/

/-- Bench `b` is present, unfenced and not ganged away. -/
def State.benchOk (s : State) (b : Nat) : Bool :=
  !s.benchFenced b && (match s.gang with | 0 => true | 1 => b % 2 == 0 | _ => b == 0)

/-- Row unit `r` is addressable: its bench is not fenced (R119). -/
def State.rowOk (s : State) (r : Nat) : Bool := !s.benchFenced r

/-- A FABRIC endpoint that START allows (R199, R276). -/
def State.fabricEpOk (s : State) (w : Word) (send : Bool) : Bool :=
  let ep := epEndpoint w
  decide (ep < 0xE400) && s.coordOfNode (epNode w) != some s.ownCoord && decide (2 ≤ epVc w) && (s.coordOfNode (epNode w)).isSome && decide (epForm w < s.forms)
    && (if 0xE000 ≤ ep then
          decide (ep - 0xE000 < s.mgroups) && (s.mgMembers (ep - 0xE000)).contains s.ownNode
            && (send || (s.mgMembers (ep - 0xE000)).contains (epNode w))
        else true)
    && (!s.fabFenced 0 || !s.fabFenced 1 || s.trayMode == 1)

/-- An endpoint that START allows on its side (R83, R199). -/
def State.endpointOk (s : State) (w : Word) (dest : Bool) : Bool :=
  match epKind w with
  | 1 => decide (epLocker w < s.objLockers)
  | 2 | 3 => true
  | 4 => dest && s.benchOk (epUnit w)
  | 5 => dest && s.rowOk (epUnit w) && decide (epInput w ≤ 2)
  | 6 => true
  | 7 => s.fabricEpOk w dest
  | 8 => dest
  | _ => false

/-- A side whose items are numbered. -/
def numberedKind (k : Nat) : Bool := k == 1 || k == 2 || k == 3 || k == 8

/-- A START that is refused with STM_ILLEGAL (R197, R199, R206, R276); `unit`: a unit command supplies the source. -/
def State.startBad (s : State) (x : Stream) (unit : Bool) : Bool :=
  let sk := epKind x.src
  let dk := epKind x.dst
  !(unit || s.endpointOk x.src false) || !s.endpointOk x.dst true
    || !(if x.idxSide then numberedKind dk else !unit && numberedKind sk)
    || decide (x.count = 0 ∨ 2 ^ 24 < x.count ∨ x.addr % 4 ≠ 0)
    || decide (x.addr < s.t0Scratch ∨ s.t0Scratch + s.scratchSize < x.addr + 4 * x.count)
    || (x.st == 2 && x.armedKinds != 16 * sk + dk)

/-- The OPEN of FREE locker `l` is held for want of space (R109). -/
def State.openHeld (s : State) (l : Nat) : Bool :=
  (s.lkr l).e.st == lkFree && s.pln.held.any fun h => cLocker h.cmd == l

/-- GEN of locker `l` as a destination: that of the OPEN to come while one is held (R109). -/
def State.dstGen (s : State) (l : Nat) : Nat := ((s.lkr l).e.gen + b2n (s.openHeld l)) % 65536

/-- A LOCKER source whose GEN differs from the locker's. -/
def State.genStale (s : State) (w : Word) : Bool :=
  epKind w == 1 && decide (epGen w ≠ (s.lkr (epLocker w)).e.gen)

/-- A LOCKER destination whose GEN differs from the locker's, or from that of the OPEN held for it. -/
def State.dstStale (s : State) (w : Word) : Bool := epKind w == 1 && decide (epGen w ≠ s.dstGen (epLocker w))

/-! ## Connections and multicast (R276 to R279, R291 to R294) -/

/-- The DATA frames of satchel number `i` queued at a port (R277). -/
def State.sendSatchel (s : State) (port vc dst form ep i : Nat) (mcast : Bool) (sat : Bytes) : State :=
  let (sat, s) := s.satForPort port sat
  let n := (sat.length + 4095) / 4096
  (List.range n).foldl (fun s k =>
    (s.sendTo tData vc dst form ep ((sat.drop (4096 * k)).take 4096) (decide (k + 1 = n)) mcast
      (at_ 4 (i % 2 ^ 28) + k) (some port)).getD s) s

def State.mc (s : State) (c : Nat) : Option Mcast := (s.fab.mcast.find? (·.1 == c)).map Prod.snd
def State.setMc (s : State) (c : Nat) (m : Mcast) : State :=
  { s with fab := { s.fab with mcast := (c, m) :: s.fab.mcast.filter (·.1 != c) } }

/-- The multicast pass of context `c` over group `g` rooted at the member with node `rootNode` (R291). -/
def State.mcastFor (s : State) (g vc rootNode form rform : Nat) : Mcast :=
  let ms := s.mgMembers g
  let n := ms.length
  let r := ms.idxOf rootNode
  let j := (ms.idxOf s.ownNode + n - r) % n
  let f := s.mgFanout g
  let member (pos : Nat) : Nat := (s.coordOfNode (ms.getD ((pos + r) % n) 0)).getD 0
  let kids := ((List.range f).map fun i => j * f + 1 + i).filter (· < n)
  { group := g, vc := vc, root := member 0, rform := rform, form := form, pos := j
    parent := if j = 0 then 0 else member ((j - 1) / f), issued := 0
    children := kids.map fun p => { coord := member p, port := (s.routePort (member p) form (0xE000 + g)).getD 8
                                    acked := 0, sent := 0, attached := true, repair := none }
    detachAt := none, repairing := false, base := 0, kept := [] }

/-- A satchel of a multicast or repair sent to a member, on the port that its connection keeps (R278). -/
def State.mcSend (s : State) (m : Mcast) (x : McChild) (i : Nat) (mcast : Bool) (sat : Bytes) : State :=
  s.sendSatchel x.port m.vc x.coord m.form (0xE000 + m.group) i mcast sat

/-- A child without a port that is UP: the context halts at START (R278). -/
def Mcast.cut (m : Mcast) : Bool := m.children.any fun x => x.port == 8

/-- A port cannot take the next frame queued for VC `v`: the partner's credit or the replay buffer is used up (R283, R284). -/
def State.vcBlocked (s : State) (p v : Nat) : Bool :=
  let l := s.flink p
  match l.headOf v with
  | none => false
  | some f => !(l.creditOk v f.pay.length && replayRoom p l (hdrOff p + 44 + f.pay.length))

/-- Every attached child has acknowledged enough for satchel `m.issued` (R292). -/
def Mcast.window (m : Mcast) : Bool := m.children.all fun c => !c.attached || decide (m.issued < c.acked + 8)

/-- Satchel number `i` issued to every attached child. -/
def State.mcIssue (s : State) (c i : Nat) (sat : Bytes) : State :=
  match s.mc c with
  | none => s
  | some m =>
    let s := (m.children.filter McChild.attached).foldl (fun s x => s.mcSend m x i true sat) s
    s.setMc c { m with
      issued := i + 1
      children := m.children.map fun x => if x.attached then { x with sent := i + 1 } else x }

/-- One repair satchel sent to the first member under repair that lacks an issued one (R293). -/
def State.repairOne (s : State) (c : Nat) : State × Bool :=
  match s.mc c with
  | none => (s, false)
  | some m =>
    match m.children.find? fun x => x.repair.any fun n => decide (n < m.issued) with
    | none => (s, false)
    | some x =>
      let n := x.repair.getD 0
      let s := (s.mcSend m x n false (m.kept.getD (n - m.base) [])).incF aFabMcast 0 32 1
      (s.setMc c { m with children := m.children.map fun y =>
        if y.coord = x.coord then { y with repair := some (n + 1), sent := max y.sent (n + 1) } else y }, true)

/-- Repair satchels sent until none is due. -/
def State.repairAll : Nat → State → Nat → State
  | 0, s, _ => s
  | n + 1, s, c =>
    match s.repairOne c with
    | (s, true) => State.repairAll n s c
    | (s, false) => s

/-- A member's relay: satchels it holds go to its children as their windows allow. -/
def State.relayLoop : Nat → State → Nat → State
  | 0, s, _ => s
  | n + 1, s, c =>
    match s.mc c with
    | none => s
    | some m =>
      let i := m.issued
      if m.pos ≠ 0 ∧ m.window ∧ i < m.base + m.kept.length then
        State.relayLoop n (s.mcIssue c i (m.kept.getD (i - m.base) [])) c
      else s

/-- MACK, REPAIR_REQ, DETACH payload (Table: Multicast control payload). -/
def mcastPay (group count : Nat) : Bytes := leBytes 2 group ++ leBytes 2 0 ++ leBytes 4 count ++ leBytes 8 0

/-- The committed count told to the parent, or to the root by a repaired member (R291, R293); a detached member that
has committed the COUNT of its DETACH asks for repair. -/
def State.mcAck (s : State) (c count : Nat) : State :=
  match s.mc c with
  | none => s
  | some m =>
    if m.pos = 0 then s else
    let toRoot := m.repairing
    let coord := if toRoot then m.root else m.parent
    let form := if coord = m.root then m.rform else m.form
    let s := s.sendLossy tMack 0 coord form (0xE000 + m.group) (mcastPay m.group count)
    if m.detachAt = some count ∧ !m.repairing then
      (s.sendLossy tRepair 0 m.root m.rform (0xE000 + m.group) (mcastPay m.group count)).setMc c
        { m with repairing := true }
    else s

/-- All members this sender serves have acknowledged `count` satchels (R294). -/
def Mcast.allAcked (m : Mcast) (count : Nat) : Bool :=
  m.children.all fun x => !(x.attached || x.repair.isSome) || decide (count ≤ x.acked)

/-! ## START (R196 to R199, R206, R255, R278, R379, R423, R445) -/

/-- Engine credits of channel `ch` topped up to four. -/
def State.grantEngine (s : State) (ch : Nat) : State :=
  let n := 4 - Tab.get s.eng.granted ch
  let s := (List.range n).foldl (fun s _ => s.emit (.engCredit ch)) s
  { s with eng := { s.eng with granted := Tab.put s.eng.granted ch (Tab.get s.eng.granted ch + n) } }

/-- The first READ that waits for a pass of context `c` with locker `l` binds to the pass that starts. -/
def State.bindWaiting (s : State) (c : Nat) : State :=
  let x := s.stm c
  if epKind x.src ≠ 1 then s else
  match s.flights.find? (freeRead (epLocker x.src) c) with
  | none => s
  | some f => ({ s with flights := markBound (freeRead (epLocker x.src) c) s.flights } : State).modStm c
      fun x => { x with bound := some (f.queue, cConsume f.cmd) }

/-- The pass of context `c` begins: state RUNNING from entry 0, with the epoch, credits, connection and binding that its
endpoints need. A connection without an UP port halts the context. -/
def State.beginPass (s : State) (c : Nat) (unit : Bool) : State :=
  let x := s.stm c
  let s := s.modStm c fun x => { x with
    st := 1, cause := 0, delivered := 0, issued := 0, stop := none, ents := [], bound := none
    failed := false, fed := unit, pers := x.persist, armedKinds := 16 * epKind x.src + epKind x.dst }
  let dk := epKind x.dst
  let s := if dk = 2 ∨ dk = 3 ∨ dk = 8 then
      let (e, s) := s.takeEpoch
      s.modStm c fun x => { x with epoch := e }
    else s
  let s := if dk = 8 then
      { s with fab := { s.fab with chainDone := s.fab.chainDone.filter fun x => x.1 / 8 != c } }
    else s
  let s := if !unit ∧ epKind x.src = 6 then s.grantEngine (epChannel x.src) else s
  let s := if unit then s else s.bindWaiting c
  let s := if !unit ∧ epKind x.src = 7 then
      let r : RConn := { (default : RConn) with port := 8 }
      let s := if s.fab.rconns.any (·.1 == c) then s else
        { s with fab := { s.fab with rconns := Tab.put s.fab.rconns c r } }
      if 0xE000 ≤ epEndpoint x.src then
        s.setMc c (s.mcastFor (epEndpoint x.src - 0xE000) (epVc x.src) (epNode x.src) s.part.form (epForm x.src))
      else s
    else s
  let s := if dk = 7 ∧ 0xE000 ≤ epEndpoint x.dst then
      s.setMc c (s.mcastFor (epEndpoint x.dst - 0xE000) (epVc x.dst) s.ownNode (epForm x.dst) s.part.form)
    else s
  if (s.mc c).any Mcast.cut then s.haltCtx c evStmBusErr 7 0
  else if dk = 7 then
    if 0xE000 ≤ epEndpoint x.dst then s
    else
      let dst := (s.coordOfNode (epNode x.dst)).getD 0
      match s.routePort dst (epForm x.dst) (epEndpoint x.dst) with
      | none => s.haltCtx c evStmBusErr 7 0
      | some p =>
        let k : Conn := { port := p, dst := dst, form := epForm x.dst, ep := epEndpoint x.dst, vc := epVc x.dst, msg := 0 }
        { s with fab := { s.fab with conns := Tab.put s.fab.conns c k } }
  else s

/-- What START finds: the code it is refused with, and the state; `none`: the pass has begun or the context halted. -/
def State.startCtx (s : State) (c : Nat) (unit : Bool) : Option Nat × State :=
  let x := s.stm c
  if x.st = 1 ∨ x.st = 3 then (some evStmBusy.code, (s.logEv evStmBusy (at_ 32 c)).modStm c fun x => { x with code := evStmBusy.code })
  else if s.startBad x unit then
    (some evStmIllegal.code, (s.logEv evStmIllegal (at_ 32 c)).modStm c fun x => { x with code := evStmIllegal.code })
  else if (!unit && s.genStale x.src) || s.dstStale x.dst then
    let w := if !unit && s.genStale x.src then x.src else x.dst
    let s := (s.logEv evLkrStale (lkrErr (epLocker w) 0 0)).incF aLkrStats 16 16 1
    (some evStmIllegal.code, s.haltCtx c evStmIllegal 1 0)
  else (none, s.beginPass c unit)

/-! ## Places that reads are served from (R87, R208) -/

/-- Where a stream read of a LOCKER position is served. -/
inductive Serve where
  | at_ (place : Bool)   -- false: the run's tier; true: the destination of a move, recall or recompute
  | waits
  | fails
  deriving DecidableEq, Repr

/-- R87 for position `p` of locker `l`. -/
def State.servePos (s : State) (l p : Nat) (consuming : Bool) : Serve :=
  let x := s.lkr l
  let mv : Serve :=
    if s.posDone l p then (if consuming && decide (2 ≤ x.e.dest) then .waits else .at_ true)
    else if x.e.src = 4 then .waits
    else if consuming && decide (2 ≤ x.e.tier) then .waits
    else .at_ false
  match x.e.st with
  | 1 => if x.drop then .waits else if s.posDone l p then .at_ false else .waits
  | 2 | 5 => if consuming && decide (2 ≤ x.e.tier) then .waits else .at_ false
  | 3 => mv
  | 7 =>
    if x.e.prior = lkMoving ∧ x.e.src = 4 then mv
    else if consuming && decide (2 ≤ x.e.tier) then .waits else .at_ false
  | 4 => .waits
  | _ => .fails

/-- Whether a coded tile travels on coded to the context's destination (R223): to T2, T3 or a fabric port, and over no federation
link. -/
def State.passesCoded (s : State) (c : Nat) : Bool :=
  let x := s.stm c
  let tree := match s.mc c with
    | some m => m.children.all fun y => !isFed y.port
    | none => true
  tree && (match epKind x.dst with
    | 1 => decide (2 ≤ (let e := (s.lkr (epLocker x.dst)).e; if e.live = lkMoving then e.dest else e.tier))
    | 7 => decide (0xE000 ≤ epEndpoint x.dst) || !isFed (Tab.get s.fab.conns c).port
    | _ => false)

/-- The read of entry `ent` of context `c`, once R87 lets it be served. -/
def State.streamRd (s : State) (c i src : Nat) (dest : Bool) : TileRd :=
  let x := s.stm c
  let pass := s.passesCoded c
  match epKind x.src with
  | 1 =>
    let l := epLocker x.src
    s.lockerRd l src (if dest then s.destLoc l else s.runLoc l) (.stream c i) pass
  | k =>
    let t1 := k == 3
    let slot := epFirst x.src + src
    { use := .stream c i, tile := .window t1 slot
      loc := slotLoc (b2n t1) (s.winRegion t1) slot (if t1 then Tab.get s.sec.winEpoch slot else 0)
      own := none, fmt := 0, comp := none, anyEp := !t1, pass := pass, phase := 0 }

/-- Entry `i` of context `c` changed. -/
def State.modEntry (s : State) (c i : Nat) (f : SEnt → SEnt) : State :=
  s.modStm c fun x => { x with ents := x.ents.map fun e => if e.i = i then f e else e }

/-- The tile of entry `i` has been read, or failed a check: the context waits for the recovery (R208). -/
def State.streamGot (s : State) (c i : Nat) (rd : TileRd) (g : TileGot) : State :=
  if g.ok then s.modEntry c i fun e => { e with stage := 2, sat := satchel g.hdr g.scales g.pay }
  else (s.modEntry c i fun e => { e with stage := 0 }).beginRecovery rd

/-- Entry `e` of a context with a numbered source is read, waits under R87, or fails. -/
def State.readEntry (s : State) (c : Nat) (e : SEnt) : State :=
  let x := s.stm c
  let ask (s : State) (dest : Bool) : State :=
    let rd := s.streamRd c e.i e.src dest
    let s := s.modEntry c e.i fun e => { e with stage := 1 }
    match s.askTile rd with
    | (none, s) => s
    | (some g, s) => s.streamGot c e.i rd g
  -- records of a checkpoint are read by rows of their own (R385)
  if epKind x.src = 9 then s
  else if epKind x.src = 1 then
    match s.servePos (epLocker x.src) e.src e.consuming with
    | .at_ dest => ask s dest
    | .waits => s
    | .fails => s.haltCtx c evStmIllegal 1 e.i
  else ask s false

/-- Satchels that an unnumbered source holds for context `c`: from the engines or a unit command, or whole in the
receive buffer of its connection. -/
def State.takeSupply (s : State) (c : Nat) : Option (Bytes × State) :=
  let x := s.stm c
  if !x.fed ∧ epKind x.src = 7 then
    let r := Tab.get s.fab.rconns c
    match r.full with
    | [] => none
    | (n, b) :: rest =>
      let s := { s with fab := { s.fab with rconns := Tab.put s.fab.rconns c { r with full := rest } } }
      some (b, s.freeCells r.port (epVc x.src) n)
  else match x.supply with
  | [] => none
  | b :: rest => some (b, s.modStm c fun x => { x with supply := rest })

/-- The lowest entry that awaits a satchel of an unnumbered source takes the next one. -/
def State.fillLoop : Nat → State → Nat → State
  | 0, s, _ => s
  | n + 1, s, c =>
    let x := s.stm c
    if x.st ≠ 1 ∨ (!x.fed ∧ epKind x.src ≤ 3) then s else
    match x.ents.find? (·.stage == 1) with
    | none => s
    | some e =>
      match s.takeSupply c with
      | none => s
      | some (b, s) => State.fillLoop n (s.modEntry c e.i fun e => { e with stage := 2, sat := b }) c

def State.fill (s : State) (c : Nat) : State := State.fillLoop 17 s c

/-! ## Issue of entries (R196 to R198, R443) -/

/-- Item `n` lies inside the endpoint `w`; on the destination side a LOCKER position must still be unwritten (R197). -/
def State.itemOk (s : State) (c : Nat) (w : Word) (dest : Bool) (n : Nat) : Bool :=
  match epKind w with
  | 1 =>
    let l := epLocker w
    let e := (s.lkr l).e
    if dest then s.posWritable l n && !((s.stm c).ents.any fun x => x.dst == n)
    else decide (n < e.len) && !isComp e.fmt e.len n
  | 2 => decide (epFirst w + n < (s.winRegion false).2.1)
  | 3 => decide (epFirst w + n < (s.winRegion true).2.1)
  | 8 => decide (epFirst w + n < (s.winRegion (bitAt w 32)).2.1)
  | _ => true

/-- The destination locker of context `c` waits for its held OPEN (R109). -/
def State.dstHeld (s : State) (c : Nat) : Bool := epKind (s.stm c).dst == 1 && s.openHeld (epLocker (s.stm c).dst)

/-- STREAM_ENTRY_ISSUE: the next entry of a running context is issued when its bell and the bound of sixteen allow. -/
def State.issueEntry (s : State) (c : Nat) : State :=
  let x := s.stm c
  let i := x.issued
  if x.st ≠ 1 ∨ x.passEnd ≤ i ∨ 16 ≤ x.ents.length then s
  else if (bitAt x.ctrl 16 && decide (s.bell (fld x.ctrl 48 16) < i + 1)) || s.dstHeld c then s.modStm c fun x => { x with cause := 5 }
  else if s.t0Bad (x.addr + 4 * i) 4 then (s.logEv evSramUncorrectable 0).haltWith c evSramUncorrectable.code (epKind x.src) i
  else
    let e := leNat (s.t0Read (x.addr + 4 * i) 4)
    if e = 0xFFFFFFFF then s.modStm c fun x => { x with stop := some i }
    else
      let src := if x.idxSide then i else e
      let dst := if x.idxSide then e else i
      if !((x.fed || s.itemOk c x.src false src) && s.itemOk c x.dst true dst) then
        let k := if !(x.fed || s.itemOk c x.src false src) then epKind x.src else epKind x.dst
        s.haltCtx c evIndexRange k i
      else
        let num := !x.fed && decide (epKind x.src ≤ 3)
        let ent : SEnt := { i := i, src := src, dst := dst, stage := if num then 0 else 1
                            consuming := (x.bound.map Prod.snd).getD false, sat := [] }
        let s := s.modStm c fun x => { x with issued := i + 1, cause := 0, ents := x.ents ++ [ent] }
        if num then s.readEntry c ent else s.fill c

/-! ## Delivery (R78, R196, R199, R201, R277) -/

/-- A satchel as a tile. -/
def satTile (sat : Bytes) : TileGot :=
  let h := Hdr.read (satHdr sat)
  { ok := true, hdr := satHdr sat, scales := satScales sat, pay := satPay sat, coded := h.cmp }

/-- An entry of context `c` delivered or committed. -/
def State.delivered (s : State) (c i : Nat) : State :=
  let x := s.stm c
  let s := s.modStm c fun x => { x with delivered := x.delivered + 1, ents := x.ents.filter (·.i != i) }
  let s := if !x.fed ∧ epKind x.src = 6 then
      let ch := epChannel x.src
      let s := { s with eng := { s.eng with granted := Tab.put s.eng.granted ch (Tab.get s.eng.granted ch + 1) } }
      s.emit (.engCredit ch)
    else s
  if !x.fed ∧ epKind x.src = 7 then s.mcAck c (x.delivered + 1) else s

/-- The working copy of the form that a satchel of context `c` carries, as 1 + piece · 2^24 + tile; zero for any other tile. -/
def State.copyOf (s : State) (c : Nat) (h : Hdr) : Nat :=
  let p := h.owner % 2 ^ 18
  let nc := ((s.pcRows p + 127) / 128) * ((s.pcCols p + 127) / 128)
  if h.prov = 3 ∧ h.owner / 2 ^ 18 = s.part.form ∧ p < s.mkPieces ∧ h.fmt = s.pcFmt p ∧ h.pos < nc ∧ epKind (s.stm c).src ≠ 7 then
    1 + p * 2 ^ 24 + h.pos else 0

/-- A satchel written to slot `slot` of a weight window under an epoch (R78); the flag says that it is committed at once. -/
def State.toWindow (s : State) (use : WrUse) (c : Nat) (cls : Cls) (slot epoch : Nat) (t1 : Bool) (sat : Bytes) : Bool × State :=
  let g := satTile sat
  let s : State := { s with sec := { s.sec with
    winScales := Tab.put s.sec.winScales (2 * slot + b2n t1) g.scales
    winOrig := Tab.put s.sec.winOrig (2 * slot + b2n t1) (s.copyOf c (Hdr.read g.hdr)) } }
  let loc := slotLoc (b2n t1) (s.winRegion t1) slot epoch
  let ((h, pay), s) := s.forSlot loc.tier (slot + at_ 18 s.part.form) 0 g
  let t := sealTile s loc h pay
  let r := s.writePay use c cls loc t.1 t.2 0 false
  if r.1 then (true, (r.2.writeHead use c cls loc t.1).2) else r

/-- Entry `i` of context `c` written to slot `slot` of a weight window. -/
def State.writeWindow (s : State) (c i slot : Nat) (t1 : Bool) (sat : Bytes) : State :=
  let r := s.toWindow (.window c i slot) c .write slot (s.stm c).epoch t1 sat
  if r.1 then r.2.delivered c i else r.2

/-! ### The weight chain (R201, R202) -/

/-- The directions of the weight chain in which this form has a neighbour. -/
def State.chainDirs (s : State) : List Nat :=
  let ord := s.chainOrder
  let k := ord.idxOf s.part.form
  (if k + 1 < ord.length then [0] else []) ++ (if 0 < k ∧ k < ord.length then [1] else [])

/-- A chain satchel loaded into the stationary store of the form's unfenced benches, from bench 0 upwards. -/
def State.benchLoad (s : State) (sat : Bytes) : State :=
  ((List.range 4).filter s.benchOk).foldl (fun s b =>
    { s with bnc := { s.bnc with stat := Tab.put s.bnc.stat b (Tab.get s.bnc.stat b ++ [sat]) } }) s

/-- A satchel on its way to the next neighbour in direction `dir`: sent, or kept in order until the neighbour gives credit. -/
def State.chainSend (s : State) (dir form ctx slot : Nat) (t1 load : Bool) (sat : Bytes) : State :=
  if !s.chainDirs.contains dir then s
  else if s.fab.chainHold.contains dir then
    { s with fab := { s.fab with chainWait := s.fab.chainWait ++ [.chain dir form ctx slot t1 load sat] } }
  else s.emit (.chain dir form ctx slot t1 load sat)

/-- A satchel that context `ctx` of form `form` sent: checked by R78, stored as REMOTE traffic under an epoch of its own, loaded and
forwarded on the same side; a failing one is neither, and its sender is told (log 86). -/
def State.chainIn (s : State) (ctx form slot : Nat) (t1 load : Bool) (sat : Bytes) : State :=
  let ord := s.chainOrder
  if !(ord.contains form) || !(ord.contains s.part.form) || form == s.part.form then s
  else if !satOk sat none then
    (s.logEv evSatchelBad (at_ 32 ctx + s.part.form)).emit (.chainTell form ctx false)
  else
    let dir := if ord.idxOf form < ord.idxOf s.part.form then 0 else 1
    let s := if load then s.benchLoad sat else s
    let s := s.chainSend dir form ctx slot t1 load sat
    let (e, s) := s.takeEpoch
    let r := s.toWindow (.chain ctx form slot) ctx .remote slot e t1 sat
    if r.1 then r.2.emit (.chainTell form ctx true) else r.2

/-- A chain satchel of another form is committed here: its epoch is recorded, and its sender is told. -/
def State.chainWrote (s : State) (ctx form slot epoch : Nat) : State :=
  { s with sec := { s.sec with winEpoch := Tab.put s.sec.winEpoch slot epoch } }.emit (.chainTell form ctx true)

/-- The neighbour in direction `dir` gives credit or takes it away; what waits for it goes on. -/
def State.chainCredit (s : State) (dir : Nat) (given : Bool) : State :=
  let mine (o : PortOut) : Bool := match o with
    | .chain d _ _ _ _ _ _ => d == dir
    | _ => false
  if given then
    let go := s.fab.chainWait.filter mine
    go.foldl State.emit { s with fab := { s.fab with
      chainHold := s.fab.chainHold.filter (· != dir), chainWait := s.fab.chainWait.filter fun o => !mine o } }
  else { s with fab := { s.fab with chainHold := dir :: s.fab.chainHold.filter (· != dir) } }

/-- Another form tells of a satchel of context `c`: committed, or failed; a failure halts the context with that code. -/
def State.chainTold (s : State) (c form : Nat) (ok : Bool) : State :=
  let n := Tab.get s.fab.chainDone (8 * c + form)
  if !(s.stm c).running || epKind (s.stm c).dst != 8 then s
  else if ok then { s with fab := { s.fab with chainDone := Tab.put s.fab.chainDone (8 * c + form) (n + 1) } }
  else s.haltCtx c evSatchelBad 8 n form

/-- Every other form of the chain has committed what context `c` has delivered (R202). -/
def State.chainOver (s : State) (c : Nat) : Bool :=
  s.chainOrder.all fun f => f == s.part.form || Tab.get s.fab.chainDone (8 * c + f) == (s.stm c).delivered

/-- What the weight chain brings (R201, R202). -/
def State.chainStep (s : State) (m : Sys2Proof.ChainMsg) : State :=
  match m with
  | .own _ => s
  | .satchel c form slot t1 load sat => s.chainIn c.toNat form.toNat slot.toNat t1 load sat
  | .committed c form => s.chainTold c.toNat form.toNat true
  | .failed c form => s.chainTold c.toNat form.toNat false
  | .credit up given => s.chainCredit (b2n up) given

/-- The header of a window tile has been written: the tile is committed and its epoch recorded (R379). -/
def State.windowWrote (s : State) (c i slot : Nat) (epoch : Nat) : State :=
  let s := { s with sec := { s.sec with winEpoch := Tab.put s.sec.winEpoch slot epoch } }
  if (s.stm c).running then s.delivered c i else s

/-- The destination gives credit (R207): a FABRIC one while its port's link buffer and the partner can take the frames queued
there, and a multicast one by R292 too; an ENGINE one by its credits; a CHAIN one while both neighbours do (R202). The spec gives
the other destinations no bound (log 85). -/
def State.destReady (s : State) (c : Nat) : Bool :=
  let x := s.stm c
  match epKind x.dst with
  | 6 => decide (0 < Tab.get s.eng.credit (epChannel x.dst))
  | 7 =>
    if 0xE000 ≤ epEndpoint x.dst then
      (match s.mc c with
      | some m => m.window && !(m.children.any fun y => y.attached && s.vcBlocked y.port m.vc)
      | none => true)
    else !s.vcBlocked (Tab.get s.fab.conns c).port (epVc x.dst)
  | 8 => !(s.chainDirs.any s.fab.chainHold.contains)
  | _ => true

/-- FORMAT that the destination requires. -/
def State.destFmt (s : State) (c : Nat) : Option Nat :=
  let x := s.stm c
  if epKind x.dst = 1 then some (s.lkr (epLocker x.dst)).e.fmt else none

/-- A checked satchel delivered to the destination of context `c`. -/
def State.deliver (s : State) (c : Nat) (e : SEnt) : State :=
  let x := s.stm c
  let s := s.modEntry c e.i fun e => { e with stage := 3, sat := [] }
  -- a multicast member keeps its copy for its children
  let s := match s.mc c with
    | some m => if epKind x.src = 7 ∧ !x.fed then s.setMc c { m with kept := m.kept ++ [e.sat] } else s
    | none => s
  let s := match epKind x.dst with
    | 1 => s.storeLocker (epLocker x.dst) e.dst c (satTile e.sat)
    | 2 => s.writeWindow c e.i (epFirst x.dst + e.dst) false e.sat
    | 3 => s.writeWindow c e.i (epFirst x.dst + e.dst) true e.sat
    | 8 =>
      let slot := epFirst x.dst + e.dst
      let t1 := bitAt x.dst 32
      let load := bitAt x.dst 33
      let s := (s.chainSend 0 s.part.form c slot t1 load e.sat).chainSend 1 s.part.form c slot t1 load e.sat
      let s := if load then s.benchLoad e.sat else s
      s.writeWindow c e.i slot t1 e.sat
    | 4 | 5 => (s.modStm c fun x => { x with inbox := x.inbox ++ [e.sat] }).delivered c e.i
    | 6 =>
      let ch := epChannel x.dst
      let s := { s with eng := { s.eng with credit := Tab.put s.eng.credit ch (Tab.get s.eng.credit ch - 1) } }
      (s.emit (.engSatchel ch e.sat)).delivered c e.i
    | _ =>
      match s.mc c with
      | some m =>
        if 0xE000 ≤ epEndpoint x.dst then
          let s := (s.setMc c { m with kept := m.kept ++ [e.sat] }).mcIssue c e.i e.sat
          ((s.repairOne c).1).delivered c e.i
        else s
      | none =>
        let k := Tab.get s.fab.conns c
        let s := s.sendSatchel k.port k.vc k.dst k.form k.ep k.msg false e.sat
        let s := { s with fab := { s.fab with conns := Tab.put s.fab.conns c { k with msg := k.msg + 1 } } }
        s.delivered c e.i
  State.relayLoop 16 s c

/-- The next satchel of context `c` in index order, when it is ready and its destination can take it. -/
def State.nextReady (s : State) (c : Nat) : Option SEnt :=
  let x := s.stm c
  if x.st ≠ 1 then none else
  match x.ents.find? (·.stage != 3) with
  | none => none
  | some e => if e.stage = 2 && s.destReady c then some e else none

/-- SATCHEL_RECEIVE: the destination checks the next satchel (R78) and stores or takes it. -/
def State.satchelReceive (s : State) (c : Nat) : State :=
  match s.nextReady c with
  | none => s
  | some e =>
    if satOk e.sat (s.destFmt c) then s.deliver c e
    else s.haltCtx c evSatchelBad (epKind (s.stm c).dst) e.i s.part.form

/-! ## What goes on by itself -/

/-- Entries whose LOCKER destination position has been committed leave the context (R73, R196). -/
def State.commitEntries (s : State) : State :=
  s.stms.foldl (fun s cx =>
    let c := cx.1
    let x := s.stm c
    if x.st = 1 ∧ epKind x.dst = 1 then
      let l := epLocker x.dst
      let k := (s.lkr l).e
      let open_ := k.live == lkOpen || (k.live == lkMoving && k.src == 4)
      let fin := x.ents.filter fun e => e.stage == 3 && k.st != lkFree && (!open_ || s.posDone l e.dst)
      fin.foldl (fun s e => s.delivered c e.i) s
    else s) s

/-- Entries that wait under R87 and can be served now are read. -/
def State.serveWaits (s : State) : State :=
  s.stms.foldl (fun s cx =>
    let c := cx.1
    let waits := ((s.stm c).ents.filter fun e => e.stage == 0
      && !(s.err.recov.any fun r => r.waiters.any fun u => u == .stream c e.i))
    waits.foldl (fun s e => if (s.stm c).running then s.readEntry c e else s) s) s

/-- Lockers whose reads and moves have ended are released (R84). -/
def State.settleAll (s : State) : State :=
  s.lkrs.foldl (fun s x => if x.2.rel || x.2.e.st == lkConsumed then s.settleLkr x.1 else s) s

/-- The directory and the stream engine go on as far as the last event lets them. -/
def State.stir (s : State) : State :=
  (((s.pumpMovers).commitEntries).serveWaits).settleAll.commitEntries.pump

/-! ## The end of a pass (R206, R445) -/

/-- Context `c` has delivered its last entry. -/
def State.passOver (s : State) (c : Nat) : Bool :=
  let x := s.stm c
  x.st == 1 && x.ents.isEmpty && decide (x.passEnd ≤ x.issued) && (epKind x.dst != 8 || s.chainOver c) && (match s.mc c with
    | some m => m.allAcked x.delivered
    | none => true)

/-- The pass ends: IDLE, or ARMED for a persistent context; the STREAM command and the bound READ complete. -/
def State.endPass (s : State) (c : Nat) : State :=
  let x := s.stm c
  let s := match s.mc c with
    | some m => if m.repairing then s.logEv evMcastRepaired (fabErr 0 0 m.root m.group) else s
    | none => s
  let s := match x.runBy with
    | none => s
    | some q => s.finish q fun f => cOp f.cmd == 0x30 && sCtx f.cmd == c
  let s := match x.bound with
    | none => s
    | some (q, consume) =>
      let s := s.finish q fun f => cOp f.cmd == 0x13 && f.bound && cStream f.cmd == c
      if consume then s.consumeRead (epLocker x.src) else s
  -- a persistent receiver keeps its connection (R287); all others close theirs
  let s := if x.pers then { s with fab := { s.fab with
      conns := Tab.put s.fab.conns c default, mcast := s.fab.mcast.filter (·.1 != c) } }
    else s.closeConns c
  s.modStm c fun x => { x with
    st := if x.pers then 2 else 0, cause := 0, runBy := none, bound := none, fed := false }

def State.streamPassEnd (s : State) (c : Nat) : State := if s.passOver c then (s.endPass c).stir else s

/-- A unit command hands an output tile to its output context, which starts when it is IDLE or ARMED (R337, log 21). -/
def State.feed (s : State) (c : Nat) (sat : Bytes) : State :=
  let s := if (s.stm c).st = 0 ∨ (s.stm c).st = 2 then (s.startCtx c true).2 else s
  if (s.stm c).running then (s.modStm c fun x => { x with supply := x.supply ++ [sat] }).fill c else s

/-! ## Software and the tutor -/

/-- Writable bits of STM_CTRL. -/
def stmCtrlMask : Word := 0xFFFF000000010030#64

/-- A write of STM_CTRL with START (R206, R209). -/
def State.hostStmStart (s : State) (c : Nat) (v : Word) : State :=
  if bitAt v 1 then (s.logEv evStmIllegal (at_ 32 c)).modStm c fun x => { x with code := evStmIllegal.code }
  else
    let s := s.modStm c fun x => { x with ctrl := v &&& stmCtrlMask }
    (s.startCtx c false).2.stir

/-- A write of STM_CTRL with ABORT (R206, R209, R444): the commands that run on the context end with STM_ABORTED. -/
def State.hostStmAbort (s : State) (c : Nat) : State :=
  let s := match (s.stm c).runBy with
    | none => s
    | some q =>
      let s := (s.logEv evStmAborted (at_ 32 c)).modStm c fun x => { x with code := evStmAborted.code }
      s.failFlight q evStmAborted.code fun f => cOp f.cmd == 0x30 && sCtx f.cmd == c
  let s := match (s.stm c).bound with
    | none => s
    | some (q, _) => s.failFlight q evStmAborted.code fun f => cOp f.cmd == 0x13 && f.bound && cStream f.cmd == c
  (s.idleCtx c).stir

/-- The registers that a STREAM command writes (Table: STREAM operands); CURGEN takes the lockers' GEN (R255). -/
def State.streamRegs (s : State) (c : Cmd) : Word × Word × Word × Word :=
  let m := sMode c
  let ctrl := word (at_ 48 (sBell c) + at_ 16 (m / 4 % 2) + at_ 5 (m % 2) + at_ 4 (m / 2 % 2))
  let gen (w : Word) (g : Nat → Nat) : Word :=
    if cCurgen c && epKind w == 1 then setFld w 0 16 (g (epLocker w)) else w
  (ctrl, word (at_ 32 (sCount c) + sAddr c % 2 ^ 27), gen (word (sSrc c)) fun l => (s.lkr l).e.gen, gen (word (sDst c)) s.dstGen)

/-- The STREAM command of queue `q`. -/
def State.streamCmd (s : State) (q : Nat) : State :=
  match s.issuedTo q 0x30 with
  | none => s
  | some (cmd, _) =>
    let c := sCtx cmd
    let x := s.stm c
    if x.st = 1 ∨ x.st = 3 then
      ((s.logEv evStmBusy (at_ 32 c)).modStm c fun x => { x with code := evStmBusy.code }).stopQueue q evStmBusy.code
    else
      let r := s.streamRegs cmd
      let s := s.modStm c fun x => { x with ctrl := r.1, index := r.2.1, src := r.2.2.1, dst := r.2.2.2 }
      let y := s.stm c
      if s.startBad y false || s.genStale y.src || s.dstStale y.dst then (s.startCtx c false).2.stopQueue q evStmIllegal.code
      else
        let s := (s.acceptCmd q false).modStm c fun x => { x with runBy := some q }
        (s.startCtx c false).2.stir

/-! ## The commands -/

/-- Contexts beyond the set's limit are holes (R436). -/
def State.withCtx (s : State) (c : Nat) (t : State) : State := if c < limStreams s.part.set then t else s.hostHole

def execStmStart (c : BitVec 12) (v : Word) (s : State) : Res :=
  .next (s.hostWrites ((s.withCtx c.toNat (s.hostStmStart c.toNat v)).wake))
def execStmAbort (c : BitVec 12) (s : State) : Res :=
  .next (s.hostWrites ((s.withCtx c.toNat (s.hostStmAbort c.toNat)).wake))
def execStreamPassEnd (c : BitVec 12) (s : State) : Res := .next (s.streamPassEnd c.toNat)

end Sys2Proof.Machine
end

