-- ==== Sys2Proof/Machine/Fabric.lean ====
section
/-! DEFINITION. Connections on the receiving side and multicast control (R276 to R279, R287, R291 to R294): what DATA, MACK,
MCAST_DETACH, DETACH and REPAIR_REQ do; the commands themselves stand in FabRows.lean. -/

namespace Sys2Proof.Machine

/-- A received frame of one row: checked by R287; a frame of another type is left to its own row. A frame that passes is
given to `f` with its header and plain payload. -/
def State.onFrame (s : State) (p typ : Nat) (fr : Bytes) (bad : Bool) (f : WHdr → Bytes → State → State) : State :=
  match s.receive p fr bad with
  | .drop s' => s'
  | .got h pay s' => if h.typ = typ then f h pay s' else s

/-- A sequenced frame whose content is consumed at once: its cells go back (R284). -/
def State.consumed (s : State) (p : Nat) (h : WHdr) : State := s.freeCells p h.vc (cellsOf h.len)

/-- A frame accepted at link level whose content is discarded with a violation (step 5 of Table: Receive checks). -/
def State.refuseFrame (s : State) (p reason : Nat) (h : WHdr) : State :=
  (s.consumed p h).violation p reason 2 h.lsn h true

/-! ## DATA -/

/-- The frame belongs to the connection that context `c` accepts (R276, R291). -/
def State.acceptsConn (s : State) (c : Nat) (h : WHdr) : Bool :=
  let x := s.stm c
  (x.st == 1 || x.st == 2) && epKind x.src == 7 && !x.fed && epEndpoint x.src == h.ep && epVc x.src == h.vc
    && (if 0xE000 ≤ h.ep then
          -- a pass in progress keeps the tree with which it started (R296)
          let m := (s.mc c).getD (s.mcastFor (h.ep - 0xE000) h.vc (epNode x.src) s.part.form (epForm x.src))
          (h.src == m.parent && h.sform == (if m.parent = m.root then m.rform else m.form))
            || (h.src == m.root && h.sform == m.rform)
        else s.coordOfNode (epNode x.src) == some h.src && epForm x.src == h.sform)

/-- The receiving context of a DATA frame. -/
def State.receiverOf (s : State) (h : WHdr) : Option Nat := (s.stms.map Prod.fst).find? fun c => s.acceptsConn c h

/-- A whole satchel that has arrived for context `c` at port `p`: coded ones are checked and expanded or passed on by the
port's expander (R223, R232); the satchel waits in the receive buffer. -/
def State.satArrived (s : State) (c p cells : Nat) (sat : Bytes) : State :=
  let put (s : State) (b : Bytes) : State :=
    let r := Tab.get s.fab.rconns c
    let s := { s with fab := { s.fab with rconns := Tab.put s.fab.rconns c { r with full := r.full ++ [(cells, b)] } } }
    (s.fill c).stir
  match s.satExpanded p (s.passesCoded c) sat with
  | (some b, s) => put s b
  | (none, t) =>
    -- the code that the expander logged stands in CMP_ERR; an ARMED context that holds the connection halts too (R233)
    (t.freeCells p (epVc (s.stm c).src) cells).haltWith c (t.regF aCmpErr 48 16) 7 (t.nextSupplied c)

/-- A DATA frame of context `c`'s connection (R277). -/
def State.dataFor (s : State) (c p : Nat) (h : WHdr) (pay : Bytes) : State :=
  let x := s.stm c
  let r := Tab.get s.fab.rconns c
  let first := r.part.isEmpty && r.idx == 0
  let r := if first then { r with port := p } else r
  if h.msg ≠ at_ 4 (r.msg % 2 ^ 28) + r.idx then s.refuseFrame p 0xA h
  else
    let n := cellsOf h.len
    let part := r.part ++ pay
    if h.last then
      let next := if r.msg + 1 = x.passEnd then 0 else r.msg + 1
      let r' := { r with part := [], msg := next, idx := 0, cells := 0 }
      let s := { s with fab := { s.fab with rconns := Tab.put s.fab.rconns c r' } }
      s.satArrived c p (r.cells + n) part
    else
      let r' := { r with part := part, idx := r.idx + 1, cells := r.cells + n }
      { s with fab := { s.fab with rconns := Tab.put s.fab.rconns c r' } }

/-- A DATA frame that passed the receive checks. State fetches have a row of their own; what arrives on 0xE401 is the
recovery logic's, whose attempt ends by its own row (log 22). -/
def State.dataIn (s0 : State) (p : Nat) (h : WHdr) (pay : Bytes) (s : State) : State :=
  if h.ep = 0xE400 then s0
  else if h.ep = 0xE401 then (if s.serviceLevel = 0 then s.refuseFrame p 8 h else s.consumed p h)
  else match s.receiverOf h with
  | none => s.refuseFrame p 8 h
  | some c => s.dataFor c p h pay

def State.dataFrame (s : State) (p : Nat) (fr : Bytes) (bad : Bool) : State := s.onFrame p tData fr bad (s.dataIn p)

/-! ## Multicast control -/

/-- The context that sends group `g` to a child or member at `coord`. -/
def State.mcSender (s : State) (g : Nat) : Option Nat :=
  (s.fab.mcast.find? fun x => x.2.group == g).map Prod.fst

/-- A MACK: the child's acknowledged count rises, and what it held back goes on (R292). A count for no pass in progress
is ignored. -/
def State.mackIn (s : State) (p : Nat) (h : WHdr) (pay : Bytes) : State :=
  let s := s.consumed p h
  match s.mcSender (leAt pay 0 2) with
  | none => s
  | some c =>
    match s.mc c with
    | none => s
    | some m =>
      let n := leAt pay 4 4
      let s := s.setMc c { m with children := m.children.map fun x =>
        if x.coord = h.src then { x with acked := max x.acked n } else x }
      let s := State.relayLoop 16 s c
      -- while a tree satchel is ready too, the next repair satchel goes with it (R293)
      if (s.nextReady c).isSome then s else State.repairAll 4096 s c

/-- The next satchel that this sender would issue is at hand. -/
def State.treeReady (s : State) (c : Nat) : Bool :=
  match s.mc c with
  | none => false
  | some m =>
    if m.pos = 0 then (s.stm c).ents.any fun e => e.i == m.issued && e.stage == 2
    else decide (m.issued < m.base + m.kept.length)

/-- DETACH_US without progress: every attached child that blocks is detached and told the count sent to it (R292). -/
def State.mcastDetach (s : State) (c : Nat) : State :=
  match s.mc c with
  | none => s
  | some m =>
    if m.window || !s.treeReady c then s
    else
      let gone := m.children.filter fun x => x.attached && decide (x.acked + 8 ≤ m.issued)
      let s := gone.foldl (fun s x =>
        ((s.logEv evMcastDetach (fabErr 0 0 x.coord m.group)).incF aFabMcast 32 32 1).sendLossy tDetach 0 x.coord m.form (0xE000 + m.group)
          (mcastPay m.group x.sent)) s
      let f (x : McChild) : McChild := if gone.contains x then { x with attached := false } else x
      State.relayLoop 16 (s.setMc c { m with children := m.children.map f }) c

/-- A DETACH: the member asks the root for repair once it has committed COUNT (R293). -/
def State.detachIn (s : State) (p : Nat) (h : WHdr) (pay : Bytes) : State :=
  let s := s.consumed p h
  match s.mcSender (leAt pay 0 2) with
  | none => s
  | some c =>
    match s.mc c with
    | none => s
    | some m =>
      let n := leAt pay 4 4
      if m.pos = 0 ∨ m.detachAt.isSome then s
      else
        let s := s.setMc c { m with detachAt := some n }
        if (s.stm c).delivered = n then
          (s.sendLossy tRepair 0 m.root m.rform (0xE000 + m.group) (mcastPay m.group n)).setMc c
            { m with detachAt := some n, repairing := true }
        else s

/-- A REPAIR_REQ at the root: the missing satchels go out by unicast, one for each tree satchel while both are ready
(R293). -/
def State.repairIn (s : State) (p : Nat) (h : WHdr) (pay : Bytes) : State :=
  let s := s.consumed p h
  match s.mcSender (leAt pay 0 2) with
  | none => s
  | some c =>
    match s.mc c with
    | none => s
    | some m =>
      let n := leAt pay 4 4
      if m.pos ≠ 0 then s
      else
        let others := m.children.filter fun x => x.coord != h.src
        let port := match (m.children.find? fun x => x.coord == h.src).map McChild.port with
          | some p => some p
          | none => s.routePort h.src m.form (0xE000 + m.group)
        match port with
        | none => s.haltCtx c evStmBusErr 7 (s.failingEntry c 7)
        | some port =>
          let s := s.setMc c { m with
            children := others ++ [{ coord := h.src, port := port, acked := n, sent := n, attached := false, repair := some n }] }
          if (s.nextReady c).isSome then s else State.repairAll 4096 s c

end Sys2Proof.Machine
end

