-- ==== Sys2Proof/Machine/Tick.lean ====
section
/-! DEFINITION. One hall-clock cycle with no command waiting (log 4): the uptime counter, the planner's clock (R99), the
Philox output registers (R143). -/

namespace Sys2Proof.Machine

/-- SEED of the NUMERICS section in force. -/
def State.seed (s : State) : Nat := s.sf tyNumerics 0 8

/-- The Philox output registers follow the SEED in force and the counter registers (R143). -/
def State.philoxOut (s : State) : State :=
  let lo := s.reg aBncPhiloxLo
  let hi := s.reg aBncPhiloxHi
  let x := philox s.seed (fld lo 0 32) (fld lo 32 32) (fld hi 0 32) (fld hi 32 32)
  let s := s.setReg aBncOutLo (word (at_ 32 x.2.1 + x.1))
  let s := s.setReg aBncOutHi (word (at_ 32 x.2.2.2 + x.2.2.1))
  { s with bnc := { s.bnc with philoxDue := false } }

/-- The clocks that advance in every hall-clock cycle. -/
def State.clocks (s : State) : State :=
  { s with
    hall := s.hall + 1
    pln := { s.pln with clock := s.pln.clock.map (· + 1) } }

/-- One hall-clock cycle. -/
def State.tick (s : State) : State :=
  let s := if s.bnc.philoxDue then s.philoxOut else s
  s.clocks

end Sys2Proof.Machine
end

