-- ==== Sys2Proof/Machine/Groups.lean ====
section
/-! DEFINITION. The group table of the ROSTER section (R298 to R300): regions, instances, replica groups. A group's members
are roster indices. -/

namespace Sys2Proof.Machine

/-- First byte of the group table (Table: ROSTER section), and of entry `e`. -/
def State.grTable (s : State) : Nat := s.sf tyRoster 4 4
def State.grCount (s : State) : Nat := s.sf tyRoster s.grTable 2
/-- A field of group entry `e`. -/
def State.gr (s : State) (e off n : Nat) : Nat := s.sf tyRoster (s.grTable + 16 + 16 * e + off) n
def State.grList (s : State) (e : Nat) : Bool := s.gr e 0 1 % 2 == 1
def State.grReplica (s : State) (e : Nat) : Bool := s.gr e 0 1 / 2 % 2 == 1

/-- RACK, TRAY and SLOT of roster entry `i`. -/
def State.rackOf (s : State) (i : Nat) : Nat := s.rosterAt i 2 2
def State.trayOf (s : State) (i : Nat) : Nat := s.rosterAt i 4 1
def State.slotOf (s : State) (i : Nat) : Nat := s.rosterAt i 5 1

/-- Package `i` lies in the region, or in the list, of entry `e` (R298). -/
def State.grHas (s : State) (e i : Nat) : Bool :=
  if s.grList e then
    let n := let m := s.gr e 2 2; if m = 0 then 65536 else m
    (List.range n).any fun k => s.sf tyRoster (s.gr e 0xC 4 + 2 * k) 2 == s.rosterAt i 0 2
  else
    let inR (v lo n : Nat) : Bool := decide (lo ≤ v ∧ v < lo + n)
    inR (s.rackOf i) (s.gr e 2 2) (s.gr e 4 2) && inR (s.trayOf i) (s.gr e 6 1) (s.gr e 7 1)
      && inR (s.slotOf i) (s.gr e 8 1) (s.gr e 9 1)

/-- The instance of entry `e` that holds package `i`, in ascending COORD (R272, R298). -/
def State.grInstance (s : State) (e i : Nat) : List Nat :=
  let v := s.gr e 1 1
  let same (j : Nat) : Bool :=
    s.grList e || ((v % 2 == 1 || s.slotOf j == s.slotOf i) && (v / 2 % 2 == 1 || s.trayOf j == s.trayOf i)
      && (v / 4 % 2 == 1 || s.rackOf j == s.rackOf i))
  if s.grHas e i then sortBy s.coordOf ((List.range s.packages).filter fun j => s.grHas e j && same j) else []

/-- The entry of the replica group of package `i` (R299). -/
def State.replicaEntry (s : State) (i : Nat) : Option Nat :=
  (List.range s.grCount).find? fun e => s.grReplica e && s.grHas e i

/-- The members of the group that `code` names for package `i` (Table: Group codes); empty when the package is not in it. -/
def State.grMembers (s : State) (code i : Nat) : List Nat :=
  if code = 0xFFF then
    match s.replicaEntry i with
    | some e => s.grInstance e i
    | none => [i]
  else if code = 0xFFE then sortBy s.coordOf (List.range s.packages)
  else if code = 0xFFD then [i]
  else if code < s.grCount then s.grInstance code i
  else []

/-- The form is the slot-1 form of the gradients it stages (R29): its package has the lowest COORD of its replica group. -/
def State.slotOneForm (s : State) : Bool :=
  match s.ownEntry with
  | none => true
  | some i => (s.grMembers 0xFFF i).head? == some i

end Sys2Proof.Machine
end

