-- ==== Sys2Proof/Machine/Staging.lean ====
section
/-! DEFINITION. Staging runs (R174 to R177, R380): allocation, additions and writes of staged values, their tiles and the
seal. -/

namespace Sys2Proof.Machine

/-! ## Geometry of a piece (R168, R169) -/

/-- Columns and rows of sweep blocks, 128 × 256 elements each. -/
def State.pcBc (s : State) (p : Nat) : Nat := (s.pcCols p + 255) / 256
def State.pcBr (s : State) (p : Nat) : Nat := (s.pcRows p + 127) / 128
/-- Nm of R168, the number of sweep blocks. -/
def State.pcNm (s : State) (p : Nat) : Nat := s.pcBr p * s.pcBc p
/-- Master tiles: grid rows and columns, and Nw. -/
def State.pcWr (s : State) (p : Nat) : Nat := (s.pcRows p + 63) / 64
def State.pcWc (s : State) (p : Nat) : Nat := (s.pcCols p + 127) / 128
def State.pcNw (s : State) (p : Nat) : Nat := s.pcWr p * s.pcWc p

/-- The master tiles of sweep block `b`, as grid row and column, in block order. -/
def State.blockTiles (s : State) (p b : Nat) : List (Nat × Nat) :=
  let i := b / s.pcBc p
  let j := b % s.pcBc p
  [(2 * i, 2 * j), (2 * i, 2 * j + 1), (2 * i + 1, 2 * j), (2 * i + 1, 2 * j + 1)].filter fun t =>
    decide (t.1 < s.pcWr p ∧ t.2 < s.pcWc p)

/-- Master tiles of the sweep blocks from `b`, `n` of them, in block order. -/
def State.runTiles (s : State) (p b n : Nat) : List (Nat × Nat) :=
  (List.range n).flatMap fun i => s.blockTiles p (b + i)

/-- The number of the first master tile of sweep block `b` in block order. -/
def State.blockFirst (s : State) (p b : Nat) : Nat := ((List.range b).map fun i => (s.blockTiles p i).length).sum

/-- Valid rows and columns of the master tile at grid place `t`. -/
def State.tileCorner (s : State) (p : Nat) (t : Nat × Nat) : Nat × Nat :=
  (min 64 (s.pcRows p - 64 * t.1), min 128 (s.pcCols p - 128 * t.2))

/-! ## Runs -/

def State.stageRun (s : State) (id : Nat) : Option StageRun := s.mkr.runs.find? (·.id == id)
def State.modRun (s : State) (id : Nat) (f : StageRun → StageRun) : State :=
  { s with mkr := { s.mkr with runs := s.mkr.runs.map fun r => if r.id = id then f r else r } }

/-- Slot of tile `t` of a run with a place, under epoch `e`. -/
def State.stageLoc (s : State) (r : StageRun) (t e : Nat) : Loc :=
  match r.place with
  | some (2, f) => slotLoc 2 s.spillRegion (f + t) e
  | some (tier, f) => slotLoc tier (s.lkrRegion tier) (f + t) e
  | none => default

/-- F(a, e) of R380. -/
def State.sealF (s : State) (loc : Loc) (e : Nat) : Word :=
  cmac s.sec.km (leBytes 1 (loc.tier + 0x80) ++ leBytes 7 0 ++ leBytes 8 loc.pay ++ leBytes 8 e)

/-- The payload of staged tile `t`: its 8,192 values. -/
def StageRun.payload (r : StageRun) (t : Nat) : Bytes :=
  (List.range 8192).flatMap fun i => leBytes 4 (Tab.get r.sums (8192 * t + i)).toNat

/-- Tile `t` of run `id` written to its slot with a new epoch and the seal advanced (R380). -/
def State.stageWrite (s : State) (id t : Nat) : State :=
  match s.stageRun id with
  | none => s
  | some r =>
    if r.place.isNone then s else
    let (e, s) := s.takeEpoch
    let loc := s.stageLoc r t e
    let old := Tab.get r.epochs t
    let sl := r.sealv ^^^ s.sealF loc e ^^^ (if old = 0 then 0 else s.sealF loc old)
    let s := s.modRun id fun r => { r with epochs := Tab.put r.epochs t e, sealv := sl }
    let c := s.tileCorner r.piece ((s.runTiles r.piece r.first r.blocks).getD t (0, 0))
    let h : Hdr := { fmt := 0, kind := 0, shape := 1, mode := 0, cmp := false, nocode := false, prov := 1, vrows := c.1
                     vcols := c.2, cmpLen := 0, desc := 0, epoch := 0, owner := 0, pos := 0, mac := 0 }
    let g : TileGot := { ok := true, hdr := h.bytes, scales := [], pay := r.payload t, coded := false }
    let ((h, pay), s) := s.forSlot loc.tier (r.piece + at_ 18 s.part.form) t g
    let w := sealTile s loc h pay
    (s.writePay (.stage id t) 4112 .write loc w.1 w.2 0 false).2

/-- Every tile of a run written: it has just been placed. -/
def State.stageWriteAll (s : State) (id : Nat) : State :=
  match s.stageRun id with
  | none => s
  | some r => (List.range r.tiles).foldl (fun s t => s.stageWrite id t) s

/-- A run of the step `r.step` placed in a tier, for MKR_STAGE; older steps are forgotten. -/
def State.notePlaced (s : State) (r : StageRun) (tier : Nat) : State :=
  let now := s.stepCtr.toNat
  { s with mkr := { s.mkr with
    placed := (s.mkr.placed.filter fun p => p.1 == now || p.1 == (now + 1) % 2 ^ 32) ++ [(r.step, tier, r.tiles)] } }

/-- A place for a run that has none: T1 first, then the spill region (R174). -/
def State.placeRun (s : State) (id : Nat) : State :=
  match s.stageRun id with
  | none => s
  | some r =>
    if r.place.isSome then s else
    match lowestFit 0 (s.lkrRegion 1).2.1 r.tiles (s.extents 1) with
    | some f => ((s.modRun id fun r => { r with place := some (1, f) }).notePlaced r 1).stageWriteAll id
    | none =>
      let used := s.mkr.runs.filterMap fun x => match x.place with
        | some (2, f) => some (f, x.tiles)
        | _ => none
      match lowestFit 0 s.spillRegion.2.1 r.tiles used with
      | none => s
      | some f =>
        let s := if s.mkr.spillLogged then s else
          (s.logEv evMkrSpill (mkrErr r.piece 7 0))
        let s := { s with mkr := { s.mkr with spillLogged := true } }
        ((s.modRun id fun r => { r with place := some (2, f) }).notePlaced r 2).stageWriteAll id

/-- The step to which a contribution that arrives now belongs (R176). -/
def State.stageStep (s : State) : Nat := (s.stepCtr.toNat + b2n s.mkr.gateStarted) % 2 ^ 32

/-- The run of `piece` from block `first` for the step, made when there is none; its number. -/
def State.openRun (s : State) (piece first blocks step : Nat) : Nat × State :=
  match s.mkr.runs.find? fun r => r.piece == piece && r.first == first && r.step == step with
  | some r => (r.id, s)
  | none =>
    let r : StageRun := { id := s.mkr.nextRun, piece := piece, first := first, blocks := blocks
                          tiles := (s.runTiles piece first blocks).length, place := none, step := step, epochs := []
                          sealv := 0, sums := [], closed := none, rho := 0x3F800000, read := false, chk := none }
    (r.id, { s with mkr := { s.mkr with runs := s.mkr.runs ++ [r], nextRun := r.id + 1 } })

/-- The first staged tile of block `b` in its run. -/
def State.stageFirst (s : State) (r : StageRun) (b : Nat) : Nat := s.blockFirst r.piece b - s.blockFirst r.piece r.first

/-- The run to which a contribution to run `id` belongs now: once the gate roll call of its step has started, that of the next step
for the same blocks (R176). -/
def State.stageNow (s : State) (id : Nat) : Nat × State :=
  match s.stageRun id with
  | none => (id, s)
  | some r => if s.mkr.gateStarted ∧ r.step = s.stepCtr.toNat then s.openRun r.piece r.first r.blocks s.stageStep else (id, s)

/-- Values added (or written) at value numbers of a run: RNE32(sum + value) (R126, R176); the tiles touched are written
again. Numbers beyond the run's tiles name no value of it. -/
def State.stageAdd (s : State) (id : Nat) (add : Bool) (vals : List (Nat × Nat)) : State :=
  let vals : List (Nat × Nat) := match s.stageRun id with
    | some r => vals.filter fun v => decide (v.1 < 8192 * r.tiles)
    | none => []
  let upd (r : StageRun) : StageRun := { r with sums := vals.foldl (fun t v =>
    let old := (Tab.get t v.1).toNat
    Tab.put t v.1 (BitVec.ofNat 32 (if add then rne32 ((v32 old).add (v32 v.2)) else v.2))) r.sums }
  let s := s.modRun id upd
  if (s.stageRun id).any fun r => r.place.isNone then s.placeRun id
  else (nub (vals.map fun v => v.1 / 8192)).foldl (fun s t => s.stageWrite id t) s

/-- The staging run in T1 whose slots hold byte address `a`, with the number of the value there. -/
def State.stageAt (s : State) (a : Nat) : Option (Nat × Nat) :=
  (s.mkr.runs.find? fun r => match r.place with
    | some (1, f) => decide (f * 32768 ≤ a ∧ a < (f + r.tiles) * 32768)
    | _ => false).map fun r => (r.id, (a - ((r.place.map Prod.snd).getD 0) * 32768) / 4)

/-- The slots of a run released (R177). -/
def State.freeRun (s : State) (id : Nat) : State :=
  { s with mkr := { s.mkr with runs := s.mkr.runs.filter (·.id != id) } }

/-! ## STAGING_RUN_ALLOC -/

/-- Another run of the step covers some of these blocks. -/
def State.runMeets (s : State) (piece first n step : Nat) : Bool :=
  s.mkr.runs.any fun r => r.piece == piece && r.step == step && r.first != first
    && decide (r.first < first + n ∧ first < r.first + r.blocks)

/-- The row allocates the run when its first tile is written, and places one that waits once there is room. `tiles` is
the run's length, in whole sweep blocks. The runs of a step cover disjoint blocks: one that would meet another is not made (log 96). -/
def State.stagingAlloc (s : State) (piece first tiles : Nat) : State :=
  if s.mkPieces ≤ piece ∨ s.pcNm piece ≤ first ∨ s.mkBucketTiles < tiles then s
  else
    let n := ((List.range (s.pcNm piece - first)).find? fun n =>
      decide (tiles ≤ (s.runTiles piece first (n + 1)).length)).getD 0 + 1
    if s.runMeets piece first n s.stageStep then s
    else
      let (id, s) := s.openRun piece first n s.stageStep
      s.placeRun id

end Sys2Proof.Machine
end

