-- ==== Sys2Proof/Machine/Update.lean ====
section
/-! DEFINITION. The arithmetic of the Marker (R173, R175, R180 to R185, R189 to R191): gradients as the sweep takes them,
powers, the update of one element, the encoding of a sweep block, digests, report cards. -/

namespace Sys2Proof.Machine

/-! ## Gradients (R175) -/

/-- A staged value rounded to WGRAD_FMT (R153), as FP32. -/
def wgRound (fmt w : Nat) : Fp :=
  match fmt with
  | 1 => bf16.val (bf16.round (v32 w))
  | 2 => fp16.val (fp16.round (v32 w))
  | _ => v32 w

/-- s0 of piece `p` for a run with ρ, an FP32 encoding (R175). -/
def State.sZero (s : State) (p : Nat) (rho : Option Nat) : Fp :=
  match rho with
  | none => v32 (s.pc p 0x20 4)
  | some r => mul32 (v32 (s.pc p 0x20 4)) (if s.pcRescale p then v32 r else .one)

/-- The g0 of every value of a run, in tile order and element order. -/
def State.runGrads (s : State) (r : StageRun) : List Fp :=
  (List.range (8192 * r.tiles)).map fun i => wgRound s.nmWgrad (Tab.get r.sums i).toNat

/-- A completed run's contributions to gate slots 0 and 1 (R175). -/
def State.gateRun (s : State) (r : StageRun) : Bool × List Fp :=
  let g := s.runGrads r
  let s0 := s.sZero r.piece (some r.rho)
  (g.any fun x => !x.isFin, if s.slotOneForm then g.map fun x => let y := mul32 x s0; y.mul y else [])

/-! ## Powers (R181) -/

/-- The bits of `k` below `n`, from bit `n - 1` downwards, folded into `p`. -/
def powBits (b : Fp) (k : Nat) : Nat → Fp → Fp
  | 0, p => p
  | n + 1, p =>
    let p := mul64 p p
    powBits b k n (if k / 2 ^ n % 2 = 1 then mul64 p b else p)

/-- P(b, k). -/
def pow64 (b : Fp) (k : Nat) : Fp := if k = 0 then .one else powBits b k (Nat.log2 k + 1) .one

/-! ## The update of one element (R180, R182) -/

/-- The constants of a piece in one sweep; `k1` is k − 1 of R182, zero for none. -/
structure UpdConst where
  opt : Nat
  lrt : Fp
  ib1 : Fp
  ib2 : Fp
  clip : Fp
  b1 : Fp
  omb1 : Fp
  b2 : Fp
  omb2 : Fp
  eps : Fp
  mu : Fp
  wd : Fp
  k1 : Nat
  dm : Fp
  dv : Fp
  dw : Fp
  deriving DecidableEq, Repr

/-- What the update of an element gives: ĝ, w as updated from, w′, m′, v′. -/
structure UpdOut where
  g : Fp
  w0 : Fp
  w : Fp
  m : Fp
  v : Fp
  deriving DecidableEq, Repr

/-- Table: Update arithmetic, after the decay of R182. -/
def updElem (c : UpdConst) (s0 g0 w m v : Fp) : UpdOut :=
  let w := if c.k1 = 0 then w else mul32 w c.dw
  let m := if c.k1 = 0 then m else mul32 m c.dm
  let v := if c.k1 = 0 then v else mul32 v c.dv
  let g := mul32 (mul32 g0 s0) c.clip
  let sgd := c.opt == 1
  let m' := if sgd then fma32 c.mu m g else fma32 c.b1 m (mul32 c.omb1 g)
  let v' := if sgd then v else fma32 c.b2 v (mul32 c.omb2 (mul32 g g))
  let q := if sgd then m' else
    let d := add32 (q32 (mul32 v' c.ib2).sqrt) c.eps
    q32 ((mul32 m' c.ib1).div d)
  let u := mul32 c.lrt (add32 q (mul32 c.wd w))
  { g := g, w0 := w, w := sub32 w u, m := m', v := v' }

/-- The constants of piece `p`: t′ and k by R180 and R182. -/
def State.updConst (s : State) (p : Nat) : UpdConst :=
  let r := Tab.get s.mkr.recs p
  let opt := s.pcOpt p
  let applied := s.regF aMkrApplied 0 32
  let k := (applied + 2 ^ 32 - r.last) % 2 ^ 32
  let t := if opt = 2 then (r.count + k) % 2 ^ 32 else (r.count + 1) % 2 ^ 32
  let f (off : Nat) : Fp := v32 (s.mkField off 4)
  let lrt := mul32 (v32 s.mkr.lr) (v32 (s.pc p 0x1C 4))
  let wd := v32 (s.pc p 0x18 4)
  let inv (b : Fp) : Fp := q32 (Fp.one.div (q64 (Fp.one.sub (pow64 b t))))
  let k1 := if opt = 2 ∧ 1 < k then k - 1 else 0
  let dl := sub32 .one (mul32 lrt wd)
  { opt := opt, lrt := lrt, ib1 := inv (f 0x18), ib2 := inv (f 0x20), clip := v32 s.mkr.clip, b1 := f 0x18
    omb1 := f 0x1C, b2 := f 0x20, omb2 := f 0x24, eps := f 0x28, mu := f 0x2C, wd := wd, k1 := k1
    dm := q32 (pow64 (f 0x18) k1), dv := q32 (pow64 (f 0x20) k1), dw := q32 (pow64 dl k1) }

/-- COUNT and LAST of piece `p` after the sweep (R180, R182). -/
def State.newCount (s : State) (p : Nat) : Nat × Nat :=
  let r := Tab.get s.mkr.recs p
  let applied := s.regF aMkrApplied 0 32
  if s.pcOpt p = 2 then ((r.count + (applied + 2 ^ 32 - r.last) % 2 ^ 32) % 2 ^ 32, applied)
  else ((r.count + 1) % 2 ^ 32, applied)

/-! ## A sweep block (R169, R173, R183 to R185) -/

/-- Element (r, c) of piece `p` is masked (R183). -/
def State.pcMasked (s : State) (p r c : Nat) : Bool :=
  s.pcMask p &&
    (let a := s.t0Scratch + s.pc p 0x24 4 + 64 * (r / 256 * s.pcBc p + c / 256)
     bitAt (Tab.get s.t0 (a + r % 256 / 8)) (r % 8) ||
       bitAt (Tab.get s.t0 (a + 0x20 + r % 256 / 32)) (c % 256 / 32))

/-- Element numbers (row, column) of a 128 × 256 block. -/
def blockElems : List (Nat × Nat) := (List.range 128).flatMap fun r => (List.range 256).map fun c => (r, c)

/-- Elements of a block as the Marker keeps them, by row: masters, first and second moments. -/
structure BlkElem where
  valid : Bool
  masked : Bool
  o : UpdOut
  deriving DecidableEq, Repr

/-- The tile keys of a block: part · 2^20 + tile. -/
def tkey (part tile : Nat) : Nat := part * 2 ^ 20 + tile

/-- Element (r, c) of a block in the FP32 tiles that `got` holds under part `part` from tile `first` in block order;
absent tiles read zero. -/
def fpElem (got : Tab Bytes) (part first : Nat) (order : List (Nat × Nat)) (i j r c : Nat) : Nat :=
  let k := order.idxOf (2 * i + r / 64, 2 * j + c / 128)
  leAt (Tab.get got (tkey part (first + k))) (4 * (r % 64 * 128 + c % 128)) 4

/-- The elements of sweep block `b` of piece `p` after the update; `stage`: first staged tile of the block in its run. -/
def State.blockUpdate (s : State) (p b : Nat) (stage : Option Nat) (rho : Option Nat) (got : Tab Bytes) : List BlkElem :=
  let c := s.updConst p
  let s0 := s.sZero p rho
  let i := b / s.pcBc p
  let j := b % s.pcBc p
  let ord := s.blockTiles p b
  let first := s.blockFirst p b
  let mt := Tab.get got (tkey 1 b)
  let vt := Tab.get got (tkey 2 b)
  let sc (part r h : Nat) : Nat := leAt (Tab.get got (tkey part (b / 32))) (4 * (256 * (b % 32) + 2 * r + h)) 4
  blockElems.map fun e =>
    let r := e.1
    let k := e.2
    let row := 128 * i + r
    let col := 256 * j + k
    let valid := decide (row < s.pcRows p ∧ col < s.pcCols p)
    let w := v32 (fpElem got 0 first ord i j r k)
    let m := (decodeM (leAt mt (256 * r + k) 1) (sc 3 r (k / 128))).getD .zero
    let v := if c.opt = 1 then .zero else decodeV (leAt vt (256 * r + k) 1) (sc 4 r (k / 128))
    let g0 := match stage with
      | none => .zero
      | some t => wgRound s.nmWgrad (fpElem got 7 t ord i j r k)
    if !valid then { valid := false, masked := false, o := { g := .zero, w0 := .zero, w := .zero, m := .zero, v := .zero } }
    else if s.pcMasked p row col then { valid := true, masked := true, o := { g := .zero, w0 := w, w := w, m := m, v := v } }
    else { valid := true, masked := false, o := updElem c s0 g0 w m v }

/-- A half of 128 elements encoded, each with whether it is valid (R173, R184). One with no valid element has scale 1.0 (R69). -/
def encHalf (enc : List Fp → List Nat × Nat) (vals : List (Bool × Fp)) : List Nat × Nat :=
  if vals.all fun v => !v.1 then (vals.map fun _ => 0, 0x3F800000)
  else if vals.all fun v => v.2.isFin then enc (vals.map Prod.snd) else (vals.map fun _ => 0, 0x7FC00000)

/-- The moment tile and the 256 scales of a block. -/
def encBlock (enc : List Fp → List Nat × Nat) (vals : List (Bool × Fp)) : Bytes × Bytes :=
  let hs := (pieces 128 256 vals).map (encHalf enc)
  (hs.flatMap fun h => h.1.map (BitVec.ofNat 8), hs.flatMap fun h => leBytes 4 h.2)

/-- Element (r, c) of a list of block elements. -/
def blkAt (es : List BlkElem) (r c : Nat) : BlkElem :=
  es.getD (256 * r + c) { valid := false, masked := false, o := { g := .zero, w0 := .zero, w := .zero, m := .zero, v := .zero } }

/-- The payloads that a block writes, by tile key: masters, moments, scale tiles, working copies. -/
def State.blockOut (s : State) (p b : Nat) (got : Tab Bytes) (es : List BlkElem) : List (Nat × Bytes) :=
  let i := b / s.pcBc p
  let j := b % s.pcBc p
  let first := s.blockFirst p b
  let sgd := s.pcOpt p == 1
  let masters := (s.blockTiles p b).zipIdx.map fun t =>
    (tkey 0 (first + t.2), (List.range 64).flatMap fun r => (List.range 128).flatMap fun c =>
      let e := blkAt es (64 * (t.1.1 - 2 * i) + r) (128 * (t.1.2 - 2 * j) + c)
      -- a masked master stays bit for bit (R183)
      if e.masked then slice (Tab.get got (tkey 0 (first + t.2))) (4 * (128 * r + c)) 4 else leBytes 4 (rne32 e.o.w))
  let em := encBlock encodeM (es.map fun e => (e.valid, e.o.m))
  let ev := encBlock encodeV (es.map fun e => (e.valid, e.o.v))
  let sct (part : Nat) (sc : Bytes) : Nat × Bytes :=
    (tkey part (b / 32), splice (Tab.get got (tkey part (b / 32))) (1024 * (b % 32)) sc)
  let wc := (s.pcCols p + 127) / 128
  let work := ((List.range 2).filter fun h => decide (2 * j + h < wc)).map fun h =>
    (tkey 5 (i * wc + 2 * j + h), (List.range 128).flatMap fun r => (List.range 128).flatMap fun c =>
      let w := (blkAt es r (128 * h + c)).o.w
      leBytes 2 (if s.pcFmt p = 1 then bf16.round w else fp16.round w))
  masters ++ [(tkey 1 b, em.1)] ++ (if sgd then [] else [(tkey 2 b, ev.1)]) ++ [sct 3 em.2]
    ++ (if sgd then [] else [sct 4 ev.2]) ++ work

/-! ## Report cards (R190, R191) -/

/-- A block's elements in sweep order: tile by tile, then element order (log 43). -/
def sweepOrder (es : List BlkElem) : List BlkElem :=
  [(0, 0), (0, 128), (64, 0), (64, 128)].flatMap fun o => (List.range 64).flatMap fun r => (List.range 128).map fun c =>
    blkAt es (o.1 + r) (o.2 + c)

/-- A card after a block. -/
def Card.add (d : Card) (es : List BlkElem) : Card :=
  let es := (sweepOrder es).filter fun e => e.valid && !e.masked
  let sum (w : Word) (f : UpdOut → Fp) : Word :=
    word (rne64 (es.foldl (fun a e => add64 a (let x := f e.o; x.mul x)) (v64 w.toNat)))
  { d with wn := sum d.wn (·.w), gn := sum d.gn (·.g), un := sum d.un fun o => sub32 o.w o.w0 }

/-- RATIO and the threshold flags at the end of the sweep. -/
def State.cardEnd (s : State) (d : Card) : Card :=
  let wn := v64 d.wn.toNat
  let un := v64 d.un.toNat
  let ratio := if wn.isZero then (if un.isZero then .zero else .inf false) else q64 (q64 (un.div wn)).sqrt
  let gh := v32 (s.mkField 0x34 4)
  let hi := (mul64 gh gh).lt (v64 d.gn.toNat)
  let rh := (v32 (s.mkField 0x38 4)).lt ratio
  { d with ratio := word (rne64 ratio), flags := Nat.lor d.flags (b2n hi + 2 * b2n rh) }

/-! ## Digests (R189) -/

/-- The piece digest from the tile digests under key piece · 2^16 + tile. -/
def State.pieceDigest (s : State) (p : Nat) : Word :=
  crc64 ((List.range (s.pcNw p)).flatMap fun t => leBytes 8 (Tab.get s.mkr.tdig (p * 65536 + t)).toNat)

/-- The step digest. -/
def State.stepDigest (s : State) : Word :=
  crc64 (((List.range s.mkPieces).filter s.pcDigest).flatMap fun p =>
    leBytes 4 p ++ leBytes 8 (Tab.get s.mkr.recs p).digest.toNat)

/-! ## Records (Table: Head record and piece record) -/

/-- Record slots of the state region (R169); none when the state region has no room for them, as an image without pieces may have
it (log 43). -/
def State.recSlots (s : State) : Nat :=
  let n := ((s.mkPieces + 1) * 64 + 32767) / 32768
  if s.mkField 8 8 < 32768 * n then 0 else n

def PieceRec.bytes (r : PieceRec) : Bytes :=
  leBytes 8 r.epoch ++ leBytes 4 r.count ++ leBytes 4 r.last ++ leBytes 8 r.digest.toNat ++ leBytes 1 (b2n r.nonfinite)
    ++ leBytes 39 0
def PieceRec.read (b : Bytes) : PieceRec :=
  { epoch := leAt b 0 8, count := leAt b 8 4, last := leAt b 0xC 4, digest := word (leAt b 0x10 8)
    nonfinite := leAt b 0x18 1 % 2 == 1 }

/-- The head record. -/
def State.headRecord (s : State) : Bytes :=
  leBytes 8 (s.reg aMkrApplied).toNat ++ leBytes 8 0 ++ leBytes 8 s.stepDigest.toNat ++ leBytes 40 0

/-- Payload of record slot `k`. -/
def State.recordSlot (s : State) (k : Nat) : Bytes :=
  (List.range 512).flatMap fun i =>
    let n := 512 * k + i
    if n = 0 then s.headRecord
    else if s.mkPieces < n then List.replicate 64 0
    else (Tab.get s.mkr.recs (n - 1)).bytes

end Sys2Proof.Machine
end

