-- ==== Sys2Proof/Machine/Marker.lean ====
section
/-! DEFINITION. The Marker (R168 to R195, R380): completion of staging runs, the gate, the sweep with its reads and writes,
records, digests, report cards; and the commands MKR_DIG_SEL_WRITE, DIGEST_DONE,
MKR_CARD_SEL_WRITE, MKR_CARD_FLAGS_READ. -/

namespace Sys2Proof.Machine

/-! ## The state region (R169, R170) -/

/-- Scale tiles of one kind. -/
def State.pcNs (s : State) (p : Nat) : Nat := (s.pcNm p + 31) / 32
/-- Nc of R168. -/
def State.pcNc (s : State) (p : Nat) : Nat := ((s.pcRows p + 127) / 128) * ((s.pcCols p + 127) / 128)
/-- Tiles of a part (Table: Parts of a piece area). -/
def State.partTiles (s : State) (p part : Nat) : Nat :=
  let sgd := s.pcOpt p == 1
  match part with
  | 0 => s.pcNw p
  | 1 => s.pcNm p
  | 2 => if sgd then 0 else s.pcNm p
  | 3 => s.pcNs p
  | 4 => if sgd then 0 else s.pcNs p
  | 5 => s.pcNc p
  | _ => 0
/-- FORMAT of a part. -/
def State.partFmt (s : State) (p part : Nat) : Nat :=
  match part with
  | 1 => 10 | 2 => 11 | 5 => s.pcFmt p | _ => 0

/-- Offset of a state tile in the state region. -/
def State.stateOff (s : State) (p part tile : Nat) : Nat :=
  s.pc p 8 8 + 32768 * (((List.range part).map (s.partTiles p)).sum + tile)

/-- The slot at state-region offset `o`, under epoch `e`. -/
def State.stateSlot (s : State) (o e : Nat) : Loc :=
  { tier := 2, pay := s.t2Base + o, hdr := s.t2Base + s.mkField 8 8 + o / 32768 * 64, epoch := e }

/-- The epoch that a state tile carries: the sweep's once it has written the tile, else its record's (R172). -/
def State.stateEpoch (s : State) (p part tile : Nat) : Nat :=
  if s.mkr.wrote.contains (p * 2 ^ 24 + tkey part tile) then s.mkr.epoch else (Tab.get s.mkr.recs p).epoch

def State.stateLoc (s : State) (p part tile : Nat) : Loc :=
  s.stateSlot (s.stateOff p part tile) (s.stateEpoch p part tile)

/-- A read of a state tile, of a record slot, of a staged tile. -/
def State.stateRd (s : State) (p part tile : Nat) (use : TileUse) : TileRd :=
  { use := use, tile := .state_ p part tile, loc := s.stateLoc p part tile, own := some (p + at_ 18 s.part.form, tile)
    fmt := s.partFmt p part, comp := none, anyEp := false, pass := false, phase := 0 }
def State.recordRd (s : State) (k : Nat) (use : TileUse) : TileRd :=
  { use := use, tile := .record k, loc := s.stateSlot (32768 * k) (s.reg aMkrRecEpoch).toNat
    own := some (0x3FFFF + at_ 18 s.part.form, k), fmt := 0, comp := none, anyEp := false, pass := false, phase := 0 }
def State.stageRd (s : State) (r : StageRun) (t : Nat) (use : TileUse) : TileRd :=
  { use := use, tile := .stage r.id t, loc := s.stageLoc r t 0, own := some (r.piece + at_ 18 s.part.form, t)
    fmt := 0, comp := none, anyEp := true, pass := false, phase := 0 }

/-- A tile asked for; from T1 to T3 it comes later. -/
def State.fetchTile (s : State) (rd : TileRd) : State := s.startRead rd

/-- A state tile, record slot or working copy written with `epoch`; what is coded is decided by R171. -/
def State.writeState (s : State) (loc : Loc) (owner pos fmt vr vc : Nat) (nocode : Bool) (use : WrUse) (pay : Bytes) :
    State :=
  let sh := shapeOf fmt
  let h : Hdr := { fmt := fmt, kind := 0, shape := sh.code, mode := sh.mode, cmp := false, nocode := nocode, prov := 3
                   vrows := vr, vcols := vc, cmpLen := 0, desc := 0, epoch := 0, owner := 0, pos := 0, mac := 0 }
  let g : TileGot := { ok := true, hdr := h.bytes, scales := [], pay := pay, coded := false }
  let ((h, pay), s) := s.forSlot loc.tier (owner + at_ 18 s.part.form) pos g
  let w := sealTile s loc h pay
  (s.writePay use 4112 .write loc w.1 w.2 0 false).2

/-- Valid rows and columns of a state tile. -/
def State.stateCorner (s : State) (p part tile : Nat) : Nat × Nat :=
  let grid (tr tc : Nat) : Nat × Nat :=
    let w := (s.pcCols p + tc - 1) / tc
    (min tr (s.pcRows p - tr * (tile / w)), min tc (s.pcCols p - tc * (tile % w)))
  match part with
  | 0 => s.tileCorner p ((s.runTiles p 0 (s.pcNm p)).getD tile (0, 0))
  | 1 | 2 => grid 128 256
  | 5 => grid 128 128
  | _ => (64, 128)

/-! ## Completion of staging runs (R175, R380) -/

/-- Tiles of run `id` are being written or recovered. -/
def State.stageBusy (s : State) (id : Nat) : Bool :=
  let ofRun (k : JobKind) : Bool := match k with
    | .tileWr (.stage x _) _ _ _ _ _ => x == id
    | _ => false
  let lost (r : Recovery) : Bool := match r.rd.tile with
    | .stage x _ => x == id
    | _ => false
  (s.mem.jobs.any fun j => ofRun j.kind) || s.err.recov.any lost

/-- The tiles of completed runs are read for their seals once every write of the run has ended. -/
def State.sealReads (s : State) : State :=
  (s.mkr.runs.filter fun r => r.closed.isSome && r.chk.isSome && !r.read && !s.stageBusy r.id).foldl (fun s r =>
    (List.range r.tiles).foldl (fun s t => s.fetchTile (s.stageRd r t (.marker r.piece 7 t)))
      (s.modRun r.id fun r => { r with read := true })) s

/-- The completion of one run: its gate contributions, its order number, the reads for its seal. -/
def State.closeRun (s : State) (r : StageRun) : State :=
  let g := s.gateRun r
  let sum := rne64 (g.2.foldl add64 (v64 s.mkr.gate1.toNat))
  let chk := if r.place.isSome ∧ 0 < r.tiles then some (0, r.tiles) else none
  let n := s.mkr.nextClose
  let s : State := { s with mkr := { s.mkr with
    gate0 := s.mkr.gate0 || g.1, gate1 := if g.2.isEmpty then s.mkr.gate1 else word sum, nextClose := n + 1 } }
  (s.modRun r.id fun r => { r with closed := some n, chk := chk }).sealReads

/-- Runs named as closed in one cycle, by piece and then by first block (R175). -/
def State.closeRuns (s : State) (cs : List (Nat × Nat)) : State :=
  let cs := sortBy (fun c => c.1 * 65536 + c.2) cs
  cs.foldl (fun s c =>
    match s.mkr.runs.find? fun r => r.piece == c.1 && r.first == c.2 && r.step == s.stageStep && r.closed.isNone with
    | none => s
    | some r => s.closeRun r) s

/-- A staged tile read: the seal advances; the flag says that a completed run failed its seal (R380). In the sweep a failing
seal asks for a restore. -/
def State.stagedSeal (s : State) (id : Nat) (rd : TileRd) (g : TileGot) : Bool × State :=
  match s.stageRun id with
  | none => (false, s)
  | some r =>
    match r.chk with
    | none => (false, s)
    | some (x, n) =>
      let x := x ^^^ s.sealF rd.loc (Hdr.read g.hdr).epoch
      if 1 < n then (false, s.modRun id fun r => { r with chk := some (x, n - 1) })
      else
        let s := s.modRun id fun r => { r with chk := none }
        if x = r.sealv then (false, s)
        else
          let s := (s.logEv evSecSeal (at_ 18 rd.loc.tier)).setReg aSecErrAddr (word rd.loc.pay)
          if s.mkr.phase = 3 then
            let s : State := { s with err := { s.err with restoreNeeded := true } }
            (false, s.logEv evRestoreNeeded 0)
          else (true, s)

/-! ## The gate (R28, R178, R186, R187, R358) -/

/-- The form's gate contribution: slots 0, 1 and 2. -/
def State.gateSlots (s : State) : List Word :=
  [word (b2n (s.mkr.gate0 || s.mkr.torn || s.err.restoreNeeded)), s.mkr.gate1, word s.mkr.gate2]

/-- The gate roll call of the step starts: later contributions belong to the next step (R176). -/
def State.gateBegins (s : State) : State :=
  { s with mkr := { s.mkr with phase := 1, gateStarted := true, gateDone := false, gate0 := false, gate1 := 0, gate2 := 0 } }

/-- The staging runs of the step in progress. -/
def State.stepRuns (s : State) : List StageRun := s.mkr.runs.filter fun r => r.step == s.stepCtr.toNat

/-- The gate roll call has completed with slot 0 = `bad`. -/
def State.gateCompletes (s : State) (bad : Bool) : State :=
  let cards : Tab Card := if bad then (List.range s.mkLayers).map fun l => (l, { (default : Card) with flags := 8 }) else []
  let s : State := { s with
    mkr := { s.mkr with
      phase := 2, lr := s.regF aMkrLr 0 32, gateDone := true, skip := bad, cards := cards }
    tut := { s.tut with gateApplied := !bad } }
  if bad then
    let s := (s.logEv evNonfiniteSkip 0).incF aMkrApplied 32 32 1
    s.stepRuns.foldl (fun s r => s.freeRun r.id) s
  else s.setF aMkrApplied 0 32 ((s.regF aMkrApplied 0 32 + 1) % 2 ^ 32)

/-! ## The blocks of a sweep (R179) -/

/-- The blocks to visit: those of the runs in completion order, then the uncovered ones. -/
def State.sweepTodo (s : State) : List (Nat × Nat × Option Nat) :=
  let runs := sortBy (fun (r : StageRun) => r.closed.getD (2 ^ 32)) s.stepRuns
  let cov := runs.flatMap fun r => (List.range r.blocks).map fun i => (r.piece, r.first + i, some r.id)
  let touched (p : Nat) : Bool := runs.any fun r => r.piece == p
  let rest := ((List.range s.mkPieces).filter fun p => s.pcOpt p != 2 || touched p).flatMap fun p =>
    ((List.range (s.pcNm p)).filter fun b => !(cov.any fun c => c.1 == p && c.2.1 == b)).map fun b => (p, b, none)
  cov ++ rest

/-- The tiles that a block's update reads, as keys. -/
def State.blockNeeds (s : State) (p b : Nat) (run : Option Nat) : List Nat :=
  let n := (s.blockTiles p b).length
  let first := s.blockFirst p b
  let sgd := s.pcOpt p == 1
  let st := match run.bind s.stageRun with
    | some r => if r.place.isSome then (List.range n).map fun i => tkey 7 (s.stageFirst r b + i) else []
    | none => []
  (List.range n).map (fun i => tkey 0 (first + i)) ++ [tkey 1 b] ++ (if sgd then [] else [tkey 2 b]) ++ [tkey 3 (b / 32)]
    ++ (if sgd then [] else [tkey 4 (b / 32)]) ++ st

/-- The read behind a key of a block. -/
def State.needRd (s : State) (w : BlockWork) (k : Nat) : TileRd :=
  let part := k / 2 ^ 20
  let tile := k % 2 ^ 20
  if part = 7 then
    match w.run.bind s.stageRun with
    | some r => s.stageRd r tile (.marker w.piece 7 tile)
    | none => s.stateRd w.piece 0 0 .idle
  else s.stateRd w.piece part tile (.marker w.piece part tile)

/-- The block under work becomes `w`, and its tiles are read. -/
def State.startBlock (s : State) (w : BlockWork) : State :=
  let s : State := { s with mkr := { s.mkr with cur := some w } }
  w.need.foldl (fun s k => s.fetchTile (s.needRd w k)) s

/-- The slots of staging run `id` are released once no block that the sweep still reads belongs to it (R177). -/
def State.runReadOut (s : State) (id : Nat) : State :=
  let reads (w : BlockWork) : Bool := w.run == some id && w.need.any fun k => k / 2 ^ 20 == 7
  if s.mkr.todo.any (fun t => t.2.2 == some id) || s.mkr.aside.any reads || s.mkr.cur.any reads then s
  else s.freeRun id

/-- The block's tiles are all there: it is updated and written. -/
def State.writeBlock (s : State) (w : BlockWork) : State :=
  let p := w.piece
  let got := w.got
  let es := s.blockUpdate p w.block w.stage w.rho got
  let outs := s.blockOut p w.block got es
  let nf := es.any fun e => e.valid && !e.masked && !(e.o.w.isFin && e.o.m.isFin && e.o.v.isFin)
  let layer := s.pc p 0x14 2
  let card := (Tab.get s.mkr.cards layer).add es
  let card := if nf then { card with flags := Nat.lor card.flags 4 } else card
  let s := if nf && !s.mkr.nfLogged.contains p then s.logEv evStateNonfinite (mkrErr p 0 0) else s
  let dig := (outs.filter fun o => decide (o.1 < 2 ^ 20)).map fun o => (p * 65536 + o.1, crc64 o.2)
  let ep := s.mkr.epoch
  let s : State := { s with mkr := { s.mkr with
    cards := Tab.put s.mkr.cards layer card
    nfLogged := if nf && !s.mkr.nfLogged.contains p then p :: s.mkr.nfLogged else s.mkr.nfLogged
    begun := if s.mkr.begun.contains p then s.mkr.begun else p :: s.mkr.begun
    tdig := dig.foldl (fun t d => Tab.put t d.1 d.2) s.mkr.tdig
    wrote := outs.map (fun o => p * 2 ^ 24 + o.1) ++ s.mkr.wrote
    cur := some { w with writes := outs.length, got := [] } } }
  outs.foldl (fun s o =>
    let part := o.1 / 2 ^ 20
    let tile := o.1 % 2 ^ 20
    let c := s.stateCorner p part tile
    s.writeState (s.stateSlot (s.stateOff p part tile) ep) p tile (s.partFmt p part) c.1 c.2 (part == 3 || part == 4)
      (.marker p part tile) o.2) s

/-- The records phase: digests and counts of the pieces written, then every record slot (R172, R189). -/
def State.startRecords (s : State) : State :=
  let upd (s : State) (p : Nat) : State :=
    let n := s.newCount p
    let r : PieceRec := {
      epoch := s.mkr.epoch, count := n.1, last := n.2, digest := s.pieceDigest p
      nonfinite := (Tab.get s.mkr.recs p).nonfinite || s.mkr.nfLogged.contains p }
    { s with mkr := { s.mkr with recs := Tab.put s.mkr.recs p r } }
  let s := s.mkr.begun.foldl upd s
  let k := if s.tierPresent 2 then s.recSlots else 0
  let ep := s.mkr.epoch
  let s : State := { s with mkr := { s.mkr with phase := 4, recWrites := k } }
  (List.range k).foldl (fun s i =>
    s.writeState (s.stateSlot (32768 * i) ep) 0x3FFFF i 0 64 128 true (.marker 0x3FFFF 6 i) (s.recordSlot i)) s

/-- The sweep goes on: the block under work is written when it is read, the next one started when it is written. -/
def State.sweepLoop : Nat → State → State
  | 0, s => s
  | n + 1, s =>
    if s.mkr.phase ≠ 3 then s else
    match s.mkr.cur with
    | some w =>
      if w.need.isEmpty ∧ w.writes = 0 ∧ !w.got.isEmpty then
        let s := s.writeBlock w
        match w.run with
        | some id => s.runReadOut id
        | none => s
      else s
    | none =>
      match s.mkr.aside.find? (·.need.isEmpty) with
      | some w =>
        -- its scale tiles are read once more: other blocks may have written them
        let sc := (s.blockNeeds w.piece w.block none).filter fun k => k / 2 ^ 20 == 3 || k / 2 ^ 20 == 4
        let s : State := { s with mkr := { s.mkr with
          aside := s.mkr.aside.filter fun x => !(x.piece == w.piece && x.block == w.block) } }
        s.startBlock { w with need := sc }
      | none =>
        match s.mkr.todo with
        | (p, b, run) :: rest =>
          let s : State := { s with mkr := { s.mkr with todo := rest } }
          let r := run.bind s.stageRun
          let w : BlockWork := {
            piece := p, block := b, run := run, stage := r.map fun r => s.stageFirst r b, rho := r.map StageRun.rho
            need := s.blockNeeds p b run, got := [], writes := 0 }
          State.sweepLoop n (s.startBlock w)
        | [] => if s.mkr.aside.isEmpty then s.startRecords else s

/-- A write of the Marker has ended with its header. -/
def State.markerWrote (s : State) (part : Nat) : State :=
  if part = 6 then { s with mkr := { s.mkr with recWrites := s.mkr.recWrites - 1 } }
  else match s.mkr.cur with
  | none => s
  | some w =>
    if 1 < w.writes then { s with mkr := { s.mkr with cur := some { w with writes := w.writes - 1 } } }
    else
      let s : State := { s with mkr := { s.mkr with cur := none, blocks := (s.mkr.blocks + 1) % 2 ^ 32 } }
      State.sweepLoop 4 s

/-! ## Tiles that come (R188, R194) -/

/-- The digest selected by MKR_DIG_SEL. -/
def State.digPiece (s : State) : Nat := s.regF aMkrDigSel 24 18
def State.digTile (s : State) : Nat := s.regF aMkrDigSel 0 16
def State.digKind (s : State) : Bool := bitAt (s.reg aMkrDigSel) 16

/-- A moment tile with the illegal INT8 code. -/
def badMoment (part : Nat) (pay : Bytes) : Bool := part == 1 && pay.any fun b => b == 0x80

/-- Key `k` of block `w` has come. -/
def BlockWork.take (w : BlockWork) (k : Nat) (pay : Bytes) : BlockWork :=
  if w.need.contains k then { w with need := w.need.filter (· != k), got := Tab.put w.got k pay } else w

/-- A tile for the Marker, read or recovered, that passed its checks. -/
def State.markerHave (s : State) (piece part tile : Nat) (run : Option Nat) (g : TileGot) : State :=
  if part = 6 then
    -- a record slot: the head and the piece records it holds
    let one (s : State) (i : Nat) : State :=
      let n := 512 * tile + i
      let b := slice g.pay (64 * i) 64
      if n = 0 then ((s.setReg aMkrApplied (word (leAt b 0 8))).setReg aMkrStepDigest (word (leAt b 0x10 8)))
      else if s.mkPieces < n then s
      else { s with mkr := { s.mkr with recs := Tab.put s.mkr.recs (n - 1) (PieceRec.read b) } }
    (List.range 512).foldl one s
  else
    let k := tkey part tile
    let mine (w : BlockWork) : Bool := w.piece == piece && (part != 7 || w.run == run)
    let f (w : BlockWork) : BlockWork := if mine w then w.take k g.pay else w
    let dig := part == 0 && s.digKind && s.digPiece == piece && s.digTile == tile && !s.mkr.digReady
      && !bitAt (s.reg aMkrDigSel) 63
    let s : State := { s with mkr := { s.mkr with
      cur := s.mkr.cur.map f, aside := s.mkr.aside.map f
      digReady := s.mkr.digReady || dig, digVal := if dig then crc64 g.pay else s.mkr.digVal } }
    State.sweepLoop 4 s

/-- A tile for the Marker has been read: a failing one starts its recovery and its block is put aside (R188). The flag says
that a completed run failed its seal. -/
def State.markerGot (s : State) (piece part tile : Nat) (rd : TileRd) (g : TileGot) : Bool × State :=
  let run : Option Nat := match rd.tile with
    | .stage id _ => some id
    | _ => none
  if g.ok && !badMoment part g.pay then
    let (lost, s) := match run with
      | some id => s.stagedSeal id rd g
      | none => (false, s)
    (lost, s.markerHave piece part tile run g)
  else
    let s := if g.ok then s.logEv evMkrIllegal (mkrErr piece part tile) else s
    let s := s.beginRecovery rd
    match s.mkr.cur with
    | none => (false, s)
    | some w =>
      if w.piece = piece ∧ w.need.contains (tkey part tile) ∧ (part ≠ 7 ∨ w.run = run) then
        let s : State := { s with mkr := { s.mkr with cur := none, aside := s.mkr.aside ++ [w] } }
        (false, State.sweepLoop 4 s)
      else (false, s)

/-- The record slots read, when the key state says that they are there (R195). -/
def State.readRecords (s : State) : State :=
  if s.reg aMkrRecEpoch = 0 ∨ !s.tierPresent 2 then s
  else (List.range s.recSlots).foldl (fun s k => s.fetchTile (s.recordRd k (.marker 0x3FFFF 6 k))) s

/-! ## SWEEP_START, SWEEP_END -/

/-- The clipping scale latched (R178). -/
def State.latchClip (s : State) : State :=
  if !s.mkClipEn then { s with mkr := { s.mkr with clip := 0x3F800000 } }
  else
    let v := s.regF aMkrClip 0 32
    let f := v32 v
    if f.isFin && Fp.zero.lt f then { s with mkr := { s.mkr with clip := v } }
    else
      let s := s.logEv evClipBad 0
      { s with mkr := { s.mkr with clip := 0x3F800000 } }

/-- A checkpoint that runs at the form holds the sweep back (R343). -/
def State.ckptRuns (s : State) : Bool := s.tut.ckpt

/-- Record slots are still being read or recovered (R188, R195). -/
def State.recordsComing (s : State) : Bool :=
  let isRec (t : TileRd) : Bool := match t.tile with
    | .record _ => true
    | _ => false
  s.err.recov.any (fun r => isRec r.rd) || s.mem.jobs.any fun j => match j.kind with
    | .tileRd t => isRec t
    | _ => false

/-- The sweep of an applied step starts (R172, R178, R179), once every record is there; a skipped step goes on to the digest. -/
def State.sweepStart (s : State) : State :=
  if s.tut.closing ≠ .clip ∨ !s.mkr.gateDone ∨ (!s.mkr.skip && s.recordsComing) ∨ (!s.mkr.skip && (s.ckptRuns || s.exp.isSome)) then s
  else
    match (if s.mkClipEn then s.tryWait 1 s.mkClipBell 1 else some s) with
    | none => s
    | some s =>
      let s := s.latchClip
      if s.mkr.skip then
        let s : State := { s with mkr := { s.mkr with phase := 0 } }
        { s with tut := { s.tut with closing := .digest } }
      else
        let (ep, s) := s.takeEpoch
        let todo := s.sweepTodo
        let again (r : StageRun) : StageRun :=
          if r.step = s.stepCtr.toNat ∧ r.place.isSome then { r with chk := some (0, r.tiles) } else r
        let s : State := { s with
          mkr := { s.mkr with
            phase := 3, blocks := 0, epoch := ep, todo := todo, aside := [], cur := none, wrote := [], tdig := [], begun := []
            nfLogged := [], runs := s.mkr.runs.map again }
          tut := { s.tut with closing := .sweep } }
        State.sweepLoop 4 s

/-- The sweep has written every block and record slot (R172, R189 to R191). -/
def State.sweepEnd (s : State) : State :=
  if s.mkr.phase ≠ 4 ∨ s.mkr.recWrites ≠ 0 then s
  else
    let s := (s.setReg aMkrRecEpoch (word s.mkr.epoch)).setReg aMkrStepDigest s.stepDigest
    let cards : Tab Card := ((List.range s.mkLayers).map fun l => (l, s.cardEnd (Tab.get s.mkr.cards l))).filter
      fun c => c.2 != default
    let flag := cards.any fun c => c.2.flags % 8 != 0
    let s : State := { s with
      mkr := { s.mkr with phase := 0, cards := cards, wrote := [], tdig := [] }
      tut := { s.tut with closing := .digest } }
    if flag then s.logEv evCardFlag 0 else s

/-! ## Registers (R194) -/

/-- MKR_STATUS. -/
def State.mkrStatus (s : State) : Word :=
  word (at_ 32 s.mkr.blocks + at_ 8 s.mkr.phase + at_ 2 (b2n s.mkClipEn) + at_ 1 (b2n s.mkr.torn) + b2n s.mkr.skip)

/-- MKR_STAGE: staging tiles placed in T1 and in the spill region in the step. -/
def State.mkrStage (s : State) : Word :=
  let n (t : Nat) : Nat := ((s.mkr.placed.filter fun p => p.1 == s.stepCtr.toNat && p.2.1 == t).map fun p => p.2.2).sum
  word (at_ 32 (n 2) + n 1)

/-- A write of MKR_DIG_SEL: the selected digest starts. A piece or tile that does not exist has no digest: the value is
free (log 1). -/
def State.writeDigSel (s : State) (v : Word) : State :=
  let s := (s.setReg aMkrDigSel (v &&& 0x000003FFFF01FFFF#64)).setReg aMkrDig 0
  let p := s.digPiece
  if s.mkPieces ≤ p ∨ (s.digKind ∧ s.pcNw p ≤ s.digTile) then
    let (x, s) := s.draw
    { s with mkr := { s.mkr with digReady := true, digVal := x } }
  else if s.digKind then
    let s : State := { s with mkr := { s.mkr with digReady := false } }
    s.fetchTile (s.stateRd p 0 s.digTile (.marker p 0 s.digTile))
  else { s with mkr := { s.mkr with digReady := true, digVal := (Tab.get s.mkr.recs p).digest } }

/-- The selected digest completes. -/
def State.digestDone (s : State) : State :=
  if bitAt (s.reg aMkrDigSel) 63 ∨ !s.mkr.digReady then s
  else
    let s := (s.setReg aMkrDig s.mkr.digVal).setF aMkrDigSel 63 1 1
    { s with mkr := { s.mkr with digReady := false } }

/-- A write of MKR_CARD_SEL. -/
def State.writeCardSel (s : State) (v : Word) : State :=
  (((s.setReg aMkrCardSel (word (fld v 0 10))).setReg aMkrCardWn 0).setReg aMkrCardGn 0).setReg aMkrCardRatio 0

/-- A read of MKR_CARD_FLAGS copies the selected card; a card that does not exist has free values (log 1). -/
def State.readCard (s : State) : Word × State :=
  let l := s.regF aMkrCardSel 0 10
  let view (s : State) (f w g r : Word) : Word × State :=
    (f, (((s.setReg aMkrCardFlags f).setReg aMkrCardWn w).setReg aMkrCardGn g).setReg aMkrCardRatio r)
  if l < s.mkLayers ∨ s.syl.isNone then
    let c := Tab.get s.mkr.cards l
    view s (word c.flags) c.wn c.gn c.ratio
  else
    let (f, s) := s.draw
    let (w, s) := s.draw
    let (g, s) := s.draw
    let (r, s) := s.draw
    view s (word (fld f 0 4)) w g r

def execMkrDigSelWrite (v : Word) (s : State) : Res :=
  .next (s.hostWrites ((s.writeDigSel v).wake))
def execDigestDone (s : State) : Res := .next s.digestDone
def execMkrCardSelWrite (v : Word) (s : State) : Res :=
  .next (s.hostWrites ((s.writeCardSel v).wake))
def execMkrCardFlagsRead (s : State) : Res :=
  let r := s.readCard
  .next (s.hostReads (r.2.emit (.hostResp r.1 false)))

end Sys2Proof.Machine
end

