-- ==== Sys2Proof/Machine/Coll.lean ====
section
/-! DEFINITION. Collectives, the parts that every frame and command shares (R300 to R308, R315 to R320): groups and trees,
frames and their checks, slot operations, sequence numbers and signatures, aborts at a form. -/

namespace Sys2Proof.Machine

/-! ## Groups as COORDs (R300) -/

/-- The COORDs of the members of a group code for the own package, ascending. -/
def State.collMembers (s : State) (code : Nat) : List Nat :=
  match s.ownEntry with
  | none => []
  | some i => (s.grMembers code i).map s.coordOf

/-- The code carried in frames (Table: Group codes). -/
def State.carried (s : State) (code : Nat) : Nat :=
  if code = 0xFFF then ((s.ownEntry.bind s.replicaEntry).getD 0xFFF) else code

/-- A carried code that names a group. -/
def State.codeKnown (s : State) (code : Nat) : Bool := decide (code < s.grCount) || decide (0xFFD ≤ code)

/-! ## The combining tree (R301, R302) -/

/-- The least element, zero for an empty list. -/
def least (l : List Nat) : Nat := l.foldl min (l.headD 0)

/-- The tray leader of the tray of `c`, among members `m`, under root `r`. -/
def trayLeader (m : List Nat) (r c : Nat) : Nat :=
  let t := m.filter fun x => x / 8 == c / 8
  ((t.find? fun x => x % 8 == r % 8).getD (least t))

/-- The rack leader of the rack of `c`. -/
def rackLeader (m : List Nat) (r c : Nat) : Nat :=
  let t := m.filter fun x => cRack x == cRack c
  let lead := t.filter fun x => trayLeader m r x == x
  ((lead.find? fun x => cTray x == cTray r).getD (least lead))

/-- The combining point of level `l` for the package at `c`. -/
def pointOf (m : List Nat) (r c l : Nat) : Nat :=
  match l with
  | 0 => c
  | 1 => trayLeader m r c
  | 2 => rackLeader m r c
  | _ => r

/-- The highest level that the group spans. -/
def spanOf (m : List Nat) (r : Nat) : Nat := (m.map (coordLevel r)).foldl max 0

/-- The next hop toward the root; none at the root. -/
def upHop (m : List Nat) (r c : Nat) : Option Nat :=
  if trayLeader m r c ≠ c then some (trayLeader m r c)
  else if rackLeader m r c ≠ c then some (rackLeader m r c)
  else if r ≠ c then some r else none

/-- The next hops away from the root. -/
def downHops (m : List Nat) (r c : Nat) : List Nat := m.filter fun x => x != c && upHop m r x == some c

/-- EXPECT of level `l` at combining point `c`; `forms` of a package at level 0. -/
def expectOf (forms : Nat) (m : List Nat) (r c l : Nat) : Nat :=
  if l = 0 then forms - 1 else ((downHops m r c).filter fun x => coordLevel x c == l).length

/-- A roll call within one tray, combined by direct exchange. -/
def exchanges (m : List Nat) (r : Nat) : Bool := spanOf m r == 1

/-! ## Frames (Table: Collective header) -/

abbrev tRcExch : Nat := 8
abbrev tRcUp : Nat := 9
abbrev tRcDown : Nat := 0xA
abbrev tRedUp : Nat := 0xB
abbrev tRedDown : Nat := 0xC
abbrev tAbort : Nat := 0xD
abbrev tNotice : Nat := 0xE

/-- The collective header. -/
structure CHdr where
  sig : Nat
  seq : Nat
  root : Nat
  rform : Nat
  rsv3 : Nat
  lvl : Nat
  merge : Bool
  home : Bool
  dtype : Nat
  expect : Nat
  partials : Nat
  contrib : Nat
  group : Nat
  chunk : Nat
  hold : Nat
  rsv : Nat
  deriving DecidableEq, Repr, Inhabited

def CHdr.bytes (h : CHdr) : Bytes :=
  leBytes 4 h.sig ++ leBytes 4 h.seq ++ leBytes 2 h.root
    ++ leBytes 1 (h.rform + 8 * h.rsv3 + 16 * h.lvl + 64 * b2n h.merge + 128 * b2n h.home) ++ leBytes 1 h.dtype
    ++ leBytes 2 h.expect ++ leBytes 2 h.partials ++ leBytes 4 h.contrib ++ leBytes 4 h.group ++ leBytes 4 h.chunk
    ++ leBytes 2 h.hold ++ leBytes 2 h.rsv

def CHdr.read (b : Bytes) : CHdr :=
  let r := leAt b 0xA 1
  { sig := leAt b 0 4, seq := leAt b 4 4, root := leAt b 8 2, rform := r % 8, rsv3 := r / 8 % 2, lvl := r / 16 % 4
    merge := r / 64 % 2 == 1, home := r / 128 == 1, dtype := leAt b 0xB 1, expect := leAt b 0xC 2
    partials := leAt b 0xE 2, contrib := leAt b 0x10 4, group := leAt b 0x14 4, chunk := leAt b 0x18 4
    hold := leAt b 0x1C 2, rsv := leAt b 0x1E 2 }

/-- CHUNK of the completion notice. -/
def chunkNotice : Nat := 0xFFFFFFFF

/-- Roll-call data. -/
def rollData (slotops : Nat) (ws : List Word) : Bytes :=
  leBytes 4 slotops ++ leBytes 4 0 ++ (List.range 8).flatMap fun i => leBytes 8 (ws.getD i 0).toNat
def rollWords (b : Bytes) : List Word := (List.range 8).map fun i => word (leAt b (40 + 8 * i) 8)

/-- FP32 values of a RED frame. -/
def redVals (b : Bytes) : List Nat := (List.range ((b.length - 32) / 4)).map fun i => leAt b (32 + 4 * i) 4
def redData (vs : List Nat) : Bytes := vs.flatMap fun v => leBytes 4 v

def AbortRec.bytes (a : AbortRec) : Bytes :=
  leBytes 2 a.code ++ leBytes 2 a.off ++ leBytes 1 a.form ++ leBytes 1 (b2n a.switch) ++ leBytes 2 a.det
def AbortRec.read (b : Bytes) : AbortRec :=
  { code := leAt b 32 2, off := leAt b 34 2, form := leAt b 36 1 % 8, switch := leAt b 37 1 % 2 == 1, det := leAt b 38 2 }

/-- Chunks of a bucket of `n` values, and the values of chunk `k` (R309). -/
def chunksOf (n : Nat) : Nat := (n + 1015) / 1016
def chunkLen (n k : Nat) : Nat := min 1016 (n - 1016 * k)

/-! ## Slot operations (R303) -/

/-- The smaller (or larger) of two binary64 values that are not NaN, by their bits: −0 is smaller than +0. -/
def f64Pick (big : Bool) (a b : Word) : Word :=
  if (v64 a.toNat).lt (v64 b.toNat) then (if big then b else a)
  else if (v64 b.toNat).lt (v64 a.toNat) then (if big then a else b)
  else if bitAt a 63 == big then b else a

/-- MIN_F64 and MAX_F64. -/
def f64Sel (big : Bool) (a b : Word) : Word :=
  let nan (w : Word) : Bool := match v64 w.toNat with
    | .nan => true
    | _ => false
  if nan a || nan b then 0x7FF8000000000000#64 else f64Pick big a b

/-- Slot operation `op` (Table: Slot operations). -/
def slotOp (op : Nat) (a b : Word) : Word :=
  match op with
  | 1 => a + b
  | 2 => word (rne64 (add64 (v64 a.toNat) (v64 b.toNat)))
  | 3 => if a.toNat ≤ b.toNat then a else b
  | 4 => if a.toInt ≤ b.toInt then a else b
  | 5 => f64Sel false a b
  | 6 => if a.toNat ≤ b.toNat then b else a
  | 7 => if a.toInt ≤ b.toInt then b else a
  | 8 => f64Sel true a b
  | 9 => a &&& b
  | 10 => a ||| b
  | _ => 0

/-- Slot `i`'s operation code. -/
def slotCode (ops i : Nat) : Nat := ops / 16 ^ i % 16

/-- Two sets of slots combined. -/
def combine (ops : Nat) (a b : List Word) : List Word :=
  (List.range 8).map fun i => slotOp (slotCode ops i) (a.getD i 0) (b.getD i 0)

/-- A contribution with unused slots zero. -/
def maskSlots (ops : Nat) (a : List Word) : List Word :=
  (List.range 8).map fun i => if slotCode ops i = 0 then 0 else a.getD i 0

/-- The partials of a level combined in ascending order number. -/
def combineAll (ops : Nat) (parts : List (Nat × List Word)) : List Word :=
  match (sortBy Prod.fst parts).map Prod.snd with
  | [] => List.replicate 8 0
  | p :: r => r.foldl (combine ops) (maskSlots ops p)

/-! ## Signatures and sequence numbers (R307, R308) -/

/-- SIG of a collective. -/
def sigOf (op b1 b2 slotops count code root seq : Nat) : Nat :=
  (crc32c (leBytes 1 op ++ leBytes 1 b1 ++ leBytes 2 b2 ++ leBytes 4 slotops ++ leBytes 4 count ++ leBytes 2 code
    ++ leBytes 2 root ++ leBytes 4 seq)).toNat

/-- The sequence counter of group `code` taken, and advanced. -/
def State.takeSeq (s : State) (code : Nat) : Nat × State :=
  let n := Tab.get s.rcl.seqs code
  (n, { s with rcl := { s.rcl with seqs := Tab.put s.rcl.seqs code ((n + 1) % 2 ^ 32) } })

/-- SEQ `n` lies before the counter of every group that carried code `c` stands for (R61's half-range test, R315). -/
def State.seqPast (s : State) (c n : Nat) : Bool :=
  let before (k : Nat) : Bool :=
    let d := (Tab.get s.rcl.seqs k + 2 ^ 32 - n) % 2 ^ 32
    decide (0 < d ∧ d < 2 ^ 31)
  before c && (s.carried 0xFFF != c || before 0xFFF)

/-! ## Keys and collectives -/

abbrev CKey := Nat × Nat × Nat × Nat

def Coll.key (c : Coll) : CKey := (c.root, c.rform, c.group, c.seq)

def State.coll (s : State) (k : CKey) : Option Coll := s.rcl.colls.find? fun c => c.key == k

def State.modColl (s : State) (k : CKey) (f : Coll → Coll) : State :=
  { s with rcl := { s.rcl with colls := s.rcl.colls.map fun c => if c.key == k then f c else c } }

/-- A collective that only holds contributions yet. -/
def Coll.fresh (k : CKey) (bucket : Bool) (sig slotops : Nat) : Coll :=
  { root := k.1, rform := k.2.1, group := k.2.2.1, seq := k.2.2.2, bucket := bucket, issued := false, queue := none
    cmd := 0, sig := sig, slotops := slotops, issuedAt := 0, timeoutUs := 0, holdNs := 0, merge := 0, homework := 1
    step := 0, levels := [], rchunks := [], rsums := [], contrib := 0, written := false, noticed := false
    complete := false, late := false, homeSent := [], homeIn := [], timerSent := false }

/-- The collective under a key, made when there is none. -/
def State.needColl (s : State) (k : CKey) (bucket : Bool) (sig slotops : Nat) : State :=
  if (s.coll k).isSome then s
  else { s with rcl := { s.rcl with colls := s.rcl.colls ++ [Coll.fresh k bucket sig slotops] } }

def Coll.lev (c : Coll) (l : Nat) : Level :=
  (c.levels.find? fun x => x.lvl == l).getD { (default : Level) with lvl := l }
def Coll.setLev (c : Coll) (x : Level) : Coll := { c with levels := c.levels.filter (fun y => y.lvl != x.lvl) ++ [x] }

/-- The group code that the command named, for RCL_ERR; the carried one before the issue. -/
def Coll.code (c : Coll) : Nat := if c.issued then rGroup c.cmd else c.group

/-- Timetable collective: of a timetable queue, or the block's own. -/
def State.collTt (s : State) (c : Coll) : Bool :=
  match c.queue with
  | none => true
  | some q => s.isTtQueue q

/-- Bits of RCL_ERR. -/
def rclErr (group q : Nat) : Nat := at_ 36 group + q % 8192

/-- The key is over: frames for it are discarded for 2 × TIMEOUT_US (R315). -/
def State.noteGone (s : State) (k : CKey) (us : Nat) : State :=
  let live := s.rcl.gone.filter fun g => decide (s.hall.toNat < g.2) && g.1 != k
  { s with rcl := { s.rcl with
      gone := (k, s.hall.toNat + 200 * us) :: live, colls := s.rcl.colls.filter fun c => c.key != k } }

/-- Whether R315 discards a frame of this key without a violation. -/
def State.collStale (s : State) (k : CKey) : Bool :=
  (s.coll k).isNone && (s.rcl.gone.any (fun g => g.1 == k && decide (s.hall.toNat < g.2)) || s.seqPast k.2.2.1 k.2.2.2)

/-! ## Sending -/

/-- A collective frame of collective `c` to (`dst`, `form`), by its route or by `port`. -/
def State.sendColl (s : State) (c : Coll) (typ dst form : Nat) (h : CHdr) (data : Bytes) (port : Option Nat := none) : State :=
  let hd : CHdr := { h with
    sig := c.sig, seq := c.seq, root := c.root, rform := c.rform, lvl := coordLevel s.ownCoord dst, hold := c.holdNs
    group := (s.collMembers c.group).length }
  (s.sendTo typ (if typ = tRedUp ∨ typ = tRedDown then 1 else 0) dst form (0xF000 + c.group) (hd.bytes ++ data)
    (port := port)).getD s

/-- The other forms of the package. -/
def State.otherForms (s : State) : List Nat := (List.range s.forms).filter (· != s.part.form)

/-- Sent down the tree from this head form: to the next hops, and to the forms of the package that pass `p`. -/
def State.sendDown (s : State) (c : Coll) (typ : Nat) (h : CHdr) (data : Bytes) (p : Nat → Bool) : State :=
  if !s.head then s else
  let hops := downHops (s.collMembers c.group) c.root s.ownCoord
  let s := hops.foldl (fun s d => s.sendColl c typ d 0 h data) s
  (s.otherForms.filter p).foldl (fun s f => s.sendColl c typ s.ownCoord f h data) s

/-- MERGE of an UP frame to level `l`. -/
def Coll.mergeAt (c : Coll) (l : Nat) : Bool := (l == 2 && c.merge % 2 == 1) || (l == 3 && c.merge / 2 % 2 == 1)

/-! ## Aborts at a form (R317 to R320) -/

/-- The event of a CE_ code. -/
def ceEvent (code : Nat) : Option Ev :=
  [evCeTimeout, evCeMismatch, evCeMemberLost, evCeRoster].find? fun e => e.code == code

/-- An abort counted in RCL_ABORTS. -/
def State.countAbort (s : State) (code : Nat) : State :=
  if code = evCeTimeout.code then s.incF aRclAborts 48 16 1
  else if code = evCeMismatch.code then s.incF aRclAborts 32 16 1
  else if code = evCeMemberLost.code then s.incF aRclAborts 16 16 1
  else if code = evCeRoster.code then s.incF aRclAborts 0 16 1
  else s

/-- RCL_ABORT and RCL_OFFENDER loaded. -/
def State.setRclAbort (s : State) (group seq : Nat) (a : AbortRec) : State :=
  (s.setReg aRclAbort (word (at_ 48 a.code + at_ 36 group + seq))).setReg aRclOffender
    (word (at_ 48 a.off + at_ 45 a.form + at_ 32 (b2n a.switch) + at_ 16 a.det))

/-- A collective issued at this form ends with an abort (R320): nothing is written, nothing signalled. A host queue stops;
an abort of a timetable collective is a cause of a common abort. -/
def State.collAborted (s : State) (c : Coll) (a : AbortRec) (quiet : Bool) : State :=
  let s := s.setRclAbort c.code c.seq a
  let s := s.noteGone c.key c.timeoutUs
  let s := s.dropJobs fun k => match k with
    | .raw 14 t => t == c.group * 2 ^ 32 + c.seq
    | _ => false
  if quiet then s else
  let s := s.countAbort a.code
  let s := match ceEvent a.code with
    | some e => s.logEv e (rclErr c.code (c.queue.getD 0))
    | none => s
  if s.collTt c then { s with err := { s.err with due := some (s.err.due.getD a.code) } }
  else match c.queue with
    | some q => s.failFlight q a.code fun f => f.cmd == c.cmd
    | none => s

/-- An ABORT reaches the form: its collective aborts, now or when it issues that SEQ. -/
def State.applyCollAbort (s : State) (k : CKey) (a : AbortRec) : State :=
  match s.coll k with
  | some c =>
    if c.issued then s.collAborted c a false
    else
      let s := s.noteGone k s.clTimeout
      { s with rcl := { s.rcl with early := s.rcl.early ++ [(k, a)] } }
  | none =>
    if s.collStale k ∨ s.rcl.early.any (fun e => e.1 == k) then s
    else { s with rcl := { s.rcl with early := s.rcl.early ++ [(k, a)] } }

/-- The HOLD_NS of the frames of a key: that with which its collective was issued (R324), else the one in force. -/
def State.holdOf (s : State) (k : CKey) : Nat :=
  match s.coll k with
  | some c => if c.issued then c.holdNs else s.clHold
  | none => s.clHold

/-- An ABORT of `k` sent down the tree from this form, when it is a head form. -/
def State.abortDown (s : State) (k : CKey) (sig : Nat) (a : AbortRec) : State :=
  s.sendDown { Coll.fresh k false sig 0 with holdNs := s.holdOf k } tAbort (default : CHdr) a.bytes fun _ => true

/-- The root takes an abort of `k`: it records it and sends it down, unless the result is complete or one came first. -/
def State.rootAbort (s : State) (k : CKey) (sig : Nat) (a : AbortRec) : State :=
  if (s.coll k).any (fun c => c.complete) ∨ s.collStale k ∨ s.rcl.early.any (fun e => e.1 == k) then s
  else (s.abortDown k sig a).applyCollAbort k a

/-- This form is the head form of the root's package. -/
def State.isRootHead (s : State) (k : CKey) : Bool := s.head && s.ownCoord == k.1

/-- An ABORT for `k` sent toward the root over the tree, or over the form's other UP port when the tree's is down (R317). -/
def State.abortUp (s : State) (k : CKey) (sig : Nat) (a : AbortRec) : State :=
  let c := { Coll.fresh k false sig 0 with holdNs := s.holdOf k }
  if !s.head then s.sendColl c tAbort s.ownCoord 0 (default : CHdr) a.bytes
  else match upHop (s.collMembers k.2.2.1) k.1 s.ownCoord with
    | some d =>
      let other := (List.range 2).find? s.isUp
      if (s.routePort d 0 (0xF000 + c.group)).isNone then s.sendColl c tAbort d 0 (default : CHdr) a.bytes other
      else s.sendColl c tAbort d 0 (default : CHdr) a.bytes
    | none => s

/-- A cause of an abort detected at this form (R317). -/
def State.detectAbort (s : State) (k : CKey) (sig : Nat) (a : AbortRec) : State :=
  if s.isRootHead k then s.rootAbort k sig a else s.abortUp k sig a

/-- A value of 16 bits that no rule states (the offender of a timeout; log 1). -/
def State.draw16 (s : State) : Nat × State := let (w, s) := s.draw; (fld w 0 16, s)

/-! ## Checks of a frame (R315) -/

/-- LEN fits the TYPE. -/
def collLenOk (typ len : Nat) (h : CHdr) : Bool :=
  match typ with
  | 8 | 9 | 0xA => len == 104
  | 0xB => decide (36 ≤ len ∧ len ≤ 4096) && len % 4 == 0
  | 0xC => if h.chunk = chunkNotice then len == 32 else decide (36 ≤ len ∧ len ≤ 4096) && len % 4 == 0
  | _ => len == 40

/-- RFL, DTYPE and the reserved and by-type zero fields. -/
def collFieldsOk (typ : Nat) (h : CHdr) (pay : Bytes) : Bool :=
  let up := typ == tRcUp || typ == tRedUp
  let red := typ == tRedUp || typ == tRedDown
  h.rsv3 == 0 && h.rsv == 0 && h.dtype == 0 && (!h.home || typ == tRedUp) && (!h.merge || (up && 2 ≤ h.lvl))
    && (if up then 1 ≤ h.partials else h.partials == 0 && h.expect == 0) && (red || h.chunk == 0)
    && (match typ with
        | 8 | 9 | 0xA => leAt pay 36 4 == 0 && (List.range 8).all fun i => slotCode (leAt pay 32 4) i ≤ 10
        | 0xD => leAt pay 36 1 < 8 && leAt pay 37 1 < 2
        | 0xE => (leAt pay 32 1 == 1 || leAt pay 32 1 == 2) && (slice pay 33 7).all (· == 0)
        | _ => true)

/-- The violation reason of a collective frame; none when it passes. -/
def State.collBad (s : State) (h : WHdr) (c : CHdr) (pay : Bytes) : Option Nat :=
  if h.ep < 0xF000 ∨ !s.codeKnown (h.ep - 0xF000) then some 0x44
  else if pay.length < 32 ∨ !collLenOk h.typ pay.length c then some 0x42
  else if c.lvl ≠ coordLevel h.src h.dst then some 0x40
  else if !collFieldsOk h.typ c pay then some 0x43
  else match s.coll (c.root, c.rform, h.ep - 0xF000, c.seq) with
    | none =>
      -- homework for a reduction that is over (R312)
      (match s.rcl.done.find? fun d => (d.root, d.rform, d.group, d.seq) == (c.root, c.rform, h.ep - 0xF000, c.seq) with
      | none => none
      | some d =>
        if h.typ ≠ tRedUp then none
        else if chunksOf d.count ≤ c.chunk then some 0x41
        else if chunkLen d.count c.chunk ≠ (pay.length - 32) / 4 then some 0x42
        else none)
    | some x =>
      if !x.issued ∨ (h.typ ≠ tRedUp ∧ (h.typ ≠ tRedDown ∨ c.chunk = chunkNotice)) then none
      else if chunksOf (bCount x.cmd) ≤ c.chunk then some 0x41
      else if chunkLen (bCount x.cmd) c.chunk ≠ (pay.length - 32) / 4 then some 0x42
      else none

/-- Combining states of a form: as many as collectives may be in progress (R306, R314; log 91). -/
def combStates (bucket : Bool) : Nat := if bucket then 64 else 256

/-- A frame that begins a key here finds no combining state free (R314). -/
def State.noState (s : State) (h : WHdr) (c : CHdr) (k : CKey) : Bool :=
  let red := h.typ == tRedUp || h.typ == tRedDown
  (red || h.typ == tRcUp || h.typ == tRcExch) && (s.coll k).isNone && !s.collStale k && !(c.home && s.rcl.done.any fun d =>
      (d.root, d.rform, d.group, d.seq) == k)
    && decide (combStates red ≤ s.rcl.colls.countP fun x => x.bucket == red)

/-- A received collective frame: checked, its cells given back; a stale one discarded. `f` acts on the rest. A frame for which no
combining state is free stays in the receive buffer. -/
def State.onColl (s : State) (p typ : Nat) (fr : Bytes) (bad : Bool) (f : WHdr → CHdr → CKey → Bytes → State → State) : State :=
  s.onFrame p typ fr bad fun h pay s =>
    let c := CHdr.read pay
    match s.collBad h c pay with
    | some r => s.refuseFrame p r h
    | none =>
      let k : CKey := (c.root, c.rform, h.ep - 0xF000, c.seq)
      if (s.collMembers k.2.2.1).isEmpty then s.consumed p h
      else if s.noState h c k then { s with rcl := { s.rcl with wait := s.rcl.wait ++ [(p, h.bytes, pay)] } }
      else f h c k pay (s.consumed p h)

end Sys2Proof.Machine
end

