-- ==== Sys2Proof/Machine/RollCall.lean ====
section
/-! DEFINITION. Roll calls (R302 to R304, R314): the combining levels, results, completion; the commands ROLLCALL, RC_EXCH,
RC_UP, RC_DOWN. -/

namespace Sys2Proof.Machine

/-! ## Completion at a form (R304) -/

/-- The result written to DST and posted. -/
def State.rollResult (s : State) (c : Cmd) (q : Nat) (ws : List Word) : State :=
  let s := s.t0Write (s.t0Scratch + rDst c) (ws.flatMap fun w => leBytes 8 w.toNat)
  if rRslot c = 0xFFFF then s
  else ((List.range 8).filter fun i => slotCode (rSlotops c) i != 0).foldl
    (fun s i => s.post (rRslot c + i) (ws.getD i 0) q) s

/-- The roll call under `k` has its result at this form: counters and latency, then the command completes, or the result
goes to the tutor. -/
def State.rollDone (s : State) (k : CKey) (ws : List Word) : State :=
  match s.coll k with
  | none => s
  | some c =>
    if !c.issued then s else
    let lat := (s.hall - c.issuedAt).toNat % 2 ^ 32
    let s := s.incF aRclDone 32 32 1
    let s := s.setReg aRclLat (word (at_ 32 (max lat (s.regF aRclLat 32 32)) + lat))
    let s := s.noteGone k c.timeoutUs
    match c.queue with
    | some q => (s.rollResult c.cmd q ws).finish q fun f => f.cmd == c.cmd
    | none => { s with rcl := { s.rcl with ready := s.rcl.ready ++ [(rSource c.cmd, ws)] } }

/-! ## Combining (R302, R314) -/

/-- The level holds every partial. -/
def Level.full (x : Level) : Bool := x.own && x.got == x.expect

/-- The own partial put into level `l` under order number `ord`. -/
def Coll.putOwn (c : Coll) (l expect ord contrib : Nat) (ws : List Word) : Coll :=
  let x := c.lev l
  c.setLev { x with expect := expect, own := true, contrib := x.contrib + contrib, parts := x.parts ++ [(ord, ws)] }

/-- A partial complete at level `l` goes on: it is the result, it is sent up, or it joins the next level. -/
def State.rollUp : Nat → State → CKey → Nat → State
  | 0, s, _, _ => s
  | n + 1, s, k, l =>
    match s.coll k with
    | none => s
    | some c =>
      let x := c.lev l
      if !x.full then s else
      let m := s.collMembers c.group
      let me := s.ownCoord
      let ws := combineAll c.slotops x.parts
      let h : CHdr := { (default : CHdr) with contrib := x.contrib }
      if l = spanOf m c.root then
        let s := s.modColl k fun c => { c with complete := true }
        -- in a direct exchange every member has the result; else it goes down the tree
        let s := if l = 1 ∧ exchanges m c.root then
            s.otherForms.foldl (fun s f => s.sendColl c tRcDown me f h (rollData c.slotops ws)) s
          else s.sendDown c tRcDown h (rollData c.slotops ws) fun _ => true
        s.rollDone k ws
      else if l = 0 ∧ exchanges m c.root then
        let s := (m.filter (· != me)).foldl (fun s d => s.sendColl c tRcExch d 0 h (rollData c.slotops ws)) s
        State.rollUp n (s.modColl k fun c => c.putOwn 1 (m.length - 1) me x.contrib ws) k 1
      else
        let p := pointOf m c.root me (l + 1)
        let e := expectOf s.forms m c.root p (l + 1)
        if p = me then State.rollUp n (s.modColl k fun c => c.putOwn (l + 1) e me x.contrib ws) k (l + 1)
        else
          let h := { h with expect := e, partials := 1, merge := c.mergeAt (l + 1) }
          s.sendColl c tRcUp p 0 h (rollData c.slotops ws)

/-- A partial received for level `l` from `src`, form `sform`, under order number `ord` (R314, R316). -/
def State.rollPart (s : State) (k : CKey) (l expect ord : Nat) (h : WHdr) (c : CHdr) (pay : Bytes) : State :=
  let ops := leAt pay 32 4
  let s := s.needColl k false c.sig ops
  match s.coll k with
  | none => s
  | some x =>
    let bad : AbortRec := { code := evCeMismatch.code, off := h.src, form := h.sform, switch := false, det := s.ownCoord }
    let lv := x.lev l
    let n := if l = 1 ∧ h.typ = tRcExch then 1 else c.partials
    if x.bucket ∨ x.sig ≠ c.sig ∨ x.slotops ≠ ops ∨ expect < lv.got + n ∨ (h.typ = tRcUp ∧ c.expect ≠ expect) then
      s.detectAbort k x.sig bad
    else
      let lv := { lv with
        expect := expect, got := lv.got + n, contrib := lv.contrib + c.contrib, parts := lv.parts ++ [(ord, rollWords pay)] }
      State.rollUp 4 (s.modColl k fun x => x.setLev lv) k l

/-- RC_UP. The order number is the form at level 0, else the sender's COORD. -/
def State.rcUp (s : State) (h : WHdr) (c : CHdr) (k : CKey) (pay : Bytes) : State :=
  if s.collStale k ∨ !s.head then s
  else
    let m := s.collMembers k.2.2.1
    s.rollPart k c.lvl (expectOf s.forms m k.1 s.ownCoord c.lvl) (if c.lvl = 0 then h.sform else h.src) h
      (if c.lvl = 0 then { c with contrib := 0 } else c) pay

/-- RC_EXCH. -/
def State.rcExch (s : State) (h : WHdr) (c : CHdr) (k : CKey) (pay : Bytes) : State :=
  if s.collStale k ∨ !s.head then s
  else s.rollPart k 1 ((s.collMembers k.2.2.1).length - 1) h.src h c pay

/-- RC_DOWN: relayed by a head form, and taken. -/
def State.rcDown (s : State) (c : CHdr) (k : CKey) (pay : Bytes) : State :=
  match s.coll k with
  | none => s
  | some x =>
    if x.bucket then s else
    let s := s.sendDown x tRcDown { (default : CHdr) with contrib := c.contrib } (pay.drop 32) fun _ => true
    s.rollDone k (maskSlots x.slotops (rollWords pay))

/-! ## Issue (R300, R305 to R308) -/

/-- The slots of a roll call enter the combining tree at this form: at the head form, or sent to it. -/
def State.rollContribute (s : State) (k : CKey) (ws : List Word) : State :=
  match s.coll k with
  | none => s
  | some c =>
    if s.head then State.rollUp 4 (s.modColl k fun c => c.putOwn 0 (s.forms - 1) 0 1 ws) k 0
    else s.sendColl c tRcUp s.ownCoord 0
      { (default : CHdr) with expect := s.forms - 1, partials := 1, contrib := 1 } (rollData c.slotops ws)

/-- A collective is issued: SEQ and SIG taken, frames held for it compared, an ABORT that came before applied, the
roster checked (R307, R308, R317, R320). The flag says that it goes on. -/
def State.issueColl (s : State) (q : Option Nat) (c : Cmd) (root rform : Nat) : Bool × CKey × State :=
  let code := s.carried (rGroup c)
  let bucket := cOp c == 0x41
  let (seq, s) := s.takeSeq (rGroup c)
  let k : CKey := (root, rform, code, seq)
  let ops := if bucket then 0 else rSlotops c
  let sig := if bucket then sigOf 0x41 (bDtype c) (bResult c) 0 (bCount c) code root seq
    else sigOf 0x40 (rSource c) 0 ops 0 code root seq
  let s := s.setReg aRclSig (word (at_ 32 seq + sig))
  let early := (s.rcl.early.find? fun e => e.1 == k).map Prod.snd
  let s : State := { s with rcl := { s.rcl with early := s.rcl.early.filter fun e => e.1 != k } }
  let s := s.needColl k bucket sig ops
  let held := s.coll k
  let s := s.modColl k fun x => { x with
    issued := true, queue := q, cmd := c, sig := sig, slotops := ops, issuedAt := s.hall, timeoutUs := s.clTimeout
    holdNs := s.clHold, merge := s.clMerge, homework := s.clHomework, step := s.stepCtr.toNat }
  let lost := (s.collMembers (rGroup c)).find? fun m => s.sec.rosterFailed.contains m
  match early, s.coll k with
  | some a, some x => (false, k, s.collAborted x a false)
  | _, none => (false, k, s)
  | none, some _ =>
    if held.any fun x => x.sig != sig ∨ x.slotops != ops ∨ x.bucket != bucket then
      -- the frames held under this key came first; their senders disagree with this form
      let src := (held.bind fun x => x.levels.head?).bind fun l => l.parts.head?.map fun p =>
        if l.lvl = 0 then (s.ownCoord, p.1) else (p.1, 0)
      let (o, s) := match src with
        | some o => (o, s)
        | none => let r := s.draw16; ((r.1, 0), r.2)
      (true, k, s.detectAbort k sig { code := evCeMismatch.code, off := o.1, form := o.2, switch := false, det := s.ownCoord })
    else match lost with
    | some m => (true, k, s.detectAbort k sig { code := evCeRoster.code, off := m, form := 0, switch := false, det := s.ownCoord })
    | none => (true, k, s)

/-- A roll call with its contribution enters the tree. -/
def State.startRoll (s : State) (q : Option Nat) (c : Cmd) (ws : List Word) : State :=
  let root := least (s.collMembers (rGroup c))
  let (go, k, s) := s.issueColl q c root 0
  if go && (s.coll k).isSome then s.rollContribute k (maskSlots (rSlotops c) ws) else s

/-- Operands of a ROLLCALL that are not allowed: a SOURCE that commands may not name, a reserved slot operation, places
outside SCRATCH, over a reserved area or not aligned, result slots beyond the limit. -/
def State.rollIllegal (s : State) (c : Cmd) : Bool :=
  let last := ((List.range 8).filter fun i => slotCode (rSlotops c) i != 0).foldl (fun _ i => i + 1) 0
  rSource c != 0 || (List.range 8).any (fun i => 10 < slotCode (rSlotops c) i)
    || rSrc c % 64 != 0 || rDst c % 64 != 0 || s.scratchSize < rSrc c + 64 || s.scratchSize < rDst c + 64
    || s.hitsReserved (rDst c) 64
    || (rRslot c != 0xFFFF && limSlots s.part.set < rRslot c + last)

/-- A collective command refused (R300, R305). -/
def State.refuseColl (s : State) (q : Nat) (e : Ev) (c : Cmd) : State :=
  (s.logEv e (rclErr (rGroup c) q)).stopQueue q e.code

/-- Collectives of a kind in progress (R306): those that this form has issued and, at the head form, those that another form of the
package has. The count of another form's is the head form's alone (log 91). -/
def State.collsOf (s : State) (bucket : Bool) : Nat :=
  s.rcl.colls.countP fun c => c.bucket == bucket && (c.issued || (s.head && ((c.lev 0).got != 0 || !(c.lev 0).chunks.isEmpty)))

/-- The key that the next collective of a command takes is in progress in the package already. -/
def State.keyHeld (s : State) (c : Cmd) (root rform : Nat) : Bool :=
  (s.coll (root, rform, s.carried (rGroup c), Tab.get s.rcl.seqs (rGroup c))).isSome

/-- No further roll call may begin (R306). -/
def State.rollsFull (s : State) (c : Cmd) : Bool :=
  decide (256 ≤ s.collsOf false) && !s.keyHeld c (least (s.collMembers (rGroup c))) 0

/-- Group checks of R300: an illegal code, or no member. -/
def State.groupRefusal (s : State) (c : Cmd) : Option Ev :=
  if !s.codeKnown (rGroup c) then some evRclIllegal
  else if !(s.collMembers (rGroup c)).contains s.ownCoord ∨ s.ownEntry.isNone then some evRclNotMember
  else none

/-- ROLLCALL taken from queue `q`. Beyond the limit of R306 it stays with its queue. -/
def State.rollcall (s : State) (q : Nat) : State :=
  match s.issuedTo q 0x40 with
  | none => s
  | some (c, _) =>
    match s.groupRefusal c with
    | some e => s.refuseColl q e c
    | none =>
      if s.rollIllegal c then s.refuseColl q evRclIllegal c
      else if s.t0Bad (s.t0Scratch + rSrc c) 64 then
        (s.logEv evSramUncorrectable 0).stopQueue q evSramUncorrectable.code
      else if s.rollsFull c then s
      else
        let bs := s.t0Read (s.t0Scratch + rSrc c) 64
        (s.acceptCmd q false).startRoll (some q) c ((List.range 8).map fun i => word (leAt bs (8 * i) 8))

end Sys2Proof.Machine
end

