-- ==== Sys2Proof/Machine/Buckets.lean ====
section
/-! DEFINITION. Bucket reductions (R305, R309 to R313): chunks through the combining levels, deadlines and homework, the
result and its notice; the parts of the commands BUCKET, RED_UP, RED_DOWN, NOTICE, BUCKET_DEADLINE. -/

namespace Sys2Proof.Machine

/-! ## The run that receives the result (R305, R174, R175) -/

/-- This form receives the result: the root form, or the root form of every member. -/
def State.isDest (s : State) (c : Coll) : Bool :=
  s.part.form == c.rform && (s.ownCoord == c.root || bResult c.cmd == 1)

/-- Values added to the run of `piece` from `block` for `step`; the first ones to a new run are written as they are. -/
def State.intoRun (s : State) (piece block count step : Nat) (vals : List (Nat × Nat)) : Nat × State :=
  let had := s.mkr.runs.any fun r => r.piece == piece && r.first == block && r.step == step
  let (id, s) := s.openRun piece block (count / 32768) step
  (id, s.stageAdd id had vals)

/-- ρ of R175 for a result with `contrib` of `members` contributions. -/
def rhoOf (members contrib : Nat) : Nat := rne32 ((Fp.ofNat members).div (Fp.ofNat contrib))

/-- The staging run that takes a result has a place, which it is given now if there is room (R174). -/
def State.bucketRoom (s : State) (c : Coll) : Bool × State :=
  let (id, s) := s.openRun (bPiece c.cmd) (bBlock c.cmd) (bCount c.cmd / 32768) s.stageStep
  let s := s.placeRun id
  ((s.stageRun id).any fun r => r.place.isSome, s)

/-- The whole result written to the staging run; the root form counts a short result for its next gate (R311). -/
def State.writeBucket (s : State) (k : CKey) : State :=
  match s.coll k with
  | none => s
  | some c =>
    let n := bCount c.cmd
    let vals := (List.range n).map fun i => (i, (Tab.get c.rsums i).toNat)
    let (id, s) := s.intoRun (bPiece c.cmd) (bBlock c.cmd) n s.stageStep vals
    let m := (s.collMembers c.group).length
    let s := s.modRun id fun r => { r with rho := rhoOf m c.contrib }
    let s := if c.contrib < m ∧ s.ownCoord = c.root then { s with mkr := { s.mkr with gate2 := s.mkr.gate2 + 1 } } else s
    s.modColl k fun c => { c with written := true }

/-! ## Homework (R312) -/

/-- Homework frames of collective `c` that no partner has acknowledged yet. -/
def State.homePending (s : State) (c : Coll) : Bool :=
  let mine (head pay : Bytes) : Bool :=
    let h := WHdr.read head
    let x := CHdr.read pay
    h.typ == tRedUp && h.ep == 0xF000 + c.group && x.home && x.seq == c.seq && x.root == c.root && x.rform == c.rform
  s.fab.links.any fun l => l.2.queue.any (fun f => mine f.head f.pay)
    || l.2.replay.any fun f => mine (slice f.bytes (hdrOff l.1) 24) f.pay

/-- Homework added into the run of the step after the collective's (R176, R312, R345). -/
def State.addHomework (s : State) (piece block count step : Nat) (vals : List (Nat × Nat)) (group : Nat) : State :=
  if (if s.tut.term = 3 then s.tut.mainTerm else s.tut.term) ≠ 1 then (s.logEv evHwDropped (rclErr group 0)).incF aRclLate 0 16 1
  else (s.intoRun piece block count (max (step + 1) s.stageStep) vals).2

/-- Values of chunk `ch`, by value number. -/
def chunkVals (ch : Nat) (vs : List Nat) : List (Nat × Nat) := vs.zipIdx.map fun v => (1016 * ch + v.2, v.1)

/-- A homework chunk at its destination form. -/
def State.homeworkIn (s : State) (k : CKey) (ch : Nat) (vs : List Nat) : State :=
  let vals := chunkVals ch vs
  match s.rcl.done.find? fun d => (d.root, d.rform, d.group, d.seq) == k with
  | some d => s.addHomework d.piece d.block d.count d.step vals d.group
  | none =>
    match s.coll k with
    | some c =>
      if c.issued then s.addHomework (bPiece c.cmd) (bBlock c.cmd) (bCount c.cmd) c.step vals c.group
      else s.modColl k fun c => { c with homeIn := c.homeIn ++ vals }
    | none => s

/-- The chunks of the package partial that are complete and not yet sent go out as homework. -/
def State.sendHomework (s : State) (k : CKey) : State :=
  match s.coll k with
  | none => s
  | some c =>
    if !c.late ∨ !c.issued ∨ !s.head then s else
    let x := c.lev 0
    let n := bCount c.cmd
    let ready := (List.range (chunksOf n)).filter fun ch =>
      x.ownCh.contains ch && (Tab.get x.chunks ch).1 == s.forms - 1 && !c.homeSent.contains ch
    let dests := if bResult c.cmd = 1 then s.collMembers c.group else [c.root]
    let one (s : State) (ch : Nat) : State :=
      let vs := (List.range (chunkLen n ch)).map fun i => (Tab.get x.sums (1016 * ch + i)).toNat
      let h : CHdr := { (default : CHdr) with partials := 1, contrib := 1, chunk := ch, home := true }
      dests.foldl (fun s d =>
        if d = s.ownCoord ∧ c.rform = s.part.form then
          s.addHomework (bPiece c.cmd) (bBlock c.cmd) n c.step (chunkVals ch vs) c.group
        else s.sendColl c tRedUp d c.rform h (redData vs)) s
    (ready.foldl one s).modColl k fun c => { c with homeSent := c.homeSent ++ ready }

/-- A LATE notice reaches this package (R312). -/
def State.lateNotice (s : State) (k : CKey) (sig : Nat) : State :=
  let s := s.needColl k true sig 0
  match s.coll k with
  | none => s
  | some c =>
    let s := s.incF aRclLate 32 16 1
    if (if c.issued then c.homework else s.clHomework) = 0 then
      let s := (s.logEv evHwAdded (rclErr c.code (c.queue.getD 0))).incF aRclLate 16 16 1
      (s.modColl k fun c => { c with late := true }).sendHomework k
    else (s.logEv evHwDropped (rclErr c.code (c.queue.getD 0))).incF aRclLate 0 16 1

/-! ## Completion (Table: Collective opcodes) -/

/-- The BUCKET under `k` completes at this form once the notice is here, the result is written and its homework is
acknowledged; its staging run completes with it (R305, R175). -/
def State.bucketDone (s : State) (k : CKey) : State :=
  match s.coll k with
  | none => s
  | some c =>
    let dest := s.isDest c
    if !c.bucket ∨ !c.issued ∨ !c.noticed ∨ (dest ∧ !c.written)
        ∨ (c.late ∧ (c.homeSent.length < chunksOf (bCount c.cmd) ∨ s.homePending c)) then s
    else
      let s := s.incF aRclDone 0 32 1
      let d : CollDone := { root := c.root, rform := c.rform, group := c.group, seq := c.seq, piece := bPiece c.cmd
                            block := bBlock c.cmd, count := bCount c.cmd, step := c.step }
      let s := s.noteGone k c.timeoutUs
      let s : State := { s with rcl := { s.rcl with
        done := if dest then d :: s.rcl.done.filter fun x => decide (s.stepCtr.toNat ≤ x.step + 1) else s.rcl.done } }
      let s := match c.queue with
        | some q => s.finish q fun f => f.cmd == c.cmd
        | none => s
      if dest then s.closeRuns [(bPiece c.cmd, bBlock c.cmd)] else s

/-- Every bucket tested for completion: a LINK frame may have acknowledged its homework. -/
def State.bucketsDone (s : State) : State := (s.rcl.colls.map Coll.key).foldl State.bucketDone s

/-! ## The result (R313) -/

/-- A destination that has the whole result writes it, once the root has it whole: at the root form with the last chunk, elsewhere
with the notice (R313). A result whose run waits for room is not written yet (R174). -/
def State.writeIfDue (s : State) (k : CKey) : State :=
  match s.coll k with
  | none => s
  | some c =>
    if !c.issued ∨ c.written ∨ !s.isDest c ∨ c.rchunks.length < chunksOf (bCount c.cmd) ∨ (bResult c.cmd = 1 ∧ !c.noticed) then s
    else match s.bucketRoom c with
    | (true, s) => s.writeBucket k
    | (false, s) => s

/-- A completion notice sent on by a head form, and taken. -/
def State.takeNotice (s : State) (k : CKey) (contrib : Nat) (fromForm : Option Nat) : State :=
  match s.coll k with
  | none => s
  | some c =>
    let h : CHdr := { (default : CHdr) with contrib := contrib, chunk := chunkNotice }
    let s := s.sendDown c tRedDown h [] fun f => fromForm != some f
    ((s.modColl k fun c => { c with noticed := true }).writeIfDue k).bucketDone k

/-- A destination has written the result: its BUCKET may complete; the root form of a RESULT 0 reduction sends the notice first. -/
def State.afterWrite (s : State) (k : CKey) : State :=
  match s.coll k with
  | none => s
  | some c =>
    if bResult c.cmd = 1 then s.bucketDone k
    else if !c.written ∨ c.noticed then s
    else if s.head then s.takeNotice k c.contrib none
    else
      let s := s.sendColl c tRedDown s.ownCoord 0 { (default : CHdr) with contrib := c.contrib, chunk := chunkNotice } []
      (s.modColl k fun c => { c with noticed := true }).bucketDone k

/-- Results that waited for a place for their run are written now that there may be one. -/
def State.bucketsDue (s : State) : State :=
  (s.rcl.colls.filter fun c => c.bucket && c.issued && !c.written && s.isDest c
    && decide (chunksOf (bCount c.cmd) ≤ c.rchunks.length) && (bResult c.cmd == 0 || c.noticed)).foldl (fun s c =>
      (s.writeIfDue c.key).afterWrite c.key) s

/-- Result chunk `ch` at this form: a destination keeps it, and writes the run once it has every chunk; the root form of a
RESULT 0 reduction then sends the notice. -/
def State.takeChunk (s : State) (k : CKey) (ch contrib : Nat) (vs : List Nat) : State :=
  let put (c : Coll) : Coll := { c with
    rchunks := if c.rchunks.contains ch then c.rchunks else ch :: c.rchunks
    rsums := (chunkVals ch vs).foldl (fun t v => Tab.put t v.1 (BitVec.ofNat 32 v.2)) c.rsums, contrib := contrib }
  let s := s.modColl k put
  match s.coll k with
  | none => s
  | some c =>
    if !c.issued ∨ c.written ∨ !s.isDest c ∨ c.rchunks.length < chunksOf (bCount c.cmd) then s
    else (s.writeIfDue k).afterWrite k

/-- The whole result is at the root's head form: it goes to the destination forms, then the notice (R313). -/
def State.bucketResult (s : State) (k : CKey) : State :=
  match s.coll k with
  | none => s
  | some c =>
    let n := bCount c.cmd
    let x := c.lev (spanOf (s.collMembers c.group) c.root)
    let contrib := (Tab.get x.chunks 0).2
    let s := s.modColl k fun c => { c with complete := true, contrib := contrib }
    let one (s : State) (ch : Nat) : State :=
      let vs := (List.range (chunkLen n ch)).map fun i => (Tab.get x.sums (1016 * ch + i)).toNat
      let h : CHdr := { (default : CHdr) with contrib := contrib, chunk := ch }
      let s := if bResult c.cmd = 1 then s.sendDown c tRedDown h (redData vs) fun f => f == c.rform
        else if c.rform = 0 then s
        else s.sendColl c tRedDown s.ownCoord c.rform h (redData vs)
      if c.rform = 0 then s.takeChunk k ch contrib vs else s
    let s := (List.range (chunksOf n)).foldl one s
    if bResult c.cmd = 1 then s.takeNotice k contrib none else s

/-! ## Combining (R309 to R311, R314) -/

/-- The admission at a tray leader is over, or there is none: no deadline, another level, or every member admitted. -/
def State.admitted (s : State) (c : Coll) (x : Level) : Bool :=
  x.lvl != 1 || x.closed || (c.issued && bDeadline c.cmd == 0)
    || x.admitted.length == expectOf s.forms (s.collMembers c.group) c.root s.ownCoord 1 + 1

/-- Chunk `ch` of a level has every partial that it awaits. -/
def State.chunkFull (s : State) (c : Coll) (x : Level) (ch : Nat) : Bool :=
  let own := s.ownCoord % 8
  let out (sl : Nat) : Bool := x.lvl == 1 && x.excluded.contains sl
  let need := x.expect - (if x.lvl = 1 then (x.excluded.filter (· != own)).length else 0)
  (Tab.get x.chunks ch).1 == need && (x.ownCh.contains ch || out own) && s.admitted c x

/-- Values added into chunk `ch` of a level: the first partial is taken as it is, others add with RNE32 (R309). -/
def Level.addChunk (x : Level) (ch partials contrib : Nat) (own : Bool) (vs : List Nat) : Level :=
  let old := Tab.get x.chunks ch
  let first := old.1 == 0 && !x.ownCh.contains ch
  let add (t : Tab (BitVec 32)) (v : Nat × Nat) : Tab (BitVec 32) :=
    Tab.put t v.1 (BitVec.ofNat 32 (if first then v.2 else rne32 (add32 (v32 (Tab.get t v.1).toNat) (v32 v.2))))
  { x with
    chunks := Tab.put x.chunks ch (old.1 + partials, old.2 + contrib)
    ownCh := if own then ch :: x.ownCh else x.ownCh
    sums := (chunkVals ch vs).foldl add x.sums }

/-- Chunk 0 of a tray member has come: its timer runs, and the member is admitted while the admission is open (R310). -/
def Level.admitSlot (x : Level) (ch slot : Nat) : Level :=
  if x.lvl = 1 ∧ ch = 0 ∧ !x.closed then { x with started := true, admitted := slot :: x.admitted.filter (· != slot) } else x

/-- A chunk that is complete at level `l` goes on: it is part of the result, it is sent up, or it joins the next level. -/
def State.chunkUp : Nat → State → CKey → Nat → Nat → State
  | 0, s, _, _, _ => s
  | n + 1, s, k, l, ch =>
    match s.coll k with
    | none => s
    | some c =>
      let x := c.lev l
      if !s.chunkFull c x ch ∨ x.sentCh.contains ch then s else
      let s := s.modColl k fun c => c.setLev { x with sentCh := ch :: x.sentCh }
      let m := s.collMembers c.group
      let me := s.ownCoord
      let vs := (List.range 1016).filterMap fun i =>
        if c.issued && chunkLen (bCount c.cmd) ch ≤ i then none else some (Tab.get x.sums (1016 * ch + i)).toNat
      let contrib := (Tab.get x.chunks ch).2
      if l = spanOf m c.root then
        if x.sentCh.length + 1 = chunksOf (bCount c.cmd) then s.bucketResult k else s
      else
        let p := pointOf m c.root me (l + 1)
        let e := expectOf s.forms m c.root p (l + 1)
        if p = me then
          let y := (c.lev (l + 1)).admitSlot ch (me % 8)
          if y.excluded.contains (me % 8) then s
          else
            let y := { y with expect := e }.addChunk ch 0 contrib true vs
            State.chunkUp n (s.modColl k fun c => c.setLev y) k (l + 1) ch
        else
          let h : CHdr := { (default : CHdr) with
            expect := e, partials := 1, contrib := contrib, chunk := ch, merge := c.mergeAt (l + 1) }
          s.sendColl c tRedUp p 0 h (redData vs)

/-- Chunks of a level tried again, after the issue or the end of an admission. -/
def State.chunksUp (s : State) (k : CKey) (l : Nat) : State :=
  match s.coll k with
  | none => s
  | some c => (List.range (chunksOf (bCount c.cmd))).foldl (fun s ch => State.chunkUp 4 s k l ch) s

/-- A partial of a chunk received at a combining point (R314). -/
def State.redPart (s : State) (k : CKey) (h : WHdr) (c : CHdr) (vs : List Nat) : State :=
  let s := s.needColl k true c.sig 0
  match s.coll k with
  | none => s
  | some x =>
    let bad : AbortRec := { code := evCeMismatch.code, off := h.src, form := h.sform, switch := false, det := s.ownCoord }
    let m := s.collMembers k.2.2.1
    let e := expectOf s.forms m k.1 s.ownCoord c.lvl
    let lv := (x.lev c.lvl).admitSlot c.chunk (h.src % 8)
    if !x.bucket ∨ (x.sig ≠ c.sig ∧ (x.issued ∨ x.sig ≠ 0)) ∨ c.expect ≠ e ∨ e < (Tab.get lv.chunks c.chunk).1 + c.partials then
      s.detectAbort k x.sig bad
    else if c.lvl = 1 ∧ (lv.excluded.contains (h.src % 8) ∨ (lv.closed ∧ !lv.admitted.contains (h.src % 8))) then s
    else
      let lv := { lv with expect := e }.addChunk c.chunk c.partials (if c.lvl = 0 then 0 else c.contrib) false vs
      let s := s.modColl k fun x => { x.setLev lv with sig := c.sig }
      -- the chunk count is known once this form has issued the command
      if x.issued then (if lv.lvl = 1 ∧ c.chunk = 0 then s.chunksUp k 1 else State.chunkUp 4 s k c.lvl c.chunk).sendHomework k
      else s

/-- Homework that comes before the destination has issued the command is held. -/
def State.needHome (s : State) (k : CKey) (c : CHdr) : State :=
  if s.rcl.done.any fun d => (d.root, d.rform, d.group, d.seq) == k then s else s.needColl k true c.sig 0

/-- RED_UP: homework goes to its run; the rest is combined at a head form. -/
def State.redUp (s : State) (h : WHdr) (c : CHdr) (k : CKey) (pay : Bytes) : State :=
  let vs := redVals pay
  if c.home then
    if (s.rcl.done.any fun d => (d.root, d.rform, d.group, d.seq) == k) ∨ !s.collStale k then
      (s.needHome k c).homeworkIn k c.chunk vs
    else s
  else if s.collStale k ∨ !s.head then s
  else s.redPart k h c vs

/-- RED_DOWN: a result chunk or the notice, relayed and taken. -/
def State.redDown (s : State) (h : WHdr) (c : CHdr) (k : CKey) (pay : Bytes) : State :=
  let s := if s.collStale k then s else s.needColl k true c.sig 0
  match s.coll k with
  | none => s
  | some x =>
    if c.chunk = chunkNotice then s.takeNotice k c.contrib (if h.src = s.ownCoord then some h.sform else none)
    else
      let s := if h.src = s.ownCoord then s
        else s.sendDown x tRedDown { (default : CHdr) with contrib := c.contrib, chunk := c.chunk } (pay.drop 32)
          fun f => f == k.2.1
      s.takeChunk k c.chunk c.contrib (redVals pay)

/-! ## Deadlines (R310, R311) -/

/-- DEADLINE_US has passed at the tray leader: who has not been admitted is excluded and told. -/
def State.bucketDeadline (s : State) (group seq : Nat) : State :=
  match s.rcl.colls.find? fun c => c.bucket && c.issued && c.group == group && c.seq == seq && bDeadline c.cmd != 0
      && (c.lev 1).started && !(c.lev 1).closed && trayLeader (s.collMembers c.group) c.root s.ownCoord == s.ownCoord with
  | none => s
  | some c =>
    if !s.head then s else
    let m := s.collMembers c.group
    let me := s.ownCoord
    let tray := (m.filter fun x => x / 8 == me / 8)
    let x := c.lev 1
    let gone := tray.filter fun d => !x.admitted.contains (d % 8)
    let s := s.modColl c.key fun c => c.setLev { x with closed := true, excluded := gone.map (· % 8) }
    if gone.isEmpty then s else
    let s : State := { s with mkr := { s.mkr with gate2 := s.mkr.gate2 + 1 } }
    let s := s.incF aRclLate 48 16 1
    let s := gone.foldl (fun s d =>
      if d = me then s.lateNotice c.key c.sig
      else s.sendColl c tNotice d 0 (default : CHdr) (leBytes 1 1 ++ leBytes 7 0)) s
    s.chunksUp c.key 1

/-! ## Issue (R305, R306) -/

/-- The source values enter the combining tree; a value that is not finite counts for gate slot 0 (R28). -/
def State.bucketContribute (s : State) (k : CKey) (vals : List Nat) : State :=
  match s.coll k with
  | none => s
  | some c =>
    let nf := vals.any fun v => !(v32 v).isFin
    let s := if nf then { s with mkr := { s.mkr with gate0 := true } } else s
    let n := bCount c.cmd
    let one (s : State) (ch : Nat) : State :=
      let vs := (vals.drop (1016 * ch)).take (chunkLen n ch)
      if s.head then
        let s := s.modColl k fun c => c.setLev ({ (c.lev 0) with expect := s.forms - 1 }.addChunk ch 0 1 true vs)
        State.chunkUp 4 s k 0 ch
      else s.sendColl c tRedUp s.ownCoord 0
        { (default : CHdr) with expect := s.forms - 1, partials := 1, contrib := 1, chunk := ch } (redData vs)
    ((List.range (chunksOf n)).foldl one s).sendHomework k

/-- The read of a bucket source in T1 has ended: read errors leave free values (log 44). -/
def State.bucketRead (s : State) (tag : Nat) (ok : Bool) (data : Bytes) : State :=
  match s.rcl.colls.find? fun c => c.issued && c.bucket && c.group * 2 ^ 32 + c.seq == tag with
  | none => s
  | some c =>
    let n := 4 * bCount c.cmd
    let (bs, s) := if ok then (data, s) else s.drawBytes n
    s.bucketContribute c.key ((List.range (bCount c.cmd)).map fun i => leAt bs (4 * i) 4)

/-- Byte address and tier of the source of a BUCKET. -/
def bSrcT1 (c : Cmd) : Bool := bSrc c / 2 ^ 63 == 1
def bSrcAddr (c : Cmd) : Nat := bSrc c % 2 ^ 48

/-- Homework held for the command is added. -/
def State.addHeld (s : State) (k : CKey) (x : Coll) : State :=
  if x.homeIn.isEmpty then s
  else
    let s := s.addHomework (bPiece x.cmd) (bBlock x.cmd) (bCount x.cmd) x.step x.homeIn x.group
    s.modColl k fun c => { c with homeIn := [] }

/-- The source read and sent, and what had been held for the key taken up (R314). -/
def State.startBucket (s : State) (q : Nat) (c : Cmd) (root : Nat) : State :=
  let (go, k, s) := s.issueColl (some q) c root (bRootForm c)
  if !go ∨ (s.coll k).isNone then s else
  -- a result and homework that came before the issue
  let s := match s.coll k with
    | some x =>
      let s := x.rchunks.head?.elim s fun ch => s.takeChunk k ch x.contrib
        ((List.range (chunkLen (bCount c) ch)).map fun i => (Tab.get x.rsums (1016 * ch + i)).toNat)
      s.addHeld k x
    | none => s
  let n := bCount c
  let a := bSrcAddr c
  if !bSrcT1 c then
    let bs := s.t0Read (s.t0Staging + a) (4 * n)
    s.bucketContribute k ((List.range n).map fun i => leAt bs (4 * i) 4)
  else match s.stageAt a with
    | some (id, v) =>
      let sums := ((s.stageRun id).map StageRun.sums).getD []
      s.bucketContribute k ((List.range n).map fun i => (Tab.get sums (v + i)).toNat)
    | none => s.startJob (.raw 14 (k.2.2.1 * 2 ^ 32 + k.2.2.2)) fun id => s.readReqs 1 a (4 * n) .read 4113 id 0

/-- Operands of a BUCKET that are not allowed (R305, Table: BUCKET operands). -/
def State.bucketIllegal (s : State) (c : Cmd) : Bool :=
  let n := bCount c
  let root := s.coordOfNode (bRoot c)
  let a := bSrcAddr c
  let dest := bRootForm c == s.part.form && (bResult c == 1 || root == some s.ownCoord)
  bDtype c != 0 || n == 0 || n % 32768 != 0 || s.mkBucketTiles * 8192 < n
    || root.isNone || !(s.collMembers (rGroup c)).contains (root.getD 0) || s.forms ≤ bRootForm c
    || (dest && (s.mkPieces ≤ bPiece c || s.pcNm (bPiece c) < bBlock c + n / 32768))
    || (bDeadline c != 0 && (bDeadline c < 10 || 1000000 < bDeadline c || s.clTimeout ≤ bDeadline c))
    || a % 4096 != 0 || (!bSrcT1 c && s.ckStaging * 65536 < a + 4 * n)

/-- BUCKET taken from queue `q`. -/
def State.bucket (s : State) (q : Nat) : State :=
  match s.issuedTo q 0x41 with
  | none => s
  | some (c, _) =>
    match s.groupRefusal c with
    | some e => s.refuseColl q e c
    | none =>
      if s.bucketIllegal c then s.refuseColl q evRclIllegal c
      else if !bSrcT1 c && s.t0Bad (s.t0Staging + bSrcAddr c) (4 * bCount c) then
        (s.logEv evSramUncorrectable 0).stopQueue q evSramUncorrectable.code
      else if 64 ≤ s.collsOf true ∧ !s.keyHeld c ((s.coordOfNode (bRoot c)).getD 0) (bRootForm c) then s
      else (s.acceptCmd q false).startBucket q c ((s.coordOfNode (bRoot c)).getD 0)

/-! ## Notices and timers (R312, R317 to R319) -/

/-- A NOTICE: LATE at an excluded member, TIMEOUT at the root. -/
def State.noticeIn (s : State) (h : WHdr) (c : CHdr) (k : CKey) (pay : Bytes) : State :=
  if s.collStale k then s
  else if leAt pay 32 1 = 1 then (if s.head then (s.lateNotice k c.sig).bucketDone k else s)
  else if s.isRootHead k then
    let (o, s) := s.draw16
    s.rootAbort k c.sig { code := evCeTimeout.code, off := o, form := 0, switch := false, det := h.src }
  else s

/-- TIMEOUT_US has passed since the issue (R317, R319). -/
def State.collTimeout (s : State) (group seq : Nat) : State :=
  match s.rcl.colls.find? fun c => c.issued && c.group == group && c.seq == seq && !c.timerSent with
  | none => s
  | some c =>
    let (o, s) := s.draw16
    let a : AbortRec := { code := evCeTimeout.code, off := o, form := 0, switch := false, det := s.ownCoord }
    if s.level ≠ 3 then s.collAborted c a false
    else
      let s := s.modColl c.key fun c => { c with timerSent := true }
      if s.isRootHead c.key then s.rootAbort c.key c.sig a
      else s.sendColl c tNotice c.root 0 (default : CHdr) (leBytes 1 2 ++ leBytes 7 0)

/-- 2 × TIMEOUT_US have passed without a result or an ABORT (R318). -/
def State.collLost (s : State) (group seq : Nat) : State :=
  match s.rcl.colls.find? fun c => c.issued && c.group == group && c.seq == seq && !c.noticed && !c.written with
  | none => s
  | some c =>
    let (o, s) := s.draw16
    s.collAborted c { code := evCeMemberLost.code, off := o, form := 0, switch := false, det := s.ownCoord } false

/-! ## A port is lost (Table: Abort causes) -/

/-- The COORDs and forms to which collective `c` sends from this form. -/
def State.collHops (s : State) (c : Coll) : List (Nat × Nat) :=
  let m := s.collMembers c.group
  let me := s.ownCoord
  let net := if !c.bucket ∧ exchanges m c.root then m.filter (· != me)
    else (upHop m c.root me).toList ++ downHops m c.root me
  if !s.head then
    -- the tray links of this form carry the head form's frames (R275)
    (me, 0) :: (net.filter fun d => s.trayMode == 1 && d / 8 == me / 8 && cSlotOf d ^^^ cSlotOf me == s.part.form).map fun d => (d, 0)
  else net.map (fun d => (d, 0)) ++ s.otherForms.map fun f => (me, f)

/-- The collectives in progress that use port `p`, each with the hop concerned; taken before the port leaves UP. -/
def State.collsOnPort (s : State) (p : Nat) : List (CKey × Nat × Nat × Nat) :=
  (s.rcl.colls.filter (·.issued)).filterMap fun c =>
    ((s.collHops c).find? fun d => s.routePort d.1 d.2 (0xF000 + c.group) == some p).map fun d => (c.key, c.sig, d.1, d.2)

/-- Those collectives have lost a member. -/
def State.collsLost (s : State) (l : List (CKey × Nat × Nat × Nat)) : State :=
  l.foldl (fun s x => s.detectAbort x.1 x.2.1
    { code := evCeMemberLost.code, off := x.2.2.1, form := x.2.2.2, switch := false, det := s.ownCoord }) s

end Sys2Proof.Machine
end

