-- ==== Sys2Proof/Machine/Numerics.lean ====
section
/-! DEFINITION. Histories and productions (R155, R156, R159, R166, R167), the abandonment of entries (R161, R335), the
Philox counter registers (R143); and the commands NUM_HIST_SEL_WRITE, NUM_HIST_STATE_READ, PHILOX_CTR_WRITE. -/

namespace Sys2Proof.Machine

/-! ## Histories (R155, R156) -/

def State.histAddr (s : State) (h : Nat) : Nat := s.t0Scratch + 128 * h
/-- AMAX[i] of history `h`. -/
def State.amax (s : State) (h i : Nat) : Nat := leNat (s.t0Read (s.histAddr h + 4 * i) 4)
def State.histNext (s : State) (h : Nat) : Nat := leNat (s.t0Read (s.histAddr h + 0x40) 1) % 16

/-- A of R156, as FP32: the largest entry, 1.0 for zero. -/
def State.estimate (s : State) (h : Nat) : Nat :=
  let a := (List.range 16).foldl (fun a i => max a (s.amax h i)) 0
  if a = 0 then 0x3F800000 else a

/-- c0 of R156 for a format. -/
def State.histStart (s : State) (h fmt : Nat) : Nat := startCode fmt s.nmHeadroom (s.estimate h)

/-- Every history emptied. -/
def State.emptyHists (s : State) : State :=
  if s.nmHists = 0 then s else s.t0Write (s.t0Scratch) (List.replicate (128 * s.nmHists) 0)

/-- AMAX[NEXT] replaced and NEXT advanced (R159). -/
def State.writeHist (s : State) (h a : Nat) : State :=
  let n := s.histNext h
  (s.t0Write (s.histAddr h + 4 * n) (leBytes 4 a)).t0Write (s.histAddr h + 0x40) (leBytes 1 ((n + 1) % 16))

/-! ## Commands that quantise -/

/-- Unit of a bench or row-unit command. -/
def cmdUnit (c : Cmd) : Option Nat := if 0x20 ≤ cOp c ∧ cOp c ≤ 0x22 then some (uUnit c) else none

/-- The command quantises to a scaled format, so that it names a history. -/
def quantises (c : Cmd) : Bool :=
  (cOp c == 0x20 && (uDest c == 0 || uDest c == 3) || cOp c == 0x21 && decide (65536 ≤ uSteps c) || cOp c == 0x22)
    && scaled (uOutFmt c) && decide (uOutFmt c ≤ 9)

/-! ## Productions (R159) -/

/-- The entries of period `p`. -/
def perEntries (b : Bytes) (p : Nat) : List Nat :=
  if p = 0 ∨ ttPeriods b < p then [] else (List.range (ttPer b p 2 2)).map (ttPer b p 0 2 + ·)

/-- The quantising commands of period `p` that name history `h`, as entry and index. -/
def State.prodCmds (s : State) (p h : Nat) : List (Nat × Nat) :=
  let b := s.ttSect
  (perEntries b p).flatMap fun e =>
    ((List.range (entCmds b e)).filter fun i =>
      let c := ttCmd b (entFirst b e + i)
      quantises c && uHist c == h).map fun i => (e, i)

/-- A command of the section in force that quantises leaves its queue: `done`, with the largest finite |F|; or dropped
(`done` false). The production ends with its last command. -/
def State.prodGone (s : State) (tag : Option EntTag) (c : Cmd) (done : Bool) (a : Nat) : State :=
  match tag with
  | none => s
  | some t =>
    if t.kind ≠ 0 ∨ !quantises c then s else
    let per := s.periodOf tag
    let h := uHist c
    let old : Produced := (s.bnc.prods.find? fun p => p.hist == h && p.period == per).getD
      { hist := h, period := per, gone := [] }
    let others := old.gone.filter fun g => !(g.1 == t.entry && g.2.1 == t.idx)
    let p : Produced := { old with gone := (t.entry, t.idx, if done then a else 0) :: others }
    let rest := s.bnc.prods.filter fun x => !(x.hist == h && x.period == per)
    if (s.prodCmds per h).all fun k => p.gone.any fun g => g.1 == k.1 && g.2.1 == k.2 then
      let s : State := { s with bnc := { s.bnc with prods := rest } }
      if s.tut.term = 1 ∧ h < s.nmHists then s.writeHist h (p.gone.foldl (fun m g => max m g.2.2) 0) else s
    else { s with bnc := { s.bnc with prods := p :: rest } }

/-! ## Abandoned entries (R161, R335) -/

/-- The tag belongs to entry `t`. -/
def EntTag.same (t : EntTag) (o : Option EntTag) : Bool :=
  o.any fun x => x.kind == t.kind && x.run == t.run && x.entry == t.entry

/-- The commands of entry `t` leave the ring of queue `q`: the others keep their order. -/
def State.unqueue (s : State) (q : Nat) (t : EntTag) : State :=
  let x := s.que q
  let n := s.queCount q
  let cmds := (List.range n).map fun i => (cmdOfBytes (s.t0Read (s.ringAddr q (x.head + i)) 64), (x.tags[i]?).join)
  let keep := cmds.filter fun c => !t.same c.2
  let s := s.modQue q fun x => { x with
    tail := x.head, tags := []
    issued := x.issued && !(x.aside.isNone && t.same (x.tags.head?).join)
    taken := x.taken && !(x.aside.isNone && t.same (x.tags.head?).join)
    aside := x.aside.filter fun a => !t.same a.2 }
  keep.foldl (fun s c => s.append q c.1 c.2) s

/-- The lockers that entry `t` opened are released (R84). -/
def State.releaseOpened (s : State) (t : EntTag) : State :=
  (s.lkrs.filter fun x => t.same x.2.openBy && x.2.e.st != lkFree && !x.2.rel).foldl (fun s x => s.releaseLkr x.1) s

/-- An issued command of an abandoned entry stops: its context or courier is IDLE, its READ is bound to no pass. -/
def State.stopFlight (s : State) (f : Flight) : State :=
  if f.done then s
  else if cOp f.cmd = 0x30 ∧ (s.stm (sCtx f.cmd)).runBy = some f.queue then s.idleCtx (sCtx f.cmd)
  else if cOp f.cmd = 0x31 ∧ (s.cr (kCourier f.cmd)).runBy = some f.queue then s.idleCr (kCourier f.cmd)
  else if cOp f.cmd = 0x13 ∧ f.bound then s.modStm (cStream f.cmd) fun x => { x with bound := none }
  else s

/-- Entry `t` is abandoned and runs again from its first command; `q` is its queue. -/
def State.repeatEntry (s : State) (t : EntTag) (q : Nat) : State :=
  let s := (s.flights.filter fun f => t.same f.tag).foldl State.stopFlight (s.unqueue q t)
  let drop (f : Flight) : Flight := if t.same f.tag then { f with dropped := true, done := true } else f
  let undo (p : Produced) : Produced := { p with gone := p.gone.filter fun g => g.1 != t.entry }
  let s := { s with flights := s.flights.map drop, bnc := { s.bnc with prods := s.bnc.prods.map undo } }
  let s := s.releaseOpened t
  let again (r : EntRun) : EntRun :=
    if r.kind = t.kind ∧ r.run = t.run ∧ r.entry = t.entry then
      { r with copied := 0, doneCount := 0, signalled := r.finished ++ r.signalled, finished := [] }
    else r
  { s with tut := { s.tut with runs := s.tut.runs.map again } }

/-- The next rung of Table: Widening ladder. -/
def nextRung (fmt : Nat) : Nat :=
  match fmt with
  | 9 | 8 | 7 => 5
  | 5 | 6 => 3
  | _ => 1

/-! ## Registers (R166, R143) -/

/-- NUM_HIST_STATE of the selected history. -/
def State.histWord (s : State) (h : Nat) : Word :=
  if s.nmHists ≤ h then 0
  else word (at_ 32 (s.estimate h) + at_ 16 (s.histStart h (s.nmBase h)) + at_ 12 (s.histNext h)
    + at_ 8 (b2n (s.nmSentinel h)) + s.nmBase h)

/-- A write of NUM_HIST_SEL. -/
def State.writeHistSel (s : State) (v : Word) : State :=
  (List.range 8).foldl (fun s i => s.setReg (aNumHistAmax + 8 * i) 0) (s.setReg aNumHistSel (word (fld v 0 14)))

/-- A read of NUM_HIST_STATE latches the view. -/
def State.readHistState (s : State) : Word × State :=
  let h := s.regF aNumHistSel 0 14
  let w (i : Nat) : Word := if s.nmHists ≤ h then 0 else word (at_ 32 (s.amax h (2 * i + 1)) + s.amax h (2 * i))
  let s' := (List.range 8).foldl (fun t i => t.setReg (aNumHistAmax + 8 * i) (w i)) s
  (s.histWord h, s'.setReg aNumHistState (s.histWord h))

/-- A write of a Philox counter register: the output registers follow in the next hall-clock cycle (R143). -/
def State.writePhilox (s : State) (hi : Bool) (v : Word) : State :=
  let s := s.setReg (if hi then aBncPhiloxHi else aBncPhiloxLo) v
  { s with bnc := { s.bnc with philoxDue := true } }

def execNumHistSelWrite (v : Word) (s : State) : Res :=
  .next (s.hostWrites ((s.writeHistSel v).wake))
def execNumHistStateRead (s : State) : Res :=
  let r := s.readHistState
  .next (s.hostReads (r.2.emit (.hostResp r.1 false)))
def execPhiloxCtrWrite (hi : BitVec 1) (v : Word) (s : State) : Res :=
  .next (s.hostWrites ((s.writePhilox (hi == 1) v).wake))

end Sys2Proof.Machine
end

