-- ==== Sys2Proof/Machine/Units.lean ====
section
/-! DEFINITION. What the benches and the row units share: acceptance and refusal of their commands (R118, R119, R126, R135,
R165, R337, R442), operand tiles taken from contexts, FP32 destinations (R126), quantised outputs (R150 to R162), the end
of a command. -/

namespace Sys2Proof.Machine

/-! ## Errors -/

/-- Bits [47:0] of BNC_ERR and of NUM_ERR. -/
def bncErr (u q : Nat) : Nat := at_ 32 u + q % 8192
def numErr (u h q : Nat) : Nat := at_ 32 u + at_ 18 (h % 2 ^ 14) + q % 8192

/-! ## Acceptance -/

/-- The commands that unit `u` holds: a PRODUCT with DEST 3 holds its bench's row unit as well (R442). -/
def holdsUnit (u : Nat) (c : Cmd) : Bool :=
  match cmdUnit c with
  | none => false
  | some v => v == u || (cOp c == 0x20 && uDest c == 3 && v + 4 == u)

def State.unitBusy (s : State) (u : Nat) : Bool := s.flights.any fun f => !f.done && holdsUnit u f.cmd

/-- Unit `u` can take commands. -/
def State.unitOk (s : State) (u : Nat) : Bool := if u < 4 then s.benchOk u else s.rowOk (u - 4)

/-- The inputs that a command must have, as contexts. -/
def cmdInputs (c : Cmd) : List Nat :=
  match cOp c with
  | 0x20 => [uIn0 c, uIn1 c] ++ (if uDest c = 3 ∧ (uChain c = 1 ∨ uChain c = 2 ∨ uChain c = 4 ∨ uChain c = 5 ∨ uChain c = 9) then [uIn2 c] else [])
  | 0x21 => [uIn0 c] ++ (if uSteps c % 65536 = 0 then [] else [uIn1 c]) ++ (if uSteps c / 65536 = 0 then [] else [uIn2 c])
  | _ => match uRow c with
    | 1 | 2 | 4 | 5 | 9 => [uIn0 c, uIn1 c]
    | 3 | 6 => [uIn0 c, uIn1 c, uIn2 c]
    | _ => [uIn0 c]

/-- The operand stores that those contexts must deliver to (R337): kind, unit and input of the destination, the input free for
the second operand of a chained row operation. S is the stationary operand of a bench, the others are streamed ones; input `i` of
a row operation comes from IN`i`. -/
def cmdStores (c : Cmd) : List (Nat × Nat × Option Nat) :=
  let u := uUnit c
  if cOp c = 0x22 then [(5, u - 4, some 0), (5, u - 4, some 1), (5, u - 4, some 2)]
  else if cOp c = 0x20 then [(4, u, some 0), (4, u, some 1), (5, u, none)]
  else [(4, u, some 0), (4, u, some 1), (4, u, some 1)]

/-- Context `c` has that store as its destination; one that loads the weight chain's satchels into the benches has the stationary
store of each of them (R201). -/
def State.ctxFeeds (s : State) (c : Nat) (st : Nat × Nat × Option Nat) : Bool :=
  let d := (s.stm c).dst
  decide (c ≠ 0xFFFF) && ((epKind d == st.1 && epUnit d == st.2.1 && st.2.2.all fun i => epInput d == i)
    || (epKind d == 8 && bitAt d 33 && st.1 == 4 && st.2.2 == some 0))

/-- The contexts that take its quantised outputs. -/
def cmdOutputs (c : Cmd) : List Nat :=
  match cOp c with
  | 0x20 => if uDest c = 0 ∨ uDest c = 3 then [uOctx c] else []
  | 0x21 => if uSteps c / 65536 = 0 then [] else [uOctx c]
  | _ => [uOctx c] ++ (if uRow c = 3 then [uParam1 c % 65536] else [])

/-- The row operation of a command, none for a plain product. -/
def cmdRow (c : Cmd) : Option Nat :=
  if cOp c = 0x22 then some (uRow c) else if cOp c = 0x20 ∧ uDest c = 3 then some (uChain c) else none

/-- The tables that a command names: 0xFF is none (R135). -/
def tablesNamed (c : Cmd) : List Nat := [uTableT c, uTableD c].filter (· != 0xFF)

/-- Function tables that a row operation uses: T, D, the exponential table. -/
def rowTables (s : State) (c : Cmd) (op : Nat) : List Nat :=
  match op with
  | 0 | 2 => [uTableT c]
  | 1 => [uTableD c]
  | 3 => [uTableT c, uTableD c]
  | 7 | 8 => [s.nmExpTable]
  | _ => []

/-- A chained row operation that has its inputs in a PRODUCT: those with a third input, GATE_D and NORM_D, have no field for it
(log 40). -/
def chainOk (op : Nat) : Bool := op != 3 && op != 6

/-- FDST: in T1?, and the byte address or STAGING offset. -/
def fdT1 (fd : Nat) : Bool := fd / 2 ^ 31 % 2 == 1
def fdAddr (fd : Nat) : Nat := fd % 2 ^ 31 * 256
/-- The run of `n` bytes at `fd` lies in the cloakroom, or in T1. -/
def State.fpInside (s : State) (fd n : Nat) : Bool := fdT1 fd || decide (s.t0Staging + fdAddr fd + n ≤ s.ckSize)
/-- The run may be written: it meets no syllabus-reserved area of SCRATCH, which follows STAGING (R41). -/
def State.fpAllowed (s : State) (fd n : Nat) : Bool :=
  let a := s.t0Staging + fdAddr fd
  let lo := max a s.t0Scratch
  s.fpInside fd n && (fdT1 fd || !s.hitsReserved (lo - s.t0Scratch) (a + n - lo))
/-- The FP32 runs that a command writes, each with the fewest bytes that it can take. -/
def fpWrites (c : Cmd) : List (Nat × Nat) :=
  (if cOp c = 0x20 ∧ (uDest c = 1 ∨ uDest c = 2) ∨ cOp c = 0x21 ∧ uSteps c % 65536 ≠ 0 then [(uFdst c, 32768)] else [])
    ++ (if cmdRow c = some 4 ∨ cmdRow c = some 7 then [(uFdst c, 512)] else [])
    ++ (if cOp c = 0x22 ∧ uRow c = 6 then [(uParam1 c, roundUp (4 * uSteps c) 256 + 4 * uSteps c)] else [])

/-- The refusal of a bench or row-unit command at acceptance, with the low bits of the unit's error register; `quiet`: it is a
recompute's, which writes no FP32 (R139). -/
def State.unitRefusal (s : State) (q : Nat) (c : Cmd) (quiet : Bool) : Option (Ev × Nat) :=
  let u := uUnit c
  let op := cOp c
  let b := bncErr u q
  let badRow := (cmdRow c).any fun r => decide (0xB ≤ r) || (op == 0x20 && !chainOk r)
  let quant := !(cmdOutputs c).isEmpty
  if (op = 0x22 ∧ u < 4) ∨ (op ≠ 0x22 ∧ 4 ≤ u) ∨ !s.unitOk u ∨ (op = 0x20 ∧ uDest c = 3 ∧ !s.rowOk u) then some (evBncUnit, b)
  else if badRow ∨ (op = 0x22 ∧ uDest c ≠ 0) then some (evBncOperand, b)
  else if !codeOk (uOutFmt c) then some (⟨7, 0x0503, some 2⟩, numErr u (uHist c) q)
  else if quant ∧ (uOutFmt c = 0 ∨ 10 ≤ uOutFmt c) then some (evBncOperand, b)
  else if (tablesNamed c ++ ((cmdRow c).map (rowTables s c)).getD []).any fun t => decide (s.nmTables ≤ t) then some (evBncTable, b)
  else if quant ∧ scaled (uOutFmt c) ∧ s.nmHists ≤ uHist c then some (evHistRange, numErr u (uHist c) q)
  else if ((cmdInputs c).zip (cmdStores c)).any (fun x => !s.ctxFeeds x.1 x.2) ∨
      (cmdOutputs c).any (fun x => decide (x = 0xFFFF) || epKind (s.stm x).dst == 0) then some (evBncUnit, b)
  else if !quiet && (fpWrites c).any (fun r => !s.fpAllowed r.1 r.2) then some (evBncOperand, b)
  else none

/-! ## The command of a unit -/

/-- The command that unit `u` has accepted and not run. -/
def State.unitFlight (s : State) (u : Nat) : Option Flight :=
  s.flights.find? fun f => !f.done && !f.ran && cmdUnit f.cmd == some u

/-- The flight ends without completing, with `code`. -/
def State.failUnit (s : State) (f : Flight) (code : Nat) : State := s.failFlight f.queue code (· == f)

/-- A refusal found once the operands are there. -/
def State.refuseUnit (s : State) (f : Flight) (e : Ev) : State :=
  (s.logEv e (bncErr (uUnit f.cmd) f.queue)).failUnit f e.code

/-- The flight has run: its outputs are on their way. -/
def State.ranFlight (s : State) (f : Flight) (amax : Nat) : State :=
  { s with flights := s.flights.map fun g => if g = f then { g with ran := true, amax := amax } else g }

/-- A recompute runs the command (R139, R140): nothing is logged, and no statistics or FP32 destination is written. -/
def Flight.quiet (f : Flight) : Bool := f.tag.any fun t => t.kind == 2
/-- The recompute record behind the flight. -/
def State.flightRec (s : State) (f : Flight) : RecRec := ((f.tag.map fun t => (s.lkr t.run).rr)).getD default

/-- The format in which the command quantises: that of the record in a recompute, the rung of a widened entry, its own. -/
def State.outFmt (s : State) (f : Flight) : Nat :=
  if f.quiet then (s.flightRec f).qfmt
  else match f.tag with
  | none => uOutFmt f.cmd
  | some t => match Tab.get s.bnc.rung (t.rungKey (uHist f.cmd)) with
    | 0 => uOutFmt f.cmd
    | r + 1 => r

/-- The running code at which the command starts (R157, R160). -/
def State.startCodeOf (s : State) (f : Flight) : Nat :=
  if f.quiet then (s.flightRec f).qstate % 256 else s.histStart (uHist f.cmd) (s.outFmt f)

/-! ## Operand tiles (R117, R130) -/

/-- The satchels that wait at input `i` of a command: those that the weight chain left in the bench for its stationary operand, then
those of context `c`. -/
def State.stock (s : State) (cmd : Cmd) (i c : Nat) : List Bytes :=
  (if i = 0 ∧ cOp cmd ≠ 0x22 then Tab.get s.bnc.stat (uUnit cmd) else []) ++ (s.stm c).inbox

/-- The satchels of a whole pass that wait at input `i`, fed by context `c`; none while the pass is still delivering. -/
def State.passTiles (s : State) (cmd : Cmd) (i c : Nat) : Option (List Bytes) :=
  let x := s.stm c
  let b := s.stock cmd i c
  if b.isEmpty then none
  else if x.st = 1 ∧ !(x.ents.isEmpty && decide (x.passEnd ≤ x.issued)) then none
  else some b

/-- The operand tiles of a command consumed. -/
def State.takeTiles (s : State) (cmd : Cmd) (cs : List (Nat × List Bytes)) : State :=
  cs.zipIdx.foldl (fun s c =>
    let u := uUnit cmd
    let here := if c.2 = 0 ∧ cOp cmd ≠ 0x22 then Tab.get s.bnc.stat u else []
    let s := if here.isEmpty then s else { s with bnc := { s.bnc with stat := Tab.put s.bnc.stat u (here.drop c.1.2.length) } }
    s.modStm c.1.1 fun x => { x with inbox := x.inbox.drop (c.1.2.length - here.length) }) s

/-- An operand: its format, its extent, its elements; an element is absent when its tile holds an illegal code. -/
structure Opd where
  fmt : Nat
  rows : Nat
  cols : Nat
  m : List (List (Option Fp))
  deriving DecidableEq, Repr

/-- The elements of one tile. -/
def satElems (sat : Bytes) : List (List (Option Fp)) :=
  let h := Hdr.read (satHdr sat)
  let sh := shapeOf h.fmt
  match tileRows h.fmt h.vrows h.vcols (satScales sat) (satPay sat) with
  | some rows => rows.map fun r => r.map some
  | none => List.replicate sh.rows (List.replicate sh.cols none)

def satIllegal (sat : Bytes) : Bool :=
  let h := Hdr.read (satHdr sat)
  (tileRows h.fmt h.vrows h.vcols (satScales sat) (satPay sat)).isNone

/-- An operand from its tiles in R69 order; one dimension, rows when `byRows`, is `n` elements long, the other follows from
the number of tiles and the last one's valid corner. None when the tiles do not fill a row of tiles. -/
def mkOpd (sats : List Bytes) (n : Nat) (byRows : Bool) : Option Opd :=
  let hs := sats.map fun t => Hdr.read (satHdr t)
  let h0 := hs.headD (Hdr.read [])
  let hl := hs.getLastD (Hdr.read [])
  let sh := shapeOf h0.fmt
  if sh.rows = 0 ∨ n = 0 ∨ hs.any (·.fmt != h0.fmt) then none else
  let k := if byRows then (n + sh.rows - 1) / sh.rows else (n + sh.cols - 1) / sh.cols
  let o := sats.length / k
  if o = 0 then none else
  let rows := if byRows then n else (o - 1) * sh.rows + hl.vrows
  let cols := if byRows then (o - 1) * sh.cols + hl.vcols else n
  some { fmt := h0.fmt, rows := rows, cols := cols, m := gridMatrix h0.fmt rows cols (sats.map satElems) }

/-- The rows and the columns of an operand as vectors. -/
def Opd.rowVecs (o : Opd) : List (List (Option Fp)) := o.m
def Opd.colVecs (o : Opd) : List (List (Option Fp)) :=
  (List.range o.cols).map fun j => o.m.map fun r => r.getD j (some .zero)

/-! ## Illegal codes (R149) -/

/-- The command stops at the first tile with an illegal code; a locker it came from is detained. -/
def State.stopIllegal (s : State) (f : Flight) (ctxs : List (Nat × List Bytes)) : State :=
  let u := uUnit f.cmd
  let s := if f.quiet then s else
    (s.logEv evIllegalCode (numErr u (uHist f.cmd) f.queue)).incF aNumCount1 32 32 1
  let s := s.failUnit f evIllegalCode.code
  match ctxs.findSome? fun c => (c.2.find? satIllegal).map fun t => (c.1, t) with
  | none => s
  | some (c, t) =>
    let w := (s.stm c).src
    if epKind w ≠ 1 then s else
    let l := epLocker w
    s.beginRecovery (s.lockerRd l ((Hdr.read (satHdr t)).pos % 65536) (s.runLoc l) .idle false)

/-! ## FP32 destinations (R126, R134) -/


/-- Outcome of looking at an FP32 region. -/
inductive FpOld where
  | ready (b : Bytes)
  | wait (s : State)
  | bad

/-- The `n` bytes at `fd` for unit `u`: at once from T0 and from a staging run; from elsewhere in T1 once a read has been
answered. `key` 0 is FDST, 1 PARAM1. -/
def State.fpOld (s : State) (u key fd n : Nat) : FpOld :=
  let a := fdAddr fd
  if !fdT1 fd then
    if s.t0Bad (s.t0Staging + a) n then .bad else .ready (s.t0Read (s.t0Staging + a) n)
  else match s.stageAt a with
  | some (id, v) =>
    .ready ((List.range (n / 4)).flatMap fun i =>
      leBytes 4 (((s.stageRun id).map fun r => (Tab.get r.sums (v + i)).toNat).getD 0))
  | none =>
    let b := Tab.get s.bnc.buf (2 * u + key)
    if !b.isEmpty then .ready b
    else if s.mem.jobs.any fun j => j.kind == .raw 6 (4 * u + key) then .wait s
    else .wait (s.startJob (.raw 6 (4 * u + key)) fun id => s.readReqs 1 a n .read 4112 id 0)

/-- Values written or added, in order, at value numbers of the region `fd`, whose bytes were `old`. -/
def State.fpStore (s : State) (u fd : Nat) (add : Bool) (old : Bytes) (vals : List (Nat × Nat)) : State :=
  let a := fdAddr fd
  let new (w : Bytes) (v : Nat) : Bytes := leBytes 4 (if add then rne32 ((v32 (leNat w)).add (v32 v)) else v)
  if vals.isEmpty then s
  else if !fdT1 fd then vals.foldl (fun s v =>
      s.t0Write (s.t0Staging + a + 4 * v.1) (new (s.t0Read (s.t0Staging + a + 4 * v.1) 4) v.2)) s
  else match s.stageAt a with
  | some (id, k) =>
    let (id, s) := s.stageNow id
    s.stageAdd id add (vals.map fun v => (k + v.1, v.2))
  | none =>
    let words := (pieces 4 (old.length / 4) old).zipIdx
    let b := words.flatMap fun w => (vals.filter fun v => v.1 == w.2).foldl (fun b v => new b v.2) w.1
    let s : State := { s with bnc := { s.bnc with writing := s.bnc.writing ++ [u] } }
    s.startJob (.raw 6 (4 * u + 2)) fun id => s.writeReqs 1 a b .write 4112 id 0

/-- FP32 tiles (64 × 128) of an output of `m` by `n` elements, in block order (R169, log 41). -/
def outOrder (m n : Nat) : List (Nat × Nat) :=
  let tr := (m + 63) / 64
  let tc := (n + 127) / 128
  let bc := (n + 255) / 256
  (List.range ((m + 127) / 128 * bc)).flatMap fun b =>
    let i := b / bc
    let j := b % bc
    [(2 * i, 2 * j), (2 * i, 2 * j + 1), (2 * i + 1, 2 * j), (2 * i + 1, 2 * j + 1)].filter fun t => decide (t.1 < tr ∧ t.2 < tc)

/-- The value number of element (i, j) in that layout. -/
def outNo (ord : List (Nat × Nat)) (i j : Nat) : Nat :=
  ord.idxOf (i / 64, j / 128) * 8192 + i % 64 * 128 + j % 128

/-! ## Quantised outputs (R150 to R162) -/

/-- The header of an output tile. -/
def outHdr (fmt vr vc : Nat) : Hdr :=
  let sh := shapeOf fmt
  { fmt := fmt, kind := 0, shape := sh.code, mode := sh.mode, cmp := false, nocode := false, prov := 1, vrows := vr
    vcols := vc, cmpLen := 0, desc := 0, epoch := 0, owner := 0, pos := 0, mac := 0 }

/-- A matrix of FP32 encodings cut into the data tiles of a format in R69 order: valid corner and rows, absent when an
element is. -/
def cutTiles (fmt m n : Nat) (y : List (List (Option Nat))) : List (Nat × Nat × Option (List (List Nat))) :=
  let sh := shapeOf fmt
  let gc := (n + sh.cols - 1) / sh.cols
  let gr := (m + sh.rows - 1) / sh.rows
  (List.range (gr * gc)).map fun k =>
    let r0 := k / gc * sh.rows
    let c0 := k % gc * sh.cols
    let vr := min sh.rows (m - r0)
    let vc := min sh.cols (n - c0)
    (vr, vc, allSome (((y.drop r0).take vr).map fun r => allSome ((r.drop c0).take vc)))

/-- The recompute record of a dropped run that context `o` writes takes the code at which its first tile is quantised
(R160). -/
def State.noteQstate (s : State) (o fmt code : Nat) : State :=
  let w := (s.stm o).dst
  if epKind w ≠ 1 then s else
  let x := s.lkr (epLocker w)
  if x.e.st = lkOpen ∧ x.drop ∧ x.rr.qstate = 0 then
    s.modLkr (epLocker w) fun x => { x with rr := { x.rr with qstate := code + 256 * fmt, qfmt := fmt } }
  else s

/-- How a run of output tiles ended. -/
inductive Ended where
  | all | illegal | widen | lost
  deriving DecidableEq, Repr

/-- One output tile quantised (R150 to R158) and handed to context `o`: the running code after it, or none for a
sentinel tile that overflows. `k` is its number in completion order. NUM_LAST_OVF follows TILE_OVERFLOW alone: the model's choice
(log 93). -/
def State.outTile (s : State) (f : Flight) (o fmt code k vr vc : Nat) (rows : List (List Nat)) : Option (Nat × State) :=
  let h := uHist f.cmd
  let u := uUnit f.cmd
  let hb := (outHdr fmt vr vc).bytes
  if !scaled fmt then
    some (code, (s.noteQstate o fmt 0).feed o (satchel hb [] (plainTile fmt vr vc rows)))
  else
    let ws := rows.flatten
    let fs := ws.map v32
    let ovf := tileOverflows fmt code fs
    if ovf && s.nmSentinel h && !f.quiet then none else
    let s := s.noteQstate o fmt code
    let c := if ovf && decide (code < 254) then raiseCode fmt s.nmHeadroom code ws else code
    let s := if ovf && decide (code < 254) && !f.quiet then
        ((s.logEv evTileOverflow (numErr u h f.queue)).incF aNumCount0 32 32 1).setReg aNumLastOvf
          (word (at_ 56 code + at_ 48 c + at_ 45 u + at_ 31 (h % 2 ^ 14) + k % 2 ^ 31))
      else s
    let s := if tileOverflows fmt c fs && !f.quiet then
        (s.logEv evScaleLimit (numErr u h f.queue)).incF aNumCount1 0 32 1 else s
    let q := quantTile fmt c vr vc rows
    some (c, s.feed o (satchel hb q.1 q.2))

/-- The output tiles of a command in completion order, each with its context. -/
def State.outLoop (s : State) (f : Flight) (fmt code k amax : Nat) :
    List (Nat × Nat × Nat × Option (List (List Nat))) → Ended × Nat × State
  | [] => (.all, amax, s)
  | (_, _, _, none) :: _ => (.illegal, amax, s)
  | (o, vr, vc, some rows) :: r =>
    match s.outTile f o fmt code k vr vc rows with
    | none => (.widen, amax, s)
    | some (c, s) =>
      if s.flights.any (· == f) ∧ (s.stm o).running then
        State.outLoop s f fmt c (k + 1) (max amax (largestFin rows.flatten)) r
      else (.lost, amax, s)

/-- SENTINEL_WIDEN: the entry of the command is abandoned and runs again one rung up (R161). A command of no entry has none to run
again: its queue stops with that code, the model's choice (log 94). -/
def State.widen (s : State) (f : Flight) (fmt : Nat) : State :=
  let h := uHist f.cmd
  let s := (s.logEv evSentinelWiden (numErr (uUnit f.cmd) h f.queue)).incF aNumCount0 0 32 1
  match f.tag with
  | none => s.failUnit f evSentinelWiden.code
  | some t =>
    let s : State := { s with bnc := { s.bnc with rung := Tab.put s.bnc.rung (t.rungKey h) (nextRung fmt + 1) } }
    s.repeatEntry t f.queue

/-- BNC_NONFINITE, once for a command (R127). -/
def State.noteNonfinite (s : State) (f : Flight) (bad : Bool) : State :=
  if bad && !f.quiet then s.logEv evBncNonfinite (bncErr (uUnit f.cmd) f.queue) else s

/-- The outputs of a command have gone out as `e` says. -/
def State.endUnit (s : State) (f : Flight) (ctxs : List (Nat × List Bytes)) (fmt : Nat) (r : Ended × Nat × State) : State :=
  let _ := s
  let t := r.2.2
  match r.1 with
  | .all => (t.takeTiles f.cmd ctxs).ranFlight f r.2.1
  | .illegal => t.stopIllegal f ctxs |>.takeTiles f.cmd ctxs
  | .widen => (t.takeTiles f.cmd ctxs).widen f fmt
  | .lost => if t.flights.any (· == f) then
      t.failUnit f (((ctxs.map fun _ => (t.stm (uOctx f.cmd)).code)).headD evStmIllegal.code) else t

/-- Whether the last outputs of a flight that has run are written: FP32 ones in T1, quantised ones by their contexts. -/
def State.outputsDone (s : State) (f : Flight) : Bool :=
  !(s.bnc.writing.contains (uUnit f.cmd)) && (cmdOutputs f.cmd).all fun o =>
    let x := s.stm o
    x.supply.isEmpty && x.ents.all fun e => e.stage == 1

end Sys2Proof.Machine
end

