-- ==== Sys2Proof/Machine/Abort.lean ====
section
/-! DEFINITION. The common abort (R359 to R363, R446, Table: Common abort at a form) and the ABORT frame's two meanings; the
commands SW_ABORT, REARM_FIRST, ABORT_CONFIRM_TIMEOUT. -/

namespace Sys2Proof.Machine

/-! ## The actions at a form -/

/-- Timetable queues emptied and IDLE; their commands gone from every unit (R266). -/
def State.abortQueues (s : State) : State :=
  let s : State := { s with flights := s.flights.filter fun f => !s.isTtQueue f.queue }
  let clear (q : Nat) (x : Que) : Que := if s.isTtQueue q then { (default : Que) with head := x.tail, tail := x.tail } else x
  let idle (u : Nat) : Bool := !s.flights.any fun f => holdsUnit u f.cmd
  let s := s.dropJobs fun k => match k with
    | .raw 6 t => idle (t / 4)
    | _ => false
  { s with
    ques := Tab.mapAll clear s.ques
    sync := { s.sync with waiters := s.sync.waiters.filter fun q => !s.isTtQueue q }
    pln := { s.pln with held := s.pln.held.filter fun h => !s.isTtQueue h.queue }
    bnc := { s.bnc with
      prods := [], rung := [], buf := s.bnc.buf.filter fun b => !idle (b.1 / 2)
      writing := s.bnc.writing.filter fun u => !idle u } }

/-- Timetable bells and flags at zero, timetable assemblies reset with their masks (R266); a host queue that was HELD at one
goes on. -/
def State.resetSync (s : State) : State :=
  let lost := (s.asms.filter fun a => decide (a.1 < s.objAsms)).flatMap fun a => a.2.held.map HeldArr.queue
  let reset (n : Nat) (a : Asm) : Asm := if n < s.objAsms then { (default : Asm) with mask := a.mask } else a
  let s : State := { s with
    bells := s.bells.filter fun b => decide (s.objBells ≤ b.1)
    asms := Tab.mapAll reset s.asms }
  lost.foldl State.unhold s

/-- Timetable contexts and couriers stopped (R210). -/
def State.abortStreams (s : State) : State :=
  let s := ((s.stms.map Prod.fst).filter fun c => decide (c < s.objStreams)).foldl State.idleCtx s
  ((s.crs.map Prod.fst).filter fun k => decide (k < s.objCouriers)).foldl State.idleCr s

/-- Lockers opened since the last closing assembly become FREE. -/
def State.abortLockers (s : State) : State :=
  let ls := (s.lkrs.filter fun x => x.2.opened).map Prod.fst
  let s := ls.foldl State.abortLkr s
  { s with pln := { s.pln with listed := s.pln.listed.filter fun x => !ls.contains x.1 } }

/-- The Marker: staging released, a sweep in progress torn (R187), reads and writes under way dropped. -/
def State.abortMarker (s : State) : State :=
  let torn := s.mkr.phase == 3 || s.mkr.phase == 4
  let s := s.dropJobs fun k => match k with
    | .tileRd r => (match r.use with | .marker _ _ _ => true | _ => false)
    | .tileWr (.stage _ _) _ _ _ _ _ | .tileWr (.marker _ _ _) _ _ _ _ _ => true
    | _ => false
  let leave (r : Recovery) : Recovery := { r with waiters := r.waiters.filter fun u => match u with
    | .marker _ _ _ => false
    | _ => true }
  let s : State := { s with
    err := { s.err with recov := s.err.recov.map leave }
    mkr := { s.mkr with
      phase := 0, torn := s.mkr.torn || torn, runs := [], gate0 := false, gate1 := 0, gate2 := 0, gateStarted := false
      gateDone := false, todo := [], aside := [], cur := none, wrote := [], tdig := [], begun := [], nfLogged := []
      recWrites := 0, placed := [] } }
  if torn then s.logEv evSweepTorn 0 else s

/-- The keys of the sequence counters (R307). -/
def State.seqKeys (s : State) : List Nat := List.range s.grCount ++ [0xFFD, 0xFFE, 0xFFF]

/-- Timetable collectives aborted with the abort's code (R320), the counters set by R362, searches and repairs ended. -/
def State.abortColls (s : State) (a : AbortRec) : State :=
  let mine := s.rcl.colls.filter fun c => c.issued && s.collTt c
  let s := mine.foldl (fun s c => s.collAborted c a true) s
  let s := s.rcl.wait.foldl (fun s w => s.consumed w.1 (WHdr.read w.2.1)) s
  let seqs := s.seqKeys.foldl (fun t k => Tab.put t k ((Tab.get s.err.seqRecord k + 0x01000000) % 2 ^ 32)) s.rcl.seqs
  { s with rcl := { s.rcl with
      seqs := seqs, colls := s.rcl.colls.filter (·.issued), wait := [], early := [], done := [], ready := [], repair := none
      div := { s.rcl.div with stage := 0, need := [] } } }

/-- The histories as they were at the last closing assembly (R363). -/
def State.restoreHists (s : State) : State :=
  let n := s.nmHists * 128
  if n = 0 then s else s.t0Write s.t0Scratch (Tab.bytes s.err.histShadow 0 n)

/-- The tutor HALTED; a running checkpoint abandoned (R332, R344). -/
def State.abortTutor (s : State) : State :=
  { s with
    tut := { s.tut with
      st := 0, phase := 0, haltPending := false, started := 0, drained := 0, runs := [], closing := .idle, between := []
      boundary := false, extra := 0, ckpt := false, ckptSect := []
      -- after an abort in an exam the term runs again (R332)
      term := if s.tut.term = 3 then s.tut.mainTerm else s.tut.term }
    ckp := none, pln := { s.pln with clock := none } }

/-- Every action of Table: Common abort at a form. -/
def State.abortActions (s : State) (a : AbortRec) : State :=
  let s := s.abortColls a
  let s := s.abortQueues
  let s := s.abortStreams
  let s := s.resetSync
  let s := s.abortLockers
  let s := s.abortMarker
  let s : State := { s with bnc := { s.bnc with parts := [], stat := [] } }
  let s := s.restoreHists
  let s := s.abortTutor
  (s.incF aErrAbortOrigin 16 16 1).setEvBit 3 4

/-- ERR_ABORT and ERR_ABORT_ORIGIN for an abort of step `st`; LOCAL and LOCAL_CODE are those of a cause that this form detected. -/
def State.recordAbort (s : State) (code origin form st : Nat) (confirmed : Bool) : State :=
  let s := s.setReg aErrAbort (word (at_ 48 code + at_ 47 (b2n confirmed) + st))
  (s.setF aErrAbortOrigin 48 16 origin).setF aErrAbortOrigin 45 3 form

/-- The root's ABORT recorded, at a form that may have detected a cause itself: it has when it has acted on one already, or waits
for the end of a change of term to do so. -/
def State.recordConfirmed (s : State) (st : Nat) (a : AbortRec) : State :=
  let s := s.recordAbort a.code a.off a.form st true
  if s.tut.st = 0 ∨ s.err.held.isSome then s else (s.setF aErrAbortOrigin 32 1 0).setF aErrAbortOrigin 0 16 0

/-- A change of term is in progress: it completes before an abort applies (R360). -/
def State.termChanging (s : State) : Bool := s.tut.phase == 5

/-- The abort of the current step applied at this form, at once or after the change of term. -/
def State.applyAbort (s : State) (code origin form : Nat) : State :=
  if s.tut.st = 0 then s
  else if s.termChanging then { s with err := { s.err with held := some (code, origin, form) } }
  else s.abortActions { code := code, off := origin, form := form, switch := false, det := origin }

/-! ## ABORT frames of group 0xFFE (R359) -/

/-- Root of group 0xFFE. -/
def State.rosterRoot (s : State) : Nat := least (s.collMembers 0xFFE)

/-- An ABORT frame of step `st` to (`dst`, `form`). -/
def State.sendAbort (s : State) (dst form st : Nat) (a : AbortRec) : State :=
  s.sendColl (Coll.fresh (s.rosterRoot, 0, 0xFFF, st) false 0 0) tAbort dst form (default : CHdr) a.bytes

/-- Toward the root: to the head form, and from there by the tree. -/
def State.sendAbortUp (s : State) (st : Nat) (a : AbortRec) : State :=
  if !s.head then s.sendAbort s.ownCoord 0 st a
  else match upHop (s.collMembers 0xFFE) s.rosterRoot s.ownCoord with
    | some d => s.sendAbort d 0 st a
    | none => s

/-- Down the whole tree from this head form. -/
def State.sendAbortDown (s : State) (st : Nat) (a : AbortRec) : State :=
  if !s.head then s else
  let s := (downHops (s.collMembers 0xFFE) s.rosterRoot s.ownCoord).foldl (fun s d => s.sendAbort d 0 st a) s
  s.otherForms.foldl (fun s f => s.sendAbort s.ownCoord f st a) s

/-- This form is the root of group 0xFFE. -/
def State.isRosterRoot (s : State) : Bool := s.head && s.ownCoord == s.rosterRoot

/-- The confirmed abort of step `st`, by R360. -/
def State.confirmAbort (s : State) (st : Nat) (a : AbortRec) : State :=
  let c := s.stepCtr.toNat
  if st = c then
    (s.recordConfirmed st a).applyAbort a.code a.off a.form
  else if st = (c + 1) % 2 ^ 32 then
    let s := s.recordConfirmed st a
    { s with err := { s.err with held := some (a.code, a.off, a.form) } }
  else s

/-- The root takes the first ABORT of a step that it can act on. -/
def State.rootTakes (s : State) (st : Nat) (a : AbortRec) : State :=
  let c := s.stepCtr.toNat
  if s.err.rootTook ∨ (st ≠ c ∧ st ≠ (c + 1) % 2 ^ 32) then s
  else
    let s : State := { s with err := { s.err with rootTook := true } }
    (s.sendAbortDown st a).confirmAbort st a

/-- A cause of a common abort detected at this form while a step runs (R359, R446). -/
def State.startAbort (s : State) (code : Nat) : State :=
  if s.tut.st = 0 then s
  else
    let me := s.ownCoord
    let f := s.part.form
    let st := s.stepCtr.toNat
    let a : AbortRec := { code := code, off := me, form := f, switch := false, det := me }
    let s := s.recordAbort code me f st false
    let s := (s.setF aErrAbortOrigin 32 1 1).setF aErrAbortOrigin 0 16 code
    let s := s.applyAbort code me f
    if s.isRosterRoot then s.rootTakes st a
    else s.sendAbortUp st a

/-- A cause met in the command under way starts its abort. -/
def State.abortDue (s : State) : State :=
  match s.err.due with
  | none => s
  | some code => { s with err := { s.err with due := none } }.startAbort code

/-- Something is a cause of a common abort. -/
def State.causeAbort (s : State) (e : Ev) (low : Nat) : State :=
  let s := s.logEv e low
  { s with err := { s.err with due := some (s.err.due.getD e.code) } }

/-- The abort that was held for this step applies (R360); its record stands as it was made, unless another step's has taken its place. -/
def State.applyHeld (s : State) : State :=
  match s.err.held with
  | none => s
  | some h =>
    let s : State := { s with err := { s.err with held := none } }
    let s := if s.regF aErrAbort 0 32 = s.stepCtr.toNat then s else s.recordAbort h.1 h.2.1 h.2.2 s.stepCtr.toNat true
    s.applyAbort h.1 h.2.1 h.2.2

/-- A frame comes from the next hop toward the root. -/
def State.fromAbove (s : State) (m : List Nat) (root : Nat) (h : WHdr) : Bool :=
  h.sform == 0 && (if s.head then upHop m root s.ownCoord == some h.src else h.src == s.ownCoord)

/-- An ABORT of a step. -/
def State.stepAbortIn (s : State) (h : WHdr) (st : Nat) (a : AbortRec) : State :=
  if s.isRosterRoot then s.rootTakes st a
  else if s.fromAbove (s.collMembers 0xFFE) s.rosterRoot h then (s.sendAbortDown st a).confirmAbort st a
  else s.sendAbortUp st a

/-- An ABORT of a collective. -/
def State.collAbortIn (s : State) (h : WHdr) (c : CHdr) (k : CKey) (a : AbortRec) : State :=
  if s.isRootHead k then s.rootAbort k c.sig a
  else if s.collStale k then s
  else if s.fromAbove (s.collMembers k.2.2.1) k.1 h then
    (s.abortDown k c.sig a).applyCollAbort k a
  else s.abortUp k c.sig a

/-- ABORT frames: ENDPOINT 0xFFFF with SIG zero is an abort of a step (R359), any other one of a collective (R317). -/
def State.abortFrame (s : State) (h : WHdr) (c : CHdr) (k : CKey) (pay : Bytes) : State :=
  let a := AbortRec.read pay
  if h.ep = 0xFFFF ∧ c.sig = 0 then s.stepAbortIn h c.seq a else s.collAbortIn h c k a

/-! ## ERR_CTRL, and the wait for the root's ABORT (R359, R361, R366) -/

/-- ERR_CTRL.ABORT: ignored when no step runs. -/
def State.swAbort (s : State) : State := if s.tut.st = 0 then s else s.causeAbort evSwAbort 0

/-- ERR_CTRL.REARM_FIRST. -/
def State.rearmFirst (s : State) : State := { s with err := { s.err with armed := true } }

def execSwAbort (s : State) : Res := .next s.swAbort.abortDue
def execRearmFirst (s : State) : Res := .next s.rearmFirst
/-- 2 × TIMEOUT_US without the root's ABORT: the form keeps its provisional record (R361). -/
def execAbortConfirmTimeout (s : State) : Res := .next s.wake

end Sys2Proof.Machine
end

