-- ==== Sys2Proof/Machine/RowOps.lean ====
section
/-! DEFINITION. The arithmetic of the benches and row units: ordered accumulation (R120 to R122), row reductions (R131),
function tables (R132), and the definitions of Table: Row-unit operations (R133). An element that depends on an illegal
code is absent. -/

namespace Sys2Proof.Machine

/-- A matrix by rows. -/
abbrev Mat := List (List (Option Fp))

/-! ## Ordered accumulation (R120 to R122) -/

/-- The exact value V of one block of products; a zero is +0. -/
def blockSum : List (Option Fp × Option Fp) → Option Fp
  | [] => some .zero
  | (some a, some b) :: r => (blockSum r).map fun v => (a.mul b).add v
  | _ :: _ => none

/-- The blocks of one output element from step `r` on, with acc and L; the last block spills. -/
def dotLoop (spill : Nat) : Nat → Nat → Fp → Fp → List (Option Fp × Option Fp) → Option Fp
  | 0, _, _, l, _ => some l
  | n + 1, r, acc, l, ps =>
    match blockSum (ps.take 32) with
    | none => none
    | some v =>
      let v := if v.isZero then .zero else v
      let acc := q32 (acc.add v)
      let rest := ps.drop 32
      if rest.isEmpty then some (q64 (l.add acc))
      else if (r + 32) % spill = 0 then dotLoop spill n (r + 32) .zero (q64 (l.add acc)) rest
      else dotLoop spill n (r + 32) acc l rest

/-- F of an output element, from the operand elements in the order in which they are presented. -/
def dotF (spill : Nat) (xs ys : List (Option Fp)) : Option Fp :=
  let ps := xs.zip ys
  (dotLoop spill (ps.length / 32 + 1) 0 .zero .zero ps).map q32

/-- F of an element whose reduction goes on from step `r` with what the partial store holds of it (R123). -/
def dotFrom (spill r : Nat) (acc l : Fp) (xs ys : List (Option Fp)) : Option Fp :=
  let ps := xs.zip ys
  (dotLoop spill (ps.length / 32 + 1) r acc l ps).map q32

/-- acc and L of an element that leaves its cells after these steps; `n` blocks, from step `r` on. -/
def dotHold (spill : Nat) : Nat → Nat → Fp → Fp → List (Option Fp × Option Fp) → Option (Fp × Fp)
  | 0, _, acc, l, _ => some (acc, l)
  | n + 1, r, acc, l, ps =>
    match blockSum (ps.take 32) with
    | none => none
    | some v =>
      let v := if v.isZero then .zero else v
      let acc := q32 (acc.add v)
      if (r + 32) % spill = 0 then dotHold spill n (r + 32) .zero (q64 (l.add acc)) (ps.drop 32)
      else dotHold spill n (r + 32) acc l (ps.drop 32)

/-! ## Row reductions and tables (R131, R132) -/

/-- A row reduction of exact terms into a binary64 sum. -/
def rowSum (ts : List Fp) : Fp := ts.foldl add64 .zero

/-- One quadratic segment at `u`. -/
def quad (t : Bytes) (j : Nat) (u : Fp) : Fp :=
  let c (i : Nat) : Fp := v32 (leAt t (0x10 + 12 * j + 4 * i) 4)
  fma32 (fma32 (c 2) u (c 1)) u (c 0)

/-- A result outside the range of a table (Table: Tail modes): `edge` is u at the range edge. -/
def tableTail (t : Bytes) (mode j : Nat) (edge u x : Fp) : Fp :=
  let c (i : Nat) : Fp := v32 (leAt t (0x10 + 12 * j + 4 * i) 4)
  match mode with
  | 0 => quad t j edge
  | 1 => fma32 (c 1) u (c 0)
  | 2 => x
  | _ => .zero

/-- f(x) of a function table (R132). -/
def tableF (t : Bytes) (x : Fp) : Fp :=
  let lo := v32 (leAt t 0 4)
  let w := leAt t 4 1
  let ws : Int := if w < 128 then w else (w : Int) - 256
  let start (j : Nat) : Fp := lo.add ((Fp.ofNat j).scale ws)
  let low := tableTail t (leAt t 5 1) 0 .zero (q32 (x.sub lo)) x
  let high := tableTail t (leAt t 6 1) 63 (Fp.one.scale ws) (q32 (x.sub (start 63))) x
  match x.sub lo with
  | .nan => .nan
  | .inf s => if s then low else high
  | .fin s m e =>
    let j := ((Fp.fin s m e).scale (-ws)).floor
    if j < 0 then low else if 63 < j then high else quad t j.toNat (q32 (x.sub (start j.toNat)))

/-! ## Settings and results of a row operation -/

/-- What a row operation takes besides its inputs: tables T and D and the exponential table, norm kind LAYER, eps, threshold
and scale of DROPOUT, the random word of element e, row length, statistics by row, SPILL_LEN. -/
structure RowArg where
  tT : Bytes
  tD : Bytes
  tE : Bytes
  layer : Bool
  eps : Fp
  thr : Nat
  k : Fp
  rnd : Nat → Nat
  d : Nat
  stats : Nat → Fp × Fp
  spill : Nat

/-- What it gives: y (or dx, dg), du, the statistics by row, dγ and dβ. -/
structure RowRes where
  y : Mat
  y2 : Mat
  stats : List (Option (Fp × Fp))
  dgam : List (Option Fp)
  dbet : List (Option Fp)
  deriving DecidableEq, Repr

def RowRes.ofY (y : Mat) : RowRes := { y := y, y2 := [], stats := [], dgam := [], dbet := [] }

/-- A function of one, two or three elements, absent when one of them is. -/
def map1 (f : Fp → Fp) (x : Mat) : Mat := x.map fun r => r.map fun a => a.map f
def lift2 (f : Fp → Fp → Fp) (a b : Option Fp) : Option Fp := a.bind fun a => b.map (f a)
def map2 (f : Fp → Fp → Fp) (x y : Mat) : Mat := (x.zip y).map fun r => (r.1.zip r.2).map fun p => lift2 f p.1 p.2
def map3 (f : Fp → Fp → Fp → Fp) (x y z : Mat) : Mat :=
  ((x.zip y).zip z).map fun r => ((r.1.1.zip r.1.2).zip r.2).map fun p => p.1.1.bind fun a => lift2 (f a) p.1.2 p.2

/-! ## The norms (R133) -/

/-- μ and ρ of a row. -/
def normStats (a : RowArg) (x : List Fp) : Fp × Fp :=
  let d := Fp.ofNat a.d
  let m2 := q64 ((rowSum (x.map fun v => v.mul v)).div d)
  if a.layer then
    let m1 := q64 ((rowSum x).div d)
    let v := q64 (m2.sub (q64 (m1.mul m1)))
    let v := if v.lt .zero then .zero else v
    (q32 m1, q32 (q64 (v.add a.eps)).rsqrt)
  else (.zero, q32 (q64 (m2.add a.eps)).rsqrt)

/-- x̂, and y of NORM_APPLY. -/
def xhat (st : Fp × Fp) (x : Fp) : Fp := mul32 (sub32 x st.1) st.2
def normY (st : Fp × Fp) (g b x : Fp) : Fp := add32 (mul32 (xhat st x) g) b

/-- A row of NORM_APPLY; `gb` holds γ and β. -/
def normRow (gb : Mat) (st : Fp × Fp) (x : List (Option Fp)) : List (Option Fp) :=
  ((x.zip (gb.getD 0 [])).zip (gb.getD 1 [])).map fun p => p.1.1.bind fun x =>
    p.1.2.bind fun g => p.2.map fun b => normY st g b x

/-- A row of NORM_D: dx. -/
def normDRow (a : RowArg) (st : Fp × Fp) (x g dy : List Fp) : List Fp :=
  let d := Fp.ofNat a.d
  let gs := (dy.zip g).map fun p => mul32 p.1 p.2
  let xh := x.map (xhat st)
  let c := q32 ((rowSum ((gs.zip xh).map fun p => p.1.mul p.2)).div d)
  let m := if a.layer then q32 ((rowSum gs).div d) else .zero
  (gs.zip xh).map fun p => mul32 st.2 (sub32 (sub32 p.1 m) (mul32 p.2 c))

/-! ## The soft-maximum (R133) -/

/-- m of a row: NaN when an element is. Of zeros of both signs it is the first: the model's choice (log 97). -/
def rowMax : List Fp → Fp
  | [] => .inf true
  | x :: r =>
    let m := rowMax r
    match x, m with
    | .nan, _ => .nan
    | _, .nan => .nan
    | x, m => if x.lt m then m else x

def expRow (a : RowArg) (m : Fp) (x : List Fp) : List Fp := x.map fun v => tableF a.tE (sub32 v m)
def softStats (a : RowArg) (x : List Fp) : Fp × Fp :=
  let m := rowMax x
  (m, q32 (Fp.one.div (rowSum (expRow a m x))))
def softRow (a : RowArg) (st : Fp × Fp) (x : List Fp) : List Fp := (expRow a st.1 x).map fun e => mul32 e st.2

/-- A row function on a row all of whose elements are there. -/
def wholeRow (f : List Fp → List Fp) (x : List (Option Fp)) : List (Option Fp) :=
  match allSome x with
  | none => x.map fun _ => none
  | some v => (f v).map some

/-! ## Table: Row-unit operations -/

/-- Operation `op` on its inputs. -/
def rowOp (a : RowArg) (op : Nat) (x b c : Mat) : RowRes :=
  match op with
  | 0 => .ofY (map1 (tableF a.tT) x)
  | 1 => .ofY (map2 (fun x dy => mul32 dy (tableF a.tD x)) x b)
  | 2 => .ofY (map2 (fun g u => mul32 (tableF a.tT g) u) x b)
  | 3 => { RowRes.ofY (map3 (fun g u dy => mul32 (mul32 dy u) (tableF a.tD g)) x b c) with
           y2 := map3 (fun g _ dy => mul32 dy (tableF a.tT g)) x b c }
  | 4 =>
    let st := x.map fun r => (allSome r).map (normStats a)
    { RowRes.ofY ((x.zip st).map fun r => match r.2 with
        | none => r.1.map fun _ => none
        | some t => normRow b t r.1) with stats := st }
  | 5 => .ofY (x.zipIdx.map fun r => normRow b (a.stats r.2) r.1)
  | 6 =>
    let y := (x.zip c).zipIdx.map fun r =>
      match allSome r.1.1, allSome (b.getD 0 []), allSome r.1.2 with
      | some x, some g, some dy => (normDRow a (a.stats r.2) x g dy).map some
      | _, _, _ => r.1.1.map fun _ => none
    let xh := x.zipIdx.map fun r => r.1.map fun v => v.map (xhat (a.stats r.2))
    let col (m : Mat) (j : Nat) : List (Option Fp) := m.map fun r => r.getD j (some .zero)
    { RowRes.ofY y with
      dgam := (List.range a.d).map fun j => dotF a.spill (col c j) (col xh j)
      dbet := (List.range a.d).map fun j => dotF a.spill (col c j) (c.map fun _ => some .one) }
  | 7 =>
    let st := x.map fun r => (allSome r).map (softStats a)
    { RowRes.ofY ((x.zip st).map fun r => match r.2 with
        | none => r.1.map fun _ => none
        | some t => wholeRow (softRow a t) r.1) with stats := st }
  | 8 => .ofY (x.zipIdx.map fun r => wholeRow (softRow a (a.stats r.2)) r.1)
  | 9 => .ofY ((x.zip b).map fun r => match allSome r.1, allSome r.2 with
      | some y, some dy =>
        let c := q32 (rowSum ((dy.zip y).map fun p => p.1.mul p.2))
        (y.zip dy).map fun p => some (mul32 p.1 (sub32 p.2 c))
      | _, _ => r.1.map fun _ => none)
  | _ => .ofY (x.zipIdx.map fun r => r.1.zipIdx.map fun e => e.1.map fun v =>
      if a.thr ≤ a.rnd (r.2 * a.d + e.2) then mul32 v a.k else .zero)

/-- The operation reads statistics at FDST; it writes them there. -/
def readsStats (op : Nat) : Bool := op == 5 || op == 6 || op == 8
def writesStats (op : Nat) : Bool := op == 4 || op == 7

end Sys2Proof.Machine
end

