-- ==== Sys2Proof/Machine/Benches.lean ====
section
/-! DEFINITION. The commands of the benches and row units: FWD, DGRAD_W, DGRAD_G, WGRAD, PAIRED and the eleven row
operations (R116 to R135, R337). A row acts when the unit holds such a command and its operand tiles wait in the inboxes of
the contexts that deliver them; the command then runs as a whole (log 40, log 41). -/

namespace Sys2Proof.Machine

/-! ## Operand pairs and counters (R118, R144) -/

/-- The pair of formats is allowed. -/
def pairOk (a b : Nat) : Bool :=
  (decide (3 ≤ a ∧ a ≤ 9 ∧ 3 ≤ b ∧ b ≤ 9)) || (decide (1 ≤ a ∧ a ≤ 2 ∧ 1 ≤ b ∧ b ≤ 2))

/-- Fast-clock cycles of `n` reduction steps for one output block (Table: Operand pairs and rates). -/
def pairCycles (a b n : Nat) : Nat :=
  if a = 9 ∧ b = 9 then (n + 1) / 2
  else if a ≤ 2 then 4 * n
  else if 7 ≤ a ∧ 7 ≤ b then n
  else 2 * n

/-- Sub-blocks of a 256 × 256 output block (R125). -/
def subBlocks (set : Nat) : Nat := if set = 0 then 16 else if set = 1 then 4 else 1

/-- The benches that act as bench `u` (R119). -/
def State.gangOf (s : State) (u : Nat) : List Nat :=
  match s.gang with
  | 0 => [u]
  | 1 => [u, u + 1]
  | _ => [0, 1, 2, 3]

/-- Rows and columns of 256 × 256 blocks in the output block of a bench. -/
def State.gangShape (s : State) : Nat × Nat :=
  match s.gang with
  | 0 => (1, 1)
  | 1 => (2, 1)
  | _ => (2, 2)

/-- Cycles counted on every bench of the gang, product tiles on the bench as which it acts. -/
def State.countBench (s : State) (u cycles wgrad other : Nat) : State :=
  let s := (s.gangOf u).foldl (fun s b => s.incF (aBncBusy + 8 * b) 0 64 cycles) s
  (s.incF (aBncTiles + 8 * u) 32 32 wgrad).incF (aBncTiles + 8 * u) 0 32 other

/-- Bytes of the partial store that a bench command's suspended elements take (R123): those of its output block outside the
cells, and the further DGRAD_G blocks of a PAIRED command, whose WGRAD items are complete by themselves (log 42). -/
def State.partNeed (s : State) (c : Cmd) : Nat :=
  let g := (s.gangOf (uUnit c)).length
  let cell := 65536 / subBlocks s.part.set
  match cOp c with
  | 0x20 => 12 * g * (65536 - cell)
  | 0x21 => 12 * g * ((if uSteps c % 65536 = 0 then 0 else 65536 - cell)
      + (if uSteps c / 65536 = 0 then 0 else 65536 * (uSteps c / 65536) - cell))
  | _ => 0

/-- Bytes that the suspended output blocks take (R123). -/
def State.partsHeld (s : State) : Nat := (s.bnc.parts.map fun p => 12 * p.m * p.n).sum

/-- Bytes of the partial store in use: the suspended blocks, and those of the commands accepted and not run, but for `but`. -/
def State.partUsed (s : State) (but : Option Flight) : Nat :=
  s.partsHeld + ((s.flights.filter fun f => !f.done && !f.ran && some f != but).map fun f => s.partNeed f.cmd).sum

/-- The command waits for room in the partial store (R123). -/
def State.partWaits (s : State) (c : Cmd) : Bool :=
  decide (0 < s.partNeed c ∧ s.nmPartSize < s.partUsed none + s.partNeed c)

/-! ## Masks (R129) -/

/-- Address of mask entry `k` of a command. -/
def State.maskAddr (s : State) (c : Cmd) (k : Nat) : Nat := s.t0Scratch + 64 * (uParam0 c % 2 ^ 26 + k)
/-- The command's mask is enabled. PARAM0 of a product with NORM or DROPOUT chained is that operation's parameter (log 40). -/
def maskEn (c : Cmd) : Bool := uParam0 c / 2 ^ 31 == 1 && !(uDest c == 3 && (uChain c == 4 || uChain c == 10))

/-- Element (i, j) of a 256 × 256 block is masked by an entry. -/
def entryMasks (e : Bytes) (i j : Nat) : Bool :=
  bitAt (e.getD (i / 8) 0) (i % 8) || bitAt (e.getD (0x20 + i / 32) 0) (j / 32)

/-- The entries of the mask for an output of `m` by `n`; empty when the command has none. -/
def State.maskEntries (s : State) (c : Cmd) (m n : Nat) : List Bytes :=
  if maskEn c then
    (List.range (((m + 255) / 256) * ((n + 255) / 256))).map fun k => s.t0Read (s.maskAddr c k) 64
  else []

/-- Element (i, j) of an output with `n` columns is masked. The entries of several blocks stand in row-major order of the output: the
model's choice (log 95). -/
def isMasked (es : List Bytes) (n i j : Nat) : Bool :=
  !es.isEmpty && entryMasks (es.getD (i / 256 * ((n + 255) / 256) + j / 256) []) (i % 256) (j % 256)

/-- A 256 × 256 block with some element that is not masked. -/
def blockRuns (es : List Bytes) (bc bi bj : Nat) : Bool :=
  es.isEmpty || (List.range 256).any fun i => (List.range 256).any fun j =>
    !entryMasks (es.getD (bi * bc + bj) []) i j

/-- The blocks of an output of `m` by `n` that take product cycles; and the passes of a ganged bench. -/
def liveBlocks (es : List Bytes) (m n : Nat) : List (Nat × Nat) :=
  let br := (m + 255) / 256
  let bc := (n + 255) / 256
  ((List.range (br * bc)).map fun k => (k / bc, k % bc)).filter fun b => blockRuns es bc b.1 b.2
def gangPasses (sh : Nat × Nat) (bs : List (Nat × Nat)) : Nat :=
  (nub (bs.map fun b => b.1 / sh.1 * 65536 + b.2 / sh.2)).length

/-- Why a mask cannot be read: uncorrectable, or beyond SCRATCH (R41, R348). -/
def State.maskBad (s : State) (c : Cmd) (m n : Nat) : Option Ev :=
  let k := ((m + 255) / 256) * ((n + 255) / 256)
  if !maskEn c then none
  else if s.scratchSize < 64 * (uParam0 c % 2 ^ 26 + k) then some evBncOperand
  else if s.t0Bad (s.maskAddr c 0) (64 * k) then some evSramUncorrectable
  else none

/-! ## The end of a run -/

/-- Some value is not finite. -/
def matBad (y : Mat) : Bool := y.any fun r => r.any fun v => v.any fun v => !v.isFin
/-- No element depends on an illegal code. -/
def matWhole (y : Mat) : Bool := y.all fun r => r.all Option.isSome
/-- FP32 encodings of a matrix. -/
def matBits (y : Mat) : List (List (Option Nat)) := y.map fun r => r.map fun v => v.map rne32

/-- The output tiles of a matrix for context `o`. -/
def tilesFor (o fmt d : Nat) (y : Mat) : List (Nat × Nat × Nat × Option (List (List Nat))) :=
  (cutTiles fmt y.length d (matBits y)).map fun t => (o, t)

/-- The bytes read from T1 for the command of unit `u` are dropped, with reads still under way. -/
def State.dropBuf (s : State) (u : Nat) : State :=
  let s := s.dropJobs fun k => k == .raw 6 (4 * u) || k == .raw 6 (4 * u + 1)
  { s with bnc := { s.bnc with buf := Tab.put (Tab.put s.bnc.buf (2 * u) []) (2 * u + 1) [] } }

/-- Values by number, up to the first FP32 tile with an absent element: the numbers and the values, and whether all are
there. -/
def fpVals (m n : Nat) (y : Mat) : Bool × List (Nat × Nat) :=
  let ord := outOrder m n
  let tile (t : Nat × Nat) : Option (List (Nat × Nat)) :=
    (allSome ((List.range (min 64 (m - 64 * t.1))).flatMap fun a => (List.range (min 128 (n - 128 * t.2))).map fun b =>
      ((y.getD (64 * t.1 + a) []).getD (128 * t.2 + b) none).map fun v =>
        (outNo ord (64 * t.1 + a) (128 * t.2 + b), rne32 v)))
  let ts := (ord.map tile).takeWhile Option.isSome
  (ts.length == ord.length, ts.flatMap fun t => t.getD [])

/-- Bytes of the FP32 destination of an output of `m` by `n`. -/
def fpBytes (m n : Nat) : Nat := (outOrder m n).length * 32768

/-- Quantised outputs of the command; `pre` is a state in which its other effects have been applied. -/
def State.emitOut (pre : State) (f : Flight) (ctxs : List (Nat × List Bytes)) (bad : Bool)
    (tiles : List (Nat × Nat × Nat × Option (List (List Nat)))) : State :=
  let s := (pre.noteNonfinite f bad).dropBuf (uUnit f.cmd)
  let fmt := pre.outFmt f
  s.endUnit f ctxs fmt (s.outLoop f fmt (pre.startCodeOf f) 0 0 tiles)

/-- The command has no quantised output: it ends, or stops at an illegal code. -/
def State.endPlain (s : State) (f : Flight) (ctxs : List (Nat × List Bytes)) (bad all : Bool) : State :=
  let s := (s.noteNonfinite f bad).dropBuf (uUnit f.cmd)
  s.endUnit f ctxs 0 (if all then .all else .illegal, 0, s)

/-! ## Row operations (R131 to R137) -/

/-- An input of a row operation: FP32 values, U8-SQRT squared. -/
def rowMat (o : Opd) : Mat := o.m.map fun r => r.map fun v => v.map fun v => let v := q32 v; if o.fmt = 11 then mul32 v v else v

/-- The inputs of row operation `op` agree in shape; γβ is FP32 with two rows. -/
def rowShapes (op d rows : Nat) (b c : Option Opd) : Bool :=
  let same (o : Option Opd) : Bool := o.any fun o => o.rows == rows && o.cols == d
  match op with
  | 1 | 2 | 9 => same b
  | 3 => same b && same c
  | 4 | 5 => b.any fun o => o.fmt == 0 && o.rows == 2
  | 6 => (b.any fun o => o.fmt == 0 && o.rows == 2) && same c
  | _ => true

/-- Bytes of the statistics tensor of `r` rows (R134), and of the pair dγ, dβ for rows of `d`. -/
def statBytes (r : Nat) : Nat := (r + 63) / 64 * 512
def gamBytes (d : Nat) : Nat := roundUp (4 * d) 256 + 4 * d

/-- Row operation `op` of flight `f` on its input `x` of row length `d`. -/
def State.runRow (s : State) (f : Flight) (ctxs : List (Nat × List Bytes)) (op d : Nat) (x b c : Mat) (bad0 : Bool) :
    State :=
  let cmd := f.cmd
  let u := uUnit cmd
  let st := readsStats op || (writesStats op && !f.quiet)
  let gam := op == 6 && !f.quiet
  if (st && !(if readsStats op then s.fpInside else s.fpAllowed) (uFdst cmd) (statBytes x.length)) || (gam && !s.fpAllowed (uParam1 cmd) (gamBytes d)) then
    s.refuseUnit f evBncOperand
  else
    let old0 := if st then s.fpOld u 0 (uFdst cmd) (statBytes x.length) else .ready []
    match old0 with
    | .bad => s.refuseUnit f evSramUncorrectable
    | .wait s => s
    | .ready sb =>
      match (if gam then s.fpOld u 1 (uParam1 cmd) (gamBytes d) else .ready []) with
      | .bad => s.refuseUnit f evSramUncorrectable
      | .wait s => s
      | .ready gb =>
        let step := if f.quiet then (s.flightRec f).step else s.stepCtr.toNat
        let a : RowArg := {
          tT := s.nmTable (uTableT cmd), tD := s.nmTable (uTableD cmd), tE := s.nmTable s.nmExpTable
          layer := uNormKind cmd == 1 && cOp cmd == 0x22, eps := v32 (uParam0 cmd), thr := uParam0 cmd
          k := v32 (uParam1 cmd), rnd := philoxElem s.nmSeed step (uMb cmd) (uLayer cmd) (uTensor cmd), d := d
          stats := fun r => (v32 (leAt sb (8 * r) 4), v32 (leAt sb (8 * r + 4) 4)), spill := s.nmSpill }
        let r := rowOp a op x b c
        let pair (p : Option (Fp × Fp) × Nat) : List (Nat × Nat) := match p.1 with
          | some v => [(2 * p.2, rne32 v.1), (2 * p.2 + 1, rne32 v.2)]
          | none => []
        let sv := ((r.stats.zipIdx).takeWhile fun p => p.1.isSome).flatMap pair
        let s := if writesStats op && !f.quiet then s.fpStore u (uFdst cmd) false sb sv else s
        let gv := (((r.dgam.zipIdx).filterMap fun p => p.1.map fun v => (p.2, rne32 v))
          ++ (r.dbet.zipIdx).filterMap fun p => p.1.map fun v => (roundUp (4 * d) 256 / 4 + p.2, rne32 v))
        -- a stop at an illegal code leaves no column complete (R149)
        let s := if gam && matWhole [r.dgam, r.dbet] && matWhole r.y then s.fpStore u (uParam1 cmd) true gb gv else s
        let fmt := s.outFmt f
        let t1 := tilesFor (uOctx cmd) fmt d r.y
        let tiles := if op = 3 then (t1.zip (tilesFor (uParam1 cmd % 65536) fmt d r.y2)).flatMap fun p => [p.1, p.2] else t1
        let bad := bad0 || matBad r.y || matBad r.y2 || matBad [r.dgam] || matBad [r.dbet]
        s.emitOut f ctxs bad tiles

/-- The operand tiles of a flight, once every context that it needs holds its whole pass. -/
def State.inputsOf (s : State) (f : Flight) : Option (List (Nat × List Bytes)) :=
  allSome ((cmdInputs f.cmd).zipIdx.map fun c => (s.passTiles f.cmd c.2 c.1).map fun t => (c.1, t))

/-- Table: Row-unit operations, for the ROWOP command with operation `op` that unit `u` holds. -/
def State.runRowop (s : State) (u op : Nat) : State :=
  match s.unitFlight u with
  | none => s
  | some f =>
    if cOp f.cmd ≠ 0x22 ∨ uRow f.cmd ≠ op then s else
    match s.inputsOf f with
    | none => s
    | some ts =>
      let d := uSteps f.cmd
      let at_ (i : Nat) : Option Opd := (ts[i]?).bind fun t => mkOpd t.2 d false
      match at_ 0 with
      | none => s.refuseUnit f evBncOperand
      | some x =>
        if !rowShapes op d x.rows (at_ 1) (at_ 2) then s.refuseUnit f evBncOperand
        else
          let mat (o : Option Opd) : Mat := ((o.map rowMat)).getD []
          s.runRow f ts op d (rowMat x) (mat (at_ 1)) (mat (at_ 2)) false

/-! ## Products (R116 to R129) -/

/-- S is read by rows (else by columns), and the vectors that the output's rows and columns are made of. -/
def prodByRows (op : Nat) : Bool := op == 0 || op == 3
def prodVecs (op : Nat) (sv a : Opd) : List (List (Option Fp)) × List (List (Option Fp)) :=
  match op with
  | 0 => (a.rowVecs, sv.colVecs)
  | 1 => (a.rowVecs, sv.rowVecs)
  | 2 => (sv.rowVecs, a.rowVecs)
  | _ => (a.colVecs, sv.colVecs)

/-- Output matrix of a product; a masked element is +0 (R129). -/
def prodMat (spill : Nat) (es : List Bytes) (l r : List (List (Option Fp))) : Mat :=
  l.zipIdx.map fun x => r.zipIdx.map fun y =>
    if isMasked es r.length x.2 y.2 then some .zero else dotF spill x.1 y.1

/-- Product tiles: the stationary tiles of `tr` by `tc` that supply reduction steps to each of the output blocks, for `n` steps
and an output of `m` by `k`. -/
def prodTiles (op tr tc n m k : Nat) (blocks : List (Nat × Nat)) : Nat :=
  let red := if prodByRows op then tr else tc
  let across := if op = 0 ∨ op = 3 then tc else tr
  let ext (b : Nat × Nat) : Nat := min 256 (if op = 2 then m - 256 * b.1 else k - 256 * b.2)
  (blocks.map fun b => (n + red - 1) / red * ((ext b + across - 1) / across)).sum

/-- FP32 outputs of an `m` by `n` matrix written or added at FDST. -/
def State.storeOut (s : State) (f : Flight) (add : Bool) (m n : Nat) (y : Mat) (next : State → Bool → State) : State :=
  if f.quiet then next s (fpVals m n y).1
  else if !s.fpAllowed (uFdst f.cmd) (fpBytes m n) then s.refuseUnit f evBncOperand
  else match s.fpOld (uUnit f.cmd) 0 (uFdst f.cmd) (fpBytes m n) with
  | .bad => s.refuseUnit f evSramUncorrectable
  | .wait s => s
  | .ready old =>
    let v := fpVals m n y
    next (s.fpStore (uUnit f.cmd) (uFdst f.cmd) add old v.2) v.1

/-- Tiles of an operand of a product: `n` reduction steps, along its rows when `byRows`, by `ext` elements. -/
def opdTiles (fmt n ext : Nat) (byRows : Bool) : Nat :=
  let sh := shapeOf fmt
  let up (a b : Nat) : Nat := (a + b - 1) / b
  if sh.rows = 0 then 0 else if byRows then up n sh.rows * up ext sh.cols else up ext sh.rows * up n sh.cols

/-- The tiles that one output block takes from context `c`: as many as the block needs, or a whole pass that holds fewer
(log 40). -/
def State.blockTake (s : State) (cmd : Cmd) (i c n ext : Nat) (byRows : Bool) : Option (List Bytes) :=
  let b := s.stock cmd i c
  let k := opdTiles (Hdr.read (satHdr (b.headD []))).fmt n ext byRows
  if 0 < k ∧ k ≤ b.length then some (b.take k) else s.passTiles cmd i c

/-- What identifies the block of a product: its operands without the unit and the inputs. -/
def suspKey (c : Cmd) : Cmd := cmdSet (cmdSet (cmdSet c 0 0x10 0) 0x10 0xD 0) 0x20 6 0

/-- The suspended block that a command resumes (R123; log 92). -/
def State.suspOf (s : State) (c : Cmd) : Option Susp := s.bnc.parts.find? fun p => p.key == suspKey c

/-- The reduction steps that its block still lacks. -/
def State.stepsLeft (s : State) (c : Cmd) : Nat := uSteps c - ((s.suspOf c).map Susp.r).getD 0

/-- The operand tiles of a product's output block, with the pass of a chained operation's second input. -/
def State.blockInputs (s : State) (f : Flight) : Option (List (Nat × List Bytes)) :=
  let op := uProd f.cmd
  let n := s.stepsLeft f.cmd
  let rows := 256 * s.gangShape.1
  let cols := 256 * s.gangShape.2
  allSome ((cmdInputs f.cmd).zipIdx.map fun c =>
    (match c.2 with
      | 0 => s.blockTake f.cmd 0 c.1 n (if op = 2 then rows else cols) (prodByRows op)
      | 1 => s.blockTake f.cmd 1 c.1 n (if op = 2 then cols else rows) (op == 3)
      | i => s.passTiles f.cmd i c.1).map fun t => (c.1, t))

/-- The reduction steps that a pass brings when it holds fewer than its block needs, `ext` elements across: none when its tiles do not
fill the block. -/
def shortSteps (sats : List Bytes) (ext : Nat) (byRows : Bool) : Nat :=
  let sh := shapeOf (Hdr.read (satHdr (sats.headD []))).fmt
  let across := if sh.rows = 0 then 0 else if byRows then (ext + sh.cols - 1) / sh.cols else (ext + sh.rows - 1) / sh.rows
  if across = 0 ∨ sats.length % across ≠ 0 then 0 else sats.length / across * (if byRows then sh.rows else sh.cols)

/-- The cell of a resumed element: +0 where there is none. -/
def Susp.cell (p : Susp) (i j : Nat) : Fp × Fp :=
  let c := (p.cells.getD i []).getD j (0, 0)
  (v32 c.1, v64 c.2)

/-- Output matrix of a product whose reduction goes on from what the partial store holds. -/
def prodMatFrom (spill : Nat) (es : List Bytes) (p : Susp) (l r : List (List (Option Fp))) : Mat :=
  l.zipIdx.map fun x => r.zipIdx.map fun y =>
    if isMasked es r.length x.2 y.2 then some .zero else dotFrom spill p.r (p.cell x.2 y.2).1 (p.cell x.2 y.2).2 x.1 y.1

/-- acc and L of every element after the steps of `l` and `r`, as the partial store keeps them. -/
def holdMat (spill : Nat) (p : Susp) (l r : List (List (Option Fp))) : Option (List (List (Nat × Nat))) :=
  allSome (l.zipIdx.map fun x => allSome (r.zipIdx.map fun y =>
    let ps := x.1.zip y.1
    let c := p.cell x.2 y.2
    (dotHold spill ((ps.length + 31) / 32) p.r c.1 c.2 ps).map fun h => (rne32 h.1, rne64 h.2)))

/-- A product whose passes end before its reduction does: the block is saved to the partial store, and a later command resumes it
(R123, R442; log 92). Without room it waits. -/
def State.suspend (s : State) (f : Flight) (ts : List (Nat × List Bytes)) (op left : Nat) : State :=
  let cmd := f.cmd
  let at_ (i : Nat) : List Bytes := ((ts[i]?).map Prod.snd).getD []
  let rows := 256 * s.gangShape.1
  let cols := 256 * s.gangShape.2
  let n := shortSteps (at_ 0) (if op = 2 then rows else cols) (prodByRows op)
  if n = 0 ∨ n ≠ shortSteps (at_ 1) (if op = 2 then cols else rows) (op == 3) ∨ left ≤ n ∨ n % 32 ≠ 0 then s.refuseUnit f evBncOperand
  else match mkOpd (at_ 0) n (prodByRows op), mkOpd (at_ 1) n (op == 3) with
  | some sv, some a =>
    if !pairOk sv.fmt a.fmt then s.refuseUnit f evBncOperand else
    let v := prodVecs op sv a
    let p := (s.suspOf cmd).getD { key := suspKey cmd, r := 0, m := v.1.length, n := v.2.length, cells := [] }
    if p.m ≠ v.1.length ∨ p.n ≠ v.2.length then s.refuseUnit f evBncOperand
    else if s.nmPartSize < s.partUsed (some f) + (if p.cells.isEmpty then 12 * p.m * p.n else 0) then s
    else match holdMat s.nmSpill p v.1 v.2 with
    | none => s.stopIllegal f ts |>.takeTiles cmd ts
    | some cells =>
      let q : Susp := { p with r := p.r + n, cells := cells }
      let s : State := { s with bnc := { s.bnc with parts := (s.bnc.parts.filter fun x => x.key != q.key) ++ [q] } }
      (s.takeTiles cmd ts).ranFlight f 0
  | _, _ => s.refuseUnit f evBncOperand

/-- The PRODUCT command with operation `op` that bench `u` holds. -/
def State.runProduct (s : State) (u op : Nat) : State :=
  match s.unitFlight u with
  | none => s
  | some f =>
    let cmd := f.cmd
    if cOp cmd ≠ 0x20 ∨ uProd cmd ≠ op then s else
    match s.blockInputs f with
    | none => s
    | some ts =>
      let n := s.stepsLeft cmd
      let at_ (i : Nat) (rows : Bool) : Option Opd := (ts[i]?).bind fun t => mkOpd t.2 n rows
      -- the reduction runs along rows of A in WGRAD, along its columns otherwise
      match at_ 0 (prodByRows op), at_ 1 (op == 3) with
      | some sv, some a =>
        if !pairOk sv.fmt a.fmt then s.refuseUnit f evBncOperand else
        let v := prodVecs op sv a
        let mr := v.1.length
        let nc := v.2.length
        if (s.suspOf cmd).any fun p => p.m != mr || p.n != nc then s.refuseUnit f evBncOperand else
        match s.maskBad cmd mr nc with
        | some e => s.refuseUnit f e
        | none =>
          let es := s.maskEntries cmd mr nc
          let y := match s.suspOf cmd with
            | none => prodMat s.nmSpill es v.1 v.2
            | some p => prodMatFrom s.nmSpill es p v.1 v.2
          let live := liveBlocks es mr nc
          let sh := shapeOf sv.fmt
          let tiles := prodTiles op sh.rows sh.cols n mr nc live
          -- the block leaves the partial store with its last steps
          let leave (t : State) : State := if (s.suspOf cmd).isNone then t else
            { t with bnc := { t.bnc with parts := t.bnc.parts.filter fun x => x.key != suspKey cmd } }
          -- a command that stops at an illegal code counts nothing (log 41)
          let count (t : State) : State := if !matWhole y then leave t else
            (leave t).countBench u (pairCycles sv.fmt a.fmt n * subBlocks s.part.set * gangPasses s.gangShape live)
              (if op = 3 then tiles else 0) (if op = 3 then 0 else tiles)
          match uDest cmd with
          | 0 => (count s).emitOut f ts (matBad y) (tilesFor (uOctx cmd) (s.outFmt f) nc y)
          | 3 =>
            let b := (ts[2]?).bind fun t => mkOpd t.2 nc false
            if !rowShapes (uChain cmd) nc mr b none then s.refuseUnit f evBncOperand
            else
              let t := s.runRow f ts (uChain cmd) nc y ((b.map rowMat).getD []) [] (matBad y)
              -- a run that waits for its statistics counts when it goes on
              if t.flights.any (· == f) then t
              else if t.flights.any (fun g => g.queue == f.queue && g.cmd == f.cmd && g.ran) then count t else leave t
          | dst => s.storeOut f (dst == 2) mr nc y fun s all => (count s).endPlain f ts (matBad y) all
      | _, _ => s.suspend f ts op n

/-! ## PAIRED (R128) -/

/-- A tile as an operand of its valid corner. -/
def tileOpd (sat : Bytes) : Opd :=
  let h := Hdr.read (satHdr sat)
  { fmt := h.fmt, rows := h.vrows, cols := h.vcols, m := ((satElems sat).take h.vrows).map fun r => r.take h.vcols }

/-- The items of one stationary tile in the order of R128: WGRAD 1, DGRAD_G 1, WGRAD 2 and so on, then the rest of the longer
list; WGRAD or not, and its number. -/
def itemOrder (w d : Nat) : List (Bool × Nat) :=
  (List.range (max w d)).flatMap fun i => (if i < w then [(true, i)] else []) ++ (if i < d then [(false, i)] else [])

/-- The operands of a PAIRED command: the stationary tiles, and for each of them w tiles of X and d tiles of W. -/
structure Paired where
  w : Nat
  d : Nat
  ss : List Opd
  xs : List Opd
  ws : List Opd

def Opd.empty : Opd := { fmt := 0, rows := 0, cols := 0, m := [] }
def Paired.sAt (p : Paired) (s : Nat) : Opd := p.ss.getD s Opd.empty
def Paired.xAt (p : Paired) (s i : Nat) : Opd := p.xs.getD (s * p.w + i) Opd.empty
def Paired.wAt (p : Paired) (s j : Nat) : Opd := p.ws.getD (s * p.d + j) Opd.empty

/-- The items that run: all up to the first one that meets an illegal code (R149), as stationary tile and item. -/
def Paired.done (p : Paired) : List (Nat × Bool × Nat) :=
  ((List.range p.ss.length).flatMap fun s => (itemOrder p.w p.d).map fun i => (s, i)).takeWhile fun x =>
    matWhole (p.sAt x.1).m && matWhole (if x.2.1 then (p.xAt x.1 x.2.2).m else (p.wAt x.1 x.2.2).m)

/-- The block row t and the block column n of every stationary tile. Stationary tiles with the same streamed tiles of X stand in one
row t, and those with the same streamed tiles of W in one column n, in order of appearance; where one list is empty, the tiles of
a row, or of a column, count on (log 42). -/
def pairedGrid (w d n : Nat) (xk wk : List (List Bytes)) : List (Nat × Nat) :=
  let firsts (ks : List (List Bytes)) : List Nat := ks.map fun k => ks.idxOf k
  let group (ks : List (List Bytes)) (i : Nat) : Nat := (nub (firsts ks)).idxOf ((firsts ks).getD i 0)
  let seen (ks : List (List Bytes)) (i : Nat) : Nat := (ks.take i).countP fun k => k == ks.getD i []
  (List.range n).map fun i => (if w = 0 then seen wk i else group xk i, if d = 0 then seen xk i else group wk i)

/-- The first stationary tile of a row or column. -/
def Paired.first (p : Paired) (g : List Nat) (k : Nat) : Opd := p.sAt (g.idxOf k)

/-- Rows and columns of the WGRAD output: k over the items, n over the block columns. -/
def Paired.wRows (p : Paired) : Nat := ((List.range p.w).map fun i => (p.xAt 0 i).cols).sum
def Paired.wCol (p : Paired) (g : List (Nat × Nat)) (n : Nat) : Nat :=
  ((List.range n).map fun k => (p.first (g.map Prod.snd) k).cols).sum
def Paired.wCols (p : Paired) (g : List (Nat × Nat)) : Nat := p.wCol g (nub (g.map Prod.snd)).length

/-- Where WGRAD item `i` of stationary tile `s` lies in the output. -/
def Paired.wPlace (p : Paired) (g : List (Nat × Nat)) (s i : Nat) : Nat × Nat :=
  (((List.range i).map fun k => (p.xAt 0 k).cols).sum, p.wCol g (g.getD s (0, 0)).2)

/-- F of WGRAD item `i` of stationary tile `s`: the sum over the tile's rows; a masked element is +0 (R129). -/
def Paired.wItem (p : Paired) (spill : Nat) (es : List Bytes) (g : List (Nat × Nat)) (s i : Nat) : Mat :=
  let o := p.wPlace g s i
  (p.xAt s i).colVecs.zipIdx.map fun x => (p.sAt s).colVecs.zipIdx.map fun y =>
    if isMasked es (p.wCols g) (o.1 + x.2) (o.2 + y.2) then some .zero else dotF spill x.1 y.1

/-- WGRAD item `i` of stationary tile `s` is not masked in full. -/
def Paired.wLive (p : Paired) (es : List Bytes) (g : List (Nat × Nat)) (s i : Nat) : Bool :=
  let o := p.wPlace g s i
  es.isEmpty || (List.range (p.xAt s i).cols).any fun x => (List.range (p.sAt s).cols).any fun y =>
    !isMasked es (p.wCols g) (o.1 + x) (o.2 + y)

/-- The DGRAD_G outputs of block row `t`: the reduction runs over its stationary tiles in order; an item that did not run for each
of them completes none. -/
def Paired.gBlock (p : Paired) (spill : Nat) (g : List (Nat × Nat)) (t : Nat) : Mat :=
  let tiles := (List.range p.ss.length).filter fun s => (g.getD s (0, 0)).1 == t
  let first := tiles.headD 0
  (List.range (p.sAt first).rows).map fun i => (List.range p.d).flatMap fun j =>
    (List.range (p.wAt first j).rows).map fun k =>
      if tiles.all fun s => p.done.contains (s, false, j) then
        dotF spill (tiles.flatMap fun s => (p.sAt s).m.getD i []) (tiles.flatMap fun s =>
          let wv := (p.wAt s j).m.getD k []
          (wv ++ List.replicate ((p.sAt s).cols - wv.length) (some Fp.zero)).take (p.sAt s).cols)
      else none

/-- All DGRAD_G outputs, by block row. -/
def Paired.gBlocks (p : Paired) (spill : Nat) (g : List (Nat × Nat)) : List Mat :=
  if p.d = 0 then [] else (List.range (nub (g.map Prod.fst)).length).map (p.gBlock spill g)

/-- The WGRAD items that ran, in order, as value numbers and FP32 encodings of the output at FDST. -/
def Paired.wVals (p : Paired) (spill : Nat) (es : List Bytes) (g : List (Nat × Nat)) : List (Nat × Nat) :=
  let ord := outOrder p.wRows (p.wCols g)
  (p.done.filter fun x => x.2.1).flatMap fun x =>
    let o := p.wPlace g x.1 x.2.2
    (p.wItem spill es g x.1 x.2.2).zipIdx.flatMap fun r => r.1.zipIdx.filterMap fun v =>
      v.1.map fun f => (outNo ord (o.1 + r.2) (o.2 + v.2), rne32 f)

/-- The operands of a PAIRED command from its tiles, and the grid of its stationary tiles. -/
def pairedOf (cmd : Cmd) (ts : List (Nat × List Bytes)) : Paired × List (Nat × Nat) :=
  let w := uSteps cmd % 65536
  let d := uSteps cmd / 65536
  let sats (i : Nat) : List Bytes := ((ts[i]?).map Prod.snd).getD []
  let xt := if w = 0 then [] else sats 1
  let wt := if d = 0 then [] else sats (if w = 0 then 1 else 2)
  let keys (n : Nat) (l : List Bytes) : List (List Bytes) :=
    (List.range (sats 0).length).map fun s => ((l.drop (s * n)).take n).map satHdr
  ({ w := w, d := d, ss := (sats 0).map tileOpd, xs := xt.map tileOpd, ws := wt.map tileOpd },
    pairedGrid w d (sats 0).length (keys w xt) (keys d wt))

/-- The tiles of a PAIRED command go together: w and d for each stationary tile, one format on either side, an allowed pair. -/
def Paired.ok (p : Paired) : Bool :=
  let f0 := (p.ss.map Opd.fmt).headD 0
  let fx := ((p.xs ++ p.ws).map Opd.fmt).headD 0
  p.xs.length == p.ss.length * p.w && p.ws.length == p.ss.length * p.d && p.ss.all (fun o => o.fmt == f0)
    && (p.xs ++ p.ws).all fun o => pairOk f0 o.fmt && o.fmt == fx

/-- Product cycles of a PAIRED command, and the WGRAD product tiles that take some (R129). -/
def Paired.cycles (p : Paired) (es : List Bytes) (g : List (Nat × Nat)) : Nat :=
  let f0 := (p.ss.map Opd.fmt).headD 0
  let fx := ((p.xs ++ p.ws).map Opd.fmt).headD 0
  (p.ss.zipIdx.map fun o => ((List.range p.w).countP fun i => p.wLive es g o.2 i) * pairCycles f0 fx o.1.rows
    + p.d * pairCycles f0 fx o.1.cols).sum
def Paired.wTiles (p : Paired) (es : List Bytes) (g : List (Nat × Nat)) : Nat :=
  ((List.range p.ss.length).map fun s => (List.range p.w).countP fun i => p.wLive es g s i).sum

/-- The WGRAD items of a PAIRED command are added at FDST, where an output of `m` by `n` elements stands. -/
def State.storeItems (s : State) (f : Flight) (m n : Nat) (vals : List (Nat × Nat)) (next : State → State) : State :=
  if f.quiet then next s
  else if !s.fpAllowed (uFdst f.cmd) (fpBytes m n) then s.refuseUnit f evBncOperand
  else match s.fpOld (uUnit f.cmd) 0 (uFdst f.cmd) (fpBytes m n) with
  | .bad => s.refuseUnit f evSramUncorrectable
  | .wait s => s
  | .ready old => next (s.fpStore (uUnit f.cmd) (uFdst f.cmd) true old vals)

/-- The PAIRED command that bench `u` holds. -/
def State.runPaired (s : State) (u : Nat) : State :=
  match s.unitFlight u with
  | none => s
  | some f =>
    let cmd := f.cmd
    if cOp cmd ≠ 0x21 then s else
    match s.inputsOf f with
    | none => s
    | some ts =>
      let p := (pairedOf cmd ts).1
      let g := (pairedOf cmd ts).2
      if !p.ok then s.refuseUnit f evBncOperand
      else match (if p.w = 0 then none else s.maskBad cmd p.wRows (p.wCols g)) with
      | some e => s.refuseUnit f e
      | none =>
        let es := if p.w = 0 then [] else s.maskEntries cmd p.wRows (p.wCols g)
        let vw := p.wVals s.nmSpill es g
        let yg := p.gBlocks s.nmSpill g
        let whole := p.done.length == p.ss.length * (p.w + p.d)
        let bad := vw.any (fun v => !(v32 v.2).isFin) || yg.any matBad
        let out (t : State) : State :=
          let t := if !whole then t else
            t.countBench u (p.cycles es g * subBlocks s.part.set) (p.wTiles es g) (p.ss.length * p.d)
          if p.d = 0 ∨ !whole && yg.isEmpty then t.endPlain f ts bad whole
          else t.emitOut f ts bad ((yg.flatMap fun y => tilesFor (uOctx cmd) (s.outFmt f) ((y.map List.length).headD 0) y)
            ++ if whole then [] else [(uOctx cmd, 0, 0, none)])
        if p.w = 0 then out s else s.storeItems f p.wRows (p.wCols g) vw out

/-! ## The commands -/

def execFwd (u : BitVec 3) (s : State) : Res := .next (s.runProduct u.toNat 0).stir
def execDgradW (u : BitVec 3) (s : State) : Res := .next (s.runProduct u.toNat 1).stir
def execDgradG (u : BitVec 3) (s : State) : Res := .next (s.runProduct u.toNat 2).stir
def execWgrad (u : BitVec 3) (s : State) : Res := .next (s.runProduct u.toNat 3).stir
def execPaired (u : BitVec 3) (s : State) : Res := .next (s.runPaired u.toNat).stir
def execRopTable (u : BitVec 3) (s : State) : Res := .next (s.runRowop u.toNat 0).stir
def execRopTableD (u : BitVec 3) (s : State) : Res := .next (s.runRowop u.toNat 1).stir
def execRopGate (u : BitVec 3) (s : State) : Res := .next (s.runRowop u.toNat 2).stir
def execRopGateD (u : BitVec 3) (s : State) : Res := .next (s.runRowop u.toNat 3).stir
def execRopNorm (u : BitVec 3) (s : State) : Res := .next (s.runRowop u.toNat 4).stir
def execRopNormApply (u : BitVec 3) (s : State) : Res := .next (s.runRowop u.toNat 5).stir
def execRopNormD (u : BitVec 3) (s : State) : Res := .next (s.runRowop u.toNat 6).stir
def execRopSoftmax (u : BitVec 3) (s : State) : Res := .next (s.runRowop u.toNat 7).stir
def execRopSoftmaxApply (u : BitVec 3) (s : State) : Res := .next (s.runRowop u.toNat 8).stir
def execRopSoftmaxD (u : BitVec 3) (s : State) : Res := .next (s.runRowop u.toNat 9).stir
def execRopDropout (u : BitVec 3) (s : State) : Res := .next (s.runRowop u.toNat 10).stir

end Sys2Proof.Machine
end

