-- ==== Sys2Proof/Machine/Diverge.lean ====
section
/-! DEFINITION. The divergence search and its repair (R322, R323, R364, R365). -/

namespace Sys2Proof.Machine

/-! ## Roll calls of the block's own -/

/-- A ROLLCALL that no queue holds: group, SOURCE, slot operations. -/
def ownRoll (group source ops : Nat) : Cmd :=
  cmdSet (cmdSet (cmdSet (cmdSet 0 0 1 0x40) 0x1C 2 group) 0x1E 1 source) 0x20 4 ops

def State.ownRollCall (s : State) (group source ops : Nat) (ws : List Word) : State :=
  s.startRoll none (ownRoll group source ops) ws

/-- No further roll call of the form's own may begin, so it waits (R306). -/
def State.ownWaits (s : State) (group source ops : Nat) : Bool := s.rollsFull (ownRoll group source ops)

/-- A roll call on the replica group. In a group of one package each form completes it locally (chapter 01, log 45). -/
def State.replicaRoll (s : State) (source ops : Nat) (ws : List Word) : State :=
  if (s.collMembers 0xFFF).length ≤ 1 ∧ 1 < s.forms then
    let (go, k, s) := s.issueColl none (ownRoll 0xFFF source ops) s.ownCoord 0
    if go then s.rollDone k (maskSlots ops ws) else s
  else s.ownRollCall 0xFFF source ops ws

/-! ## Part digests (Table: Divergence search) -/

/-- The four parts of the range. -/
def divParts (lo hi : Nat) : List (Nat × Nat) :=
  let q := (hi - lo + 3) / 4
  (List.range 4).map fun i => (min hi (lo + i * q), min hi (lo + (i + 1) * q))

/-- The digest of one part. -/
def State.partDigest (s : State) (p : Nat × Nat) : Word :=
  let ns := (List.range (p.2 - p.1)).map (p.1 + ·)
  if s.rcl.div.stage = 1 then
    crc64 ((ns.filter s.pcDigest).flatMap fun n => leBytes 4 n ++ leBytes 8 (Tab.get s.mkr.recs n).digest.toNat)
  else crc64 (ns.flatMap fun t => leBytes 8 (Tab.get s.mkr.tdig (s.rcl.div.piece * 65536 + t)).toNat)

/-- A round of the search. -/
def State.divRound (s : State) : State :=
  let d := s.rcl.div
  let ws := (divParts d.lo d.hi).flatMap fun p => let x := s.partDigest p; [x, x]
  let s : State := { s with rcl := { s.rcl with div := { d with rounds := d.rounds + 1 } } }
  s.replicaRoll 4 0x63636363 ws

/-- The own digest of the tile found, as the rounds compare it. -/
def State.ownTileDigest (s : State) : Word := s.partDigest (s.rcl.div.lo, s.rcl.div.lo + 1)

/-! ## The end of a search -/

/-- RCL_DIV for the result `r` and the source. -/
def State.setDiv (s : State) (r src : Nat) : State :=
  let d := s.rcl.div
  let s := s.setReg aRclDiv (word (at_ 46 d.piece + at_ 30 d.tile + at_ 24 r + at_ 16 (d.rounds % 256) + src))
  { s with
    rcl := { s.rcl with div := { d with stage := 4, need := [] } }
    tut := { s.tut with closing := .close } }

/-- DIVERGE_UNRESOLVED: the state can no longer be trusted (R323, R365). -/
def State.divUnresolved (s : State) : State :=
  let s := (s.logEv evUnresolved (rclErr 0xFFF 0)).setDiv 2 0
  let s : State := { s with err := { s.err with restoreNeeded := true } }
  s.logEv evRestoreNeeded 0

/-! ## Repair (R364) -/

/-- The sweep block of piece `p` that holds master tile `t`. -/
def State.blockOfTile (s : State) (p t : Nat) : Nat :=
  ((List.range (s.pcNm p)).find? fun b => decide (t < s.blockFirst p (b + 1))).getD 0

/-- The tiles of a sweep block that a repair fetches: masters, moments, the tiles of their scales, working copies. -/
def State.repairTiles (s : State) (p b : Nat) : List Nat :=
  let sgd := s.pcOpt p == 1
  let i := b / s.pcBc p
  let j := b % s.pcBc p
  let wc := (s.pcCols p + 127) / 128
  (List.range (s.blockTiles p b).length).map (fun n => tkey 0 (s.blockFirst p b + n)) ++ [tkey 1 b]
    ++ (if sgd then [] else [tkey 2 b]) ++ [tkey 3 (b / 32)] ++ (if sgd then [] else [tkey 4 (b / 32)])
    ++ ((List.range 2).filter fun h => decide (2 * j + h < wc)).map fun h => tkey 5 (i * wc + 2 * j + h)

/-- Every tile of a piece area. -/
def State.pieceTiles (s : State) (p : Nat) : List Nat :=
  (List.range 6).flatMap fun part => (List.range (s.partTiles p part)).map (tkey part)

/-- A state fetch request to (`coord`, this form) (Table: State fetch request). -/
def State.sendFetch (s : State) (coord p part tile n : Nat) : State :=
  (s.sendTo tData 3 coord s.part.form 0xE400
    (leBytes 4 p ++ leBytes 1 part ++ leBytes 3 0 ++ leBytes 4 tile ++ leBytes 4 n
      ++ leBytes 4 (s.regF aMkrApplied 0 32) ++ leBytes 44 0) (last := true)).getD s

/-- The repair begins: its tiles are asked for at the source; each is a recovery attempt of its own kind (source 6). -/
def State.startRepair (s : State) (src : Nat) : State :=
  let p := s.rcl.div.piece
  let need := s.repairTiles p (s.blockOfTile p s.rcl.div.tile)
  let r : Repair := { source := src, piece := p, tile := s.rcl.div.tile, need := need, got := [], todo := [], epoch := 0
                      phase := 0, writes := 0 }
  let s : State := { s with rcl := { s.rcl with repair := some r } }
  need.foldl (fun s k =>
    let part := k / 2 ^ 20
    let tile := k % 2 ^ 20
    let x : Recovery := { id := s.err.nextId, rd := s.stateRd p part tile .idle, source := 6, waiters := [], found := none
                          writing := false, stopped := false, need := [], got := [], peer := 0 }
    { s with err := { s.err with recov := s.err.recov ++ [x], nextId := s.err.nextId + 1 } }.sendFetch src p part tile 1) s

/-- The search has located tile t: the minority repairs it, the others go on (R323). -/
def State.divLocated (s : State) (major : Word) (src : Nat) : State :=
  let mine := s.ownTileDigest
  let s := s.setDiv 1 src
  if mine = major then s
  else
    let s := s.logEv evDivergeLocated (rclErr 0xFFF 0)
    { s with tut := { s.tut with closing := .searching } }.startRepair src

/-- One tile of the piece written with the repair's epoch. -/
def State.repairWrite (s : State) (r : Repair) (k : Nat) (pay : Bytes) : State :=
  let part := k / 2 ^ 20
  let tile := k % 2 ^ 20
  let c := s.stateCorner r.piece part tile
  let s : State := { s with
    rcl := { s.rcl with repair := some { r with todo := r.todo.filter (· != k), writes := 1 } }
    mkr := { s.mkr with wrote := (r.piece * 2 ^ 24 + k) :: s.mkr.wrote } }
  s.writeState (s.stateSlot (s.stateOff r.piece part tile) r.epoch) r.piece tile (s.partFmt r.piece part) c.1 c.2
    (part == 3 || part == 4) (.marker r.piece part tile) pay

/-- The next tile: a fetched one is written, another is read first. -/
def State.repairTile (s : State) (r : Repair) : State :=
  match r.todo with
  | [] => s
  | k :: _ =>
    let g := Tab.get r.got k
    if g.isEmpty then s.fetchTile (s.stateRd r.piece (k / 2 ^ 20) (k % 2 ^ 20) (.marker r.piece (k / 2 ^ 20) (k % 2 ^ 20)))
    else s.repairWrite r k g

/-- MKR_REC_EPOCH takes the epoch; the repair is over (step 5). -/
def State.repairEnd (s : State) (r : Repair) : State :=
  let s := s.setReg aMkrRecEpoch (word r.epoch)
  let s : State := { s with rcl := { s.rcl with repair := none }, tut := { s.tut with closing := .close } }
  s.logEv evDivergeRepaired 0

/-- The rewrite goes on with the next tile; after the last one, the record slots (R364, steps 3 and 4). -/
def State.repairGo (s : State) : State :=
  match s.rcl.repair with
  | none => s
  | some r =>
    if r.writes ≠ 0 then s
    else if r.phase = 0 then
      if !r.need.isEmpty then s
      else
        let (ep, s) := s.takeEpoch
        let todo := s.pieceTiles r.piece
        let r := { r with phase := 1, epoch := ep, todo := todo }
        let s : State := { s with
          rcl := { s.rcl with repair := some r }, mkr := { s.mkr with epoch := ep, wrote := [] } }
        s.repairTile r
    else if r.phase = 1 then
      if !r.todo.isEmpty then s.repairTile r
      else
        -- COUNT, LAST and DIGEST are the source's; no frame carries them (log 1)
        let (a, s) := s.draw
        let (d, s) := s.draw
        let pr : PieceRec := { Tab.get s.mkr.recs r.piece with epoch := r.epoch, count := fld a 0 32, last := fld a 32 32, digest := d }
        let s : State := { s with mkr := { s.mkr with recs := Tab.put s.mkr.recs r.piece pr, wrote := [] } }
        let s := s.setReg aMkrStepDigest s.stepDigest
        let n := if s.tierPresent 2 then s.recSlots else 0
        let s : State := { s with rcl := { s.rcl with repair := some { r with phase := 2, writes := n } } }
        let s := (List.range n).foldl (fun s i =>
          s.writeState (s.stateSlot (32768 * i) r.epoch) 0x3FFFF i 0 64 128 true (.marker 0x3FFFF 6 i) (s.recordSlot i)) s
        if n = 0 then s.repairEnd r else s
    else s.repairEnd r

/-- A write of the Marker has ended with its header: the repair's, else the sweep's. -/
def State.markerWritten (s : State) (part : Nat) : State :=
  match s.rcl.repair with
  | none => s.markerWrote part
  | some r => { s with rcl := { s.rcl with repair := some { r with writes := r.writes - 1 } } }.repairGo

/-- A tile asked for by the repair has come from the source. -/
def State.repairGot (s : State) (k : Nat) (pay : Bytes) : State :=
  match s.rcl.repair with
  | none => s
  | some r =>
    let r := { r with need := r.need.filter (· != k), got := Tab.put r.got k pay }
    { s with rcl := { s.rcl with repair := some r } }.repairGo

/-- A state tile read for the search or the repair. -/
def State.divTile (s : State) (piece part tile : Nat) (pay : Bytes) : State :=
  let s := match s.rcl.repair with
    | some r =>
      if r.phase = 1 ∧ r.writes = 0 ∧ piece = r.piece ∧ r.todo.head? = some (tkey part tile) then
        s.repairWrite r (tkey part tile) pay
      else s
    | none => s
  let d := s.rcl.div
  if d.stage = 2 ∧ part = 0 ∧ piece = d.piece ∧ d.need.contains tile then
    let need := d.need.filter (· != tile)
    let s : State := { s with
      mkr := { s.mkr with tdig := Tab.put s.mkr.tdig (piece * 65536 + tile) (crc64 pay) }
      rcl := { s.rcl with div := { d with need := need } } }
    if need.isEmpty then s.divRound else s
  else s

/-! ## The search -/

/-- The tile stage of piece `p` begins: the tile digests are computed. -/
def State.divTiles (s : State) (p : Nat) : State :=
  let n := s.pcNw p
  let d := { s.rcl.div with stage := 2, piece := p, lo := 0, hi := n, need := List.range n }
  let s : State := { s with rcl := { s.rcl with div := d }, mkr := { s.mkr with tdig := [] } }
  (List.range n).foldl (fun s t => s.fetchTile (s.stateRd p 0 t (.marker p 0 t))) s

/-- The search starts (R322). With one piece the piece stage is over at once. -/
def State.divStart (s : State) : State :=
  let d : DivSt := { stage := 1, lo := 0, hi := s.mkPieces, piece := 0, tile := 0, dmin := 0, dmax := 0, rounds := 0, need := [] }
  let s : State := { s with rcl := { s.rcl with div := d }, tut := { s.tut with closing := .searching } }
  if s.mkPieces = 0 then s.divUnresolved
  else if s.mkPieces = 1 then s.divTiles 0 else s.divRound

/-- A roll call of the search has its result. -/
def State.divResult (s : State) (ws : List Word) : State :=
  let d := s.rcl.div
  if d.stage = 3 then
    -- every form of every member contributes to the counts
    let m := (s.collMembers 0xFFF).length * s.forms
    let n (i : Nat) : Nat := (ws.getD i 0).toNat
    if m < 2 * n 0 then s.divLocated d.dmin (n 2 % 65536)
    else if m < 2 * n 1 then s.divLocated d.dmax (n 3 % 65536)
    else s.divUnresolved
  else
    match (List.range 4).find? fun i => ws.getD (2 * i) 0 != ws.getD (2 * i + 1) 0 with
    | none => s.divUnresolved
    | some i =>
      let p := (divParts d.lo d.hi).getD i (0, 0)
      let d := { d with lo := p.1, hi := p.2, dmin := ws.getD (2 * i) 0, dmax := ws.getD (2 * i + 1) 0 }
      let s : State := { s with rcl := { s.rcl with div := d } }
      if 1 < p.2 - p.1 then s.divRound
      else if d.stage = 1 then s.divTiles p.1
      else
        let s : State := { s with rcl := { s.rcl with div := { d with tile := p.1 } } }
        if (s.collMembers 0xFFF).length < 3 then s.divUnresolved
        else
          let mine := s.ownTileDigest
          let c := word s.ownCoord
          let ones : Word := word (2 ^ 64 - 1)
          let s : State := { s with rcl := { s.rcl with div := { s.rcl.div with stage := 3, rounds := d.rounds + 1 } } }
          -- the part digest is that of the tile stage
          s.replicaRoll 4 0x3311
            [word (b2n (mine == d.dmin)), word (b2n (mine == d.dmax)), if mine = d.dmin then c else ones, if mine = d.dmax then c else ones]

end Sys2Proof.Machine
end

