-- ==== Sys2Proof/Machine/Closing.lean ====
section
/-! DEFINITION. The closing sequence of a step (R25, R28, R333) and the installation of a pending partial image (R60). -/

namespace Sys2Proof.Machine

def State.modTut (s : State) (f : Tutor → Tutor) : State := { s with tut := f s.tut }
def State.setClosing (s : State) (c : Closing) : State := s.modTut fun t => { t with closing := c }

/-! ## The closing sequence -/

/-- Report-card threshold flags raised at the form in the step (R28, R191): 1 when a card raised one. -/
def State.closeFlags (s : State) : Word :=
  word (b2n (s.mkr.cards.any fun c => c.2.flags % 8 != 0))

/-- The result of the own roll call with this SOURCE, when it has come. -/
def State.takeReady (s : State) (src : Nat) : Option (List Word × State) :=
  match s.rcl.ready.find? fun r => r.1 == src with
  | none => none
  | some r => some (r.2, { s with rcl := { s.rcl with ready := s.rcl.ready.filter fun x => x.1 != src } })

/-- Number by which assemblies know the internal queue of the closing sequence: after the queues of the set. -/
def closeQueue : Nat := 8192

/-- The arrival at the closing assembly as participant 0, with the sense of the current round (R333). -/
def State.closeArrive (s : State) : State :=
  let a := s.closeAsm
  (s.setClosing .arrive).arriveAll [(a, 0, (s.asm a).parity, closeQueue)]

/-- One step of the closing sequence, when what it waits for has come. -/
def State.closingStep (s : State) : State :=
  match s.tut.closing with
  | .gate =>
    if s.stepRuns.all (fun r => r.chk.isNone && r.place.isSome) && !s.ownWaits 0xFFE 1 0x12A then
      let ws := s.gateSlots
      (s.gateBegins.setClosing .gating).ownRollCall 0xFFE 1 0x12A ws
    else s
  | .gating =>
    match s.takeReady 1 with
    | none => s
    | some (ws, s) => (s.gateCompletes (ws.getD 0 0 != 0)).setClosing .clip
  | .digest =>
    let d := s.reg aMkrStepDigest
    if s.ownWaits 0xFFF 2 0x63 then s else (s.setClosing .digesting).replicaRoll 2 0x63 [d, d]
  | .digesting =>
    match s.takeReady 2 with
    | none => s
    | some (ws, s) =>
      if ws.getD 0 0 = ws.getD 1 0 then s.setClosing .close
      else
        let s := s.logEv evDiverge (rclErr 0xFFF 0)
        if s.clDivAuto = 1 then s.divStart else s.setClosing .close
  | .searching =>
    match s.takeReady 4 with
    | none => s
    | some (ws, s) => s.divResult ws
  | .close => if s.ownWaits 0xFFE 3 0xA then s else (s.setClosing .closeWait).ownRollCall 0xFFE 3 0xA [s.closeFlags]
  | .closeWait =>
    match s.takeReady 3 with
    | none => s
    | some (_, s) => s.closeArrive
  | _ => s

def closingLoop : Nat → State → State
  | 0, s => s
  | n + 1, s => closingLoop n s.closingStep

/-- A frame that waited for a combining state is taken up once one is free; it leaves the receive buffer then (R314). -/
def State.retryColl (s : State) (w : Nat × Bytes × Bytes) : State :=
  let h := WHdr.read w.2.1
  let c := CHdr.read w.2.2
  let k : CKey := (c.root, c.rform, h.ep - 0xF000, c.seq)
  if s.noState h c k then { s with rcl := { s.rcl with wait := s.rcl.wait ++ [w] } }
  else
    let s := s.consumed w.1 h
    if h.typ = tRcExch then s.rcExch h c k w.2.2
    else if h.typ = tRcUp then s.rcUp h c k w.2.2
    else if h.typ = tRedUp then s.redUp h c k w.2.2
    else s.redDown h c k w.2.2

def State.retryColls (s : State) : State :=
  s.rcl.wait.foldl State.retryColl { s with rcl := { s.rcl with wait := [] } }

/-- What a command has made possible for the sequencer happens: frames that waited for a combining state, an abort that it
caused, then the closing sequence. -/
def State.settle (s : State) : State := closingLoop 12 s.retryColls.abortDue

/-! ## R60 -/

/-- The sections of the merged image (R35, R51): those that the partial brings, and the kept ones for the forms for which the
partial does not replace them. -/
def mergeAll (old new : List (Nat × Nat × Bytes)) : List (Nat × Nat × Bytes) :=
  let left (e : Nat × Nat × Bytes) : Nat :=
    new.foldl (fun m n => if n.1 = e.1 then m - Nat.land m n.2.1 else m) e.2.1
  (old.filterMap fun e => if left e = 0 then none else some (e.1, left e, e.2.2)) ++ new

/-- Bytes of an image with these sections. -/
def imageBytes (d : List (Nat × Nat × Bytes)) : Nat :=
  64 + roundUp (16 * (d.length + 1)) 64 + (d.map fun e => e.2.2.length).sum + 256

/-- The history descriptors and their number. -/
def State.histTable (s : State) : Bytes := slice (s.sect tyNumerics) (s.sf tyNumerics 0x48 4) (16 * s.nmHists)

/-- Base of the syllabus store in force (R51). -/
def State.store (s : State) : Nat := if s.syl.isSome then s.t1Store else 0

/-- Own HELLO sent on every port that is UP, when the weights have changed (R280). -/
def State.helloUps (s : State) : State :=
  (s.fab.links.map Prod.fst).foldl (fun s p =>
    if s.isUp p then s.sendPlain p tHello (List.replicate 6 0) (s.helloPay p true) else s) s

/-- The masks that the SYNC section gives the timetable's assemblies; the defaults of an omitted section give assembly 0 its mask
whatever OBJECTS allots (R249, R267). -/
def State.setMasks (s : State) : State :=
  let give (t : Tab Asm) (a : Nat) : Tab Asm := Tab.modify t a fun x => { x with mask := s.syncMask a }
  { s with asms := (List.range (if s.hasSect tySync then s.objAsms else max 1 s.objAsms)).foldl give s.asms }

/-- A pending partial image whose APPLY_STEP is `step` is installed (R60), with what its sections change at once: MKR_LR
(R193), histories (R165), the Philox outputs (R143), a HELLO with new weights (R280). -/
def State.installPartial (s : State) (step : Nat) : State :=
  match s.load.pend, s.syl with
  | some p, some f =>
    if p.applyStep ≠ step then s else
    let all := mergeAll f.all p.all
    let f' : Image := { f with sect := p.sect.foldl (fun t e => Tab.put t e.1 e.2) f.sect, all := all, len := imageBytes all }
    let t : State := { s with
      syl := some f', load := { s.load with pend := none, lastPartial := p.digest } }
    let t := t.setF aSylSerial 0 32 p.serial
    let brings (ty : Nat) : Bool := !(Tab.get p.sect ty).isEmpty
    let t := if brings tyMarker then t.setReg aMkrLr (word (t.mkField 0x30 4)) else t
    let t := if brings tyNumerics ∧ t.histTable ≠ s.histTable then t.emptyHists else t
    let t : State := if brings tyNumerics then { t with bnc := { t.bnc with philoxDue := true } } else t
    -- a slot that now holds as many arrivals as its mask has bits completes (R247)
    let t := if brings tySync then (List.range t.objAsms).foldl State.testAsm t.setMasks else t
    let t := if brings tyFabric ∧ (List.range 4).any (fun v => t.vcWeight v != s.vcWeight v) then t.helloUps else t
    (t.emit (.store true t.store f'.len)).logPlain evSylPartialApplied
  | _, _ => s

/-! ## The actions of R250 -/

/-- The histories copied to their shadow (R363). -/
def State.shadowHists (s : State) : State :=
  let n := s.nmHists * 128
  { s with err := { s.err with histShadow := Tab.putBytes [] 0 (s.t0Read s.t0Scratch n), seqRecord := s.rcl.seqs } }

/-- CONSUMED lockers become FREE; no locker counts as opened in the step that begins. -/
def State.freeConsumed (s : State) : State :=
  let s := ((s.lkrs.filter fun x => x.2.e.st == lkConsumed).map Prod.fst).foldl State.freeLkr s
  { s with lkrs := Tab.mapAll (fun _ x => { x with opened := false }) s.lkrs }

/-- Participant 0 leaves the round that its arrival has completed, so that the slot can drain (log 46). -/
def State.closeRelease (s : State) : State :=
  let a := s.closeAsm
  let sn := 1 - (s.asm a).parity
  if s.asmReady a 0 sn then s.release a 0 sn else s

/-- What the block does at a completed round of the closing assembly, in the order of R250, with what R176, R362 and
R363 keep for the next step. -/
def State.boundaryActs (s : State) : State :=
  let closed := s.stepCtr.toNat
  let s : State := { s with stepCtr := s.stepCtr + 1, mkr := { s.mkr with gateStarted := false } }
  let s := s.rebase
  let s := s.installPartial closed
  let s := s.freeConsumed
  s.shadowHists

end Sys2Proof.Machine
end

