-- ==== Sys2Proof/Machine/Timetable.lean ====
section
/-! DEFINITION. The tutor's sequencer (R326 to R346): periods and entries, the step loop, the items between steps, the change of
term; the commands PERIOD_START, ENTRY_COPY, CLOSING_SEQUENCE_START, SWEEP_START, SWEEP_END, CLOSING_ASSEMBLY_ACT, TTB_RUN,
TTB_HALT, TTB_NEXT_WRITE, TERM_CHANGE. -/

namespace Sys2Proof.Machine

/-! ## Periods and entries (R327 to R330, R336) -/

def EntRun.fresh (kind run entry period : Nat) : EntRun :=
  { kind := kind, run := run, entry := entry, period := period, copied := 0, doneCount := 0, ended := false
    deemed := [], signalled := [], finished := [] }

/-- The section that an entry's commands come from: the one in force, the one with which the checkpoint started, or that of the
recompute entries. -/
def State.runSect (s : State) (kind : Nat) : Bytes :=
  if kind = 1 then s.tut.ckptSect else if kind = 2 then s.recSect else s.ttSect

/-- A field of the entry's record. -/
def State.entField (s : State) (r : EntRun) (off n : Nat) : Nat := ttEnt (s.runSect r.kind) r.entry off n
def State.entLen (s : State) (r : EntRun) : Nat := s.entField r 8 4
def State.entQue (s : State) (r : EntRun) : Nat := s.entField r 0 2

/-- Period `p` starts: its entries join those being copied, the planner issues the prefetch RECALLs (R112, R328). -/
def State.startPeriod (s : State) (p : Nat) : State :=
  let new := (perEntries s.ttSect p).map fun e => EntRun.fresh 0 0 e p
  let s := s.modTut fun t => { t with started := p, runs := t.runs ++ new }
  s.prefetchAt p

/-- Every command of period `p` has been copied. -/
def State.perCopied (s : State) (p : Nat) : Bool :=
  s.tut.runs.all fun r => !(r.kind == 0 && r.period == p) || decide (s.entLen r ≤ r.copied) || r.ended

/-- Period `p` has drained (R330). -/
def State.perDrained (s : State) (p : Nat) : Bool :=
  decide (p ≤ s.tut.started) && s.tut.runs.all fun r => !(r.kind == 0 && r.period == p) || r.ended

/-- TTB_PERIOD.DRAINED follows. -/
def drainLoop : Nat → State → State
  | 0, s => s
  | n + 1, s =>
    if s.perDrained (s.tut.drained + 1) then drainLoop n (s.modTut fun t => { t with drained := t.drained + 1 }) else s

def State.drainPeriods (s : State) : State := drainLoop (s.tut.started - s.tut.drained) s

/-- Order in which a queue receives entries: checkpoint entries as they come; then by period and entry; a recompute entry
after the commands of its period and ahead of those of later periods (R329, R336). -/
def EntRun.order (r : EntRun) : Nat :=
  if r.kind = 1 then 0 else 65536 * (1 + 2 * r.period + b2n (r.kind == 2)) + (if r.kind = 2 then 0 else r.entry)

/-- The first of the least elements. -/
def leastRun : List EntRun → Option EntRun
  | [] => none
  | r :: rest =>
    match leastRun rest with
    | none => some r
    | some x => if r.order ≤ x.order then some r else some x

/-- The entry whose commands queue `q` receives next. -/
def State.nextEntry (s : State) (q : Nat) : Option EntRun :=
  leastRun (s.tut.runs.filter fun r => s.entQue r == q && decide (r.copied < s.entLen r) && !r.ended)

/-- Type of the section that an entry's commands come from. -/
def State.runType (s : State) (kind : Nat) : Nat :=
  if kind = 1 then tyCheckpoint else if kind = 2 ∧ s.tut.term = 3 then termSect s.tut.mainTerm else termSect s.tut.term

/-- Offset of command `i` of an entry in that section. -/
def State.entOff (s : State) (r : EntRun) (i : Nat) : Nat := leAt (s.runSect r.kind) 0x14 4 + 64 * (s.entField r 4 4 + i)

/-- Command `i` of an entry as it is copied: a bench or row-unit command of a recompute entry takes UNIT, MB, LAYER and
TENSOR from the record (R336); its STEP travels with the record. Its READs consume nothing (R139). -/
def State.entCmd (s : State) (r : EntRun) (i : Nat) : Cmd :=
  let c := cmdOfBytes (slice (s.runSect r.kind) (s.entOff r i) 64)
  let c := if r.kind = 2 ∧ cOp c = 0x13 then cmdNoConsume c else c
  if r.kind ≠ 2 ∨ cOp c < 0x20 ∨ 0x22 < cOp c then c
  else
    let x := (s.lkr r.run).rr
    let c := cmdSet c 0x1C 1 (x.unit % 8)
    let c := cmdSet c 0x32 2 x.mb
    let c := cmdSet c 0x34 2 x.layer
    cmdSet c 0x36 1 x.tensor

/-- Commands of one entry copied while the ring has room. -/
def copyLoop : Nat → State → EntRun → Nat → State
  | 0, s, _, _ => s
  | n + 1, s, r, q =>
    if s.queFull q then s
    else
      let s := (s.emit (.fetch (s.runType r.kind) (s.entOff r r.copied) 64)).append q (s.entCmd r r.copied)
        (some ⟨r.kind, r.run, r.entry, r.copied⟩)
      let up (x : EntRun) : EntRun :=
        if x.kind = r.kind ∧ x.run = r.run ∧ x.entry = r.entry then { x with copied := x.copied + 1 } else x
      copyLoop n (s.modTut fun t => { t with runs := t.runs.map up }) { r with copied := r.copied + 1 } q

/-- ENTRY_COPY: nothing when another entry comes first at the queue (R329). -/
def State.entryCopy (s : State) (kind run entry : Nat) : State :=
  match s.tut.runs.find? fun r => r.kind == kind && r.run == run && r.entry == entry with
  | none => s
  | some r =>
    let q := s.entQue r
    match s.nextEntry q with
    | none => s
    | some x =>
      if x.kind = kind ∧ x.run = run ∧ x.entry = entry then copyLoop (s.entLen r - r.copied) s r q else s

/-! ## Steps -/

/-- A step, or an exam, starts from its period 1 in the term in force; the planner's clock starts (R99, R328). -/
def State.startStep (s : State) (exam : Bool) : State :=
  let s := s.modTut fun t => { t with
    st := 1, phase := if exam then 3 else 1, started := 0, drained := 0
    -- a recompute entry that is not wholly copied comes ahead of the commands of the step (R336)
    runs := (t.runs.filter fun r => r.kind != 0).map fun r => if r.kind = 2 then { r with period := 0 } else r
    -- a checkpoint due after the step that has closed is due after its exam too (R334)
    closing := .idle, gateApplied := exam && t.gateApplied }
  let s : State := { s with
    err := { s.err with rootTook := false }, mkr := { s.mkr with spillLogged := false }
    pln := { s.pln with clock := some 0 } }
  (s.startPeriod 1).drainPeriods

/-! ## Checkpoints (R342, R343) -/

/-- The CHECKPOINT section in force asks for a checkpoint after the step that has just closed, with this OVERLAP. -/
def State.ckptDue (s : State) (overlap : Nat) : Bool :=
  let b := s.sect tyCheckpoint
  !b.isEmpty && s.tut.gateApplied && !s.tut.ckpt && ckOverlap b == overlap && ckEvery b != 0
    && s.regF aMkrApplied 0 32 % ckEvery b == 0

/-- A checkpoint starts: all of its entries are to be copied at once. -/
def State.startCkpt (s : State) : State :=
  let b := s.sect tyCheckpoint
  let new := (List.range (ckEntries b)).map fun e => EntRun.fresh 1 0 e 0
  let s := s.modTut fun t => { t with
    ckpt := true, ckptSect := b, ckptApplied := s.regF aMkrApplied 0 32, runs := t.runs ++ new }
  { s with ckp := some { index := [], base := none, key := 0, writes := 0, phase := 0 } }

/-! ## Changes of term (R339, R340) -/

/-- PLN_STATUS.TERM for the section type that TTB_NEXT or NEXT names. -/
def termOf (ty : Nat) : Nat := if ty = tyLearn then 1 else if ty = tyGenerate then 2 else 0

/-- TTB_NEXT: a request is pending; the step and the section type it names. -/
def State.reqPending (s : State) : Bool := bitAt (s.reg aTtbNext) 8
def State.reqStep (s : State) : Nat := s.regF aTtbNext 32 32
def State.reqTerm (s : State) : Nat := s.regF aTtbNext 0 8

/-- The pending request names the step that has just closed. -/
def State.reqDue (s : State) : Bool := s.reqPending && s.reqStep == (s.stepCtr - 1).toNat

/-- The section type that the closing assembly just completed changes to; a request takes precedence (R339). -/
def State.changeDue (s : State) : Option Nat :=
  let b := s.ttSect
  if s.reqDue then some s.reqTerm
  else if ttSteps b ≠ 0 ∧ ttNext b ≠ 0 ∧ ttSteps b ≤ s.tut.termSteps then some (ttNext b)
  else none

/-- A change to the term of section `ty` begins; a section that is absent logs TTB_NO_TERM (R339). The flag says that the
change is under way. -/
def State.beginChange (s : State) (ty : Nat) : Bool × State :=
  if termOf ty = 0 ∨ !s.hasSect ty then (false, s.logEv evNoTerm 0)
  else (true, s.modTut fun t => { t with phase := 5, toTerm := termOf ty })

/-! ## Between steps (R334) -/

/-- The timetable queues hold nothing. -/
def State.ttEmpty (s : State) : Bool :=
  s.ques.all (fun q => !s.isTtQueue q.1 || (s.queEmpty q.1 && q.2.aside.isNone)) && s.flights.all fun f => !s.isTtQueue f.queue

/-- HALTED once every timetable queue is empty (R331). No step is current then, and NOW reads 0 (DESIGN CHOICE, log 84): R99 counts
it from period 1 of the current step. -/
def State.haltDone (s : State) : State :=
  if s.tut.st = 2 ∧ s.ttEmpty then { s with tut := { s.tut with st := 0 }, pln := { s.pln with clock := none } } else s

/-- The items of Table: Between steps that remain, in order, then the next step. -/
def betweenGo : Nat → State → State
  | 0, s => s
  | n + 1, s =>
    match s.tut.between with
    | [] => s.startStep false
    | 1 :: rest =>
      let s := s.modTut fun t => { t with between := rest }
      let every := ttExamEvery s.ttSect
      if s.tut.term = 1 ∧ every ≠ 0 ∧ s.stepCtr.toNat % every = 0 ∧ s.hasSect tyExam then
        (s.modTut fun t => { t with term := 3, mainTerm := t.term, between := rest }).startStep true
      else betweenGo n s
    | 2 :: rest =>
      let s := s.modTut fun t => { t with between := rest }
      if s.ckptDue 0 then s.startCkpt.modTut fun t => { t with phase := 4 } else betweenGo n s
    | 3 :: rest =>
      let s := s.modTut fun t => { t with between := rest }
      match s.changeDue with
      | none => betweenGo n s
      | some ty =>
        let s := if s.reqDue then s.setF aTtbNext 8 1 0 else s
        let (go, s) := s.beginChange ty
        if go then s else betweenGo n s
    | _ :: _ =>
      if s.tut.haltPending then
        (s.modTut fun t => { t with st := 2, phase := 0, haltPending := false, between := [] }).haltDone
      else s.startStep false

/-- The items go on, unless an abort has ended the step loop. -/
def State.goOn (s : State) : State := if s.tut.st = 0 then s else betweenGo 6 s

/-- An exam ends when its last period has drained: its lockers are released, the term runs again (R338). -/
def State.examEnd (s : State) : State :=
  let ls := (s.lkrs.filter fun x => x.2.byExam && x.2.e.st != lkFree && !x.2.rel).map Prod.fst
  let s := ls.foldl State.releaseLkr s
  let s := s.incF aTtbCount 16 16 1
  (s.modTut fun t => { t with
    term := t.mainTerm, phase := 0, started := 0, drained := 0, runs := t.runs.filter fun r => r.kind != 0 }).goOn

/-- What follows when entries have ended: periods drain, an exam ends, a halt completes. -/
def State.entriesEnded (s : State) : State :=
  let s := s.drainPeriods
  let s := if s.tut.phase = 3 ∧ s.tut.drained = ttPeriods s.ttSect ∧ s.tut.st ≠ 0 then s.examEnd else s
  s.haltDone

/-- PERIOD_START (R328). -/
def State.periodStart (s : State) : State :=
  let p := s.tut.started + 1
  let b := s.ttSect
  let bell := ttPer b p 6 2
  if (s.tut.phase ≠ 1 ∧ s.tut.phase ≠ 3) ∨ s.tut.st = 0 ∨ s.tut.started = 0 ∨ ttPeriods b < p ∨ !s.perCopied s.tut.started then s
  else if bell ≠ 0xFFFF ∧ s.bell bell < ttPer b p 8 4 then s
  else (s.startPeriod p).entriesEnded

/-! ## CLOSING_SEQUENCE_START, SWEEP_START, SWEEP_END, CLOSING_ASSEMBLY_ACT -/

/-- The closing sequence of the term starts (R333); one that has started goes on as far as it can. -/
def State.closingStart (s : State) : State :=
  if s.tut.phase = 1 ∧ s.tut.st = 1 ∧ s.tut.drained = ttPeriods s.ttSect ∧ s.tut.drained ≠ 0 then
    let s := s.modTut fun t => { t with phase := 2, started := 0, drained := 0 }
    if s.tut.term = 1 then s.setClosing .gate else s.closeArrive
  else s

/-- The actions of R250, then what follows a step that the closing sequence has closed. -/
def State.boundaryAct (s : State) : State :=
  if !s.tut.boundary then s else
  let s := s.modTut fun t => { t with boundary := decide (t.extra ≠ 0), extra := t.extra - 1 }
  let mine := s.tut.phase == 2 && s.tut.closing == .arrive && s.tut.st != 0
  let s := if mine then s.closeRelease else s
  let s := s.boundaryActs
  if !mine then s
  else
    let s := s.modTut fun t => { t with
      phase := 0, closing := .idle, termSteps := min 0xFFFF (t.termSteps + 1), between := [1, 2, 3, 4]
      runs := t.runs.filter fun r => r.kind != 0 }
    let s := s.applyHeld
    if s.tut.st = 0 then s
    else
      let s := if s.ckptDue 1 then s.startCkpt else s
      s.goOn.entriesEnded

def execPeriodStart (s : State) : Res := .next s.periodStart.wake.settle
def execEntryCopy (kind : BitVec 2) (run : BitVec 18) (entry : BitVec 16) (s : State) : Res :=
  .next (s.entryCopy kind.toNat run.toNat entry.toNat)
def execClosingSequenceStart (s : State) : Res := .next s.closingStart.settle
def execSweepStart (s : State) : Res := .next s.sweepStart.settle
def execSweepEnd (s : State) : Res := .next s.sweepEnd.settle
def execClosingAssemblyAct (s : State) : Res := .next (if s.tut.boundary then s.boundaryAct.settle.changeStep else s)

/-! ## TERM_CHANGE (R340) -/

/-- Step 1: nothing of the timetable runs. -/
def State.drainedAll (s : State) : Bool :=
  s.ttEmpty && s.stms.all (fun c => decide (s.objStreams ≤ c.1) || c.2.st != 1)
    && s.crs.all (fun k => decide (s.objCouriers ≤ k.1) || k.2.st != 1) && !s.tut.ckpt

/-- Slots of a tier that a limit stands for (R341). -/
def State.limSlotsOf (s : State) (tier lim : Nat) : Nat := if lim = 0 then s.tierSlots tier else lim

/-- Step 2 for one locker: kept only when it is a carry locker of the outgoing term whose run lies in the incoming carry
area. -/
def State.changeLkr (s : State) (b : Bytes) (l : Nat) : State :=
  if !s.isCarry l then s.releaseLkr l
  else match (s.lkr l).slotA with
    | some (t, f) =>
      let lim := s.limSlotsOf t (if t = 0 then ttLimT0 b else ttLimT1 b)
      if t < 2 ∧ f < lim then (s.logEv evCarryLost (at_ 12 l)).releaseLkr l else s
    | none => s

/-- Steps 4 and 5: limits, TERM, counters. -/
def State.installTerm (s : State) (t : Nat) : State :=
  let b := s.sect (termSect t)
  s.modTut fun x => { x with
    term := t, termSteps := 0, limT0 := ttLimT0 b, limT1 := ttLimT1 b, carryBase := ttCarryBase b, carryCount := ttCarryCount b }

/-- Homework staged for a learning step that will not come is discarded (R345). -/
def State.dropHomework (s : State) (t : Nat) : State :=
  if s.tut.term = 1 ∧ t ≠ 1 ∧ !s.mkr.runs.isEmpty then
    ((s.mkr.runs.map StageRun.id).foldl State.freeRun s).logEv evHwDropped 0
  else s

/-- The change of term, once the timetable has drained. -/
def State.termChange (s : State) : State :=
  if s.tut.phase ≠ 5 ∨ !s.drainedAll then s else
  let t := s.tut.toTerm
  let b := s.sect (termSect t)
  let ls := (s.lkrs.filter fun x => x.2.e.st != lkFree).map Prod.fst
  let s := ls.foldl (fun s l => s.changeLkr b l) s
  let s := s.dropHomework t
  let s := s.resetSync
  let s := s.installTerm t
  let s := (s.logEv evTermChanged 0).incF aTtbCount 32 32 1
  let s := s.modTut fun x => { x with phase := 0 }
  s.applyHeld.goOn.entriesEnded

def execTermChange (s : State) : Res := .next s.termChange.settle

/-! ## TTB_CTRL and TTB_NEXT (R331, R339) -/

def State.ttbRefused (s : State) : State := s.logEv evTtbRefused 0

/-- The term in force, or the first of LEARN and GENERATE that exists; 0 when neither does (R339). -/
def State.ownTerm (s : State) : Nat :=
  if s.tut.term ≠ 0 then s.tut.term else if s.hasSect tyLearn then 1 else if s.hasSect tyGenerate then 2 else 0

/-- A pending request names a section that exists. -/
def State.reqGood (s : State) : Bool := s.reqPending && termOf s.reqTerm != 0 && s.hasSect s.reqTerm

/-- The term that a RUN starts. -/
def State.runTerm (s : State) : Nat := if s.reqGood then termOf s.reqTerm else s.ownTerm

/-- A pending request is consumed; one that names an absent section logs TTB_NO_TERM. -/
def State.takeRequest (s : State) : State :=
  if !s.reqPending then s
  else
    let t := s.setF aTtbNext 8 1 0
    if s.reqGood then t else t.logEv evNoTerm 0

/-- A step starts in term `t`; when another term is in force, a change of term comes first (log 47). -/
def State.runIn (s : State) (t : Nat) : State :=
  if s.tut.term = 0 then (s.installTerm t).startStep false
  else if t = s.tut.term then s.startStep false
  else s.modTut fun x => { x with st := 1, phase := 5, toTerm := t, between := [] }

/-- RUN is allowed: HALTED, every form at L1 or above, no full load or restore in progress (R331, R351, R387). -/
def State.runAllowed (s : State) : Bool :=
  s.tut.st == 0 && s.serviceLevel != 0 && !s.err.peerLow && (s.load.phase == 0 || s.load.kind != 1) && s.rst.isNone

/-- RUN (R331). With neither LEARN nor GENERATE there is no term to run: refused (log 47). -/
def State.ttbRun (s : State) : State :=
  if !s.runAllowed then s.ttbRefused
  else if s.runTerm = 0 then s.takeRequest.ttbRefused
  else s.takeRequest.runIn s.runTerm

/-- HALT: only while RUNNING; it waits for the closing assembly (R331). -/
def State.ttbHalt (s : State) : State :=
  if s.tut.st ≠ 1 then s.ttbRefused else s.modTut fun t => { t with haltPending := true }

/-- A write of TTB_NEXT. TERM 0 names no term and cancels (log 47). -/
def State.ttbNext (s : State) (v : Word) : State :=
  if 2 ^ 31 ≤ (fld v 32 32 + 2 ^ 32 - s.stepCtr.toNat) % 2 ^ 32 then s.ttbRefused
  else s.setReg aTtbNext (word (at_ 32 (fld v 32 32) + at_ 8 (b2n (fld v 0 8 != 0)) + fld v 0 8))

def execTtbRun (s : State) : Res := .next (s.hostWrites s.ttbRun.wake.settle)
def execTtbHalt (s : State) : Res :=
  .next (s.hostWrites (s.ttbHalt.wake))
def execTtbNextWrite (v : Word) (s : State) : Res :=
  .next (s.hostWrites ((s.ttbNext v).wake))

end Sys2Proof.Machine
end

