-- ==== Sys2Proof/Machine/Seal.lean ====
section
/-! DEFINITION. Sealed checkpoint images (R385, R386): the checkpoint order, the checkpoint key, records under AES-256-GCM; and
the working copy of masters (R185) as a recovery forms it. -/

namespace Sys2Proof.Machine

/-! ## The checkpoint order (R385) -/

/-- Tiles of the areas of piece `p`. -/
def State.pieceCount (s : State) (p : Nat) : Nat := ((List.range 6).map (s.partTiles p)).sum

/-- RECORDS: the record slots, then every tile of every piece. -/
def State.ckptRecords (s : State) : Nat := s.recSlots + ((List.range s.mkPieces).map s.pieceCount).sum

/-- The record number of a state tile. -/
def State.recordOf (s : State) (p part tile : Nat) : Nat :=
  s.recSlots + ((List.range p).map s.pieceCount).sum + ((List.range part).map (s.partTiles p)).sum + tile

/-- Part and tile of tile number `n` of piece `p`, counting through its parts. -/
def State.partAt (s : State) (p : Nat) : List Nat → Nat → Nat × Nat
  | [], n => (5, n)
  | part :: r, n => if n < s.partTiles p part then (part, n) else State.partAt s p r (n - s.partTiles p part)

/-- The tile of record number `n`, counting from the first record of the pieces `ps`. -/
def State.tileAt (s : State) : List Nat → Nat → RTile
  | [], n => .record n
  | p :: r, n =>
    if n < s.pieceCount p then
      let t := s.partAt p [0, 1, 2, 3, 4, 5] n
      .state_ p t.1 t.2
    else State.tileAt s r (n - s.pieceCount p)

/-- The tile of record `r` of the checkpoint order. -/
def State.recordTile (s : State) (r : Nat) : RTile :=
  if r < s.recSlots then .record r else s.tileAt (List.range s.mkPieces) (r - s.recSlots)

/-- How the tile of record `r` is read. -/
def State.recordTileRd (s : State) (r : Nat) (use : TileUse) : TileRd :=
  match s.recordTile r with
  | .state_ p part tile => s.stateRd p part tile use
  | _ => s.recordRd r use

/-- Size of a record, and the offset of record `r` in the image. -/
abbrev recordSize : Nat := 32896
def recordOff (r : Nat) : Nat := 256 + r * recordSize

/-! ## Keys and records (R386, R447) -/

/-- The checkpoint key for an APPLIED, under the domain key installed. -/
def State.ckptKey (s : State) (applied : Nat) : Option Nat :=
  s.sec.domain.map fun d =>
    leNat (kdf108 (leBytes 32 d.1.toNat) (ascii "ZRL checkpoint")
      (leBytes 16 d.2.toNat ++ leBytes 2 s.ownCoord ++ leBytes 1 s.part.form ++ leBytes 4 applied) 256)

/-- Header bytes with EPOCH and MAC zero (log 49). -/
def Hdr.plainBytes (h : Hdr) : Bytes := { h with epoch := 0, mac := 0 }.bytes

/-- Record `r`: header, payload as it lies in T2, tag, zeros. -/
def recordBytes (key r : Nat) (hdr pay : Bytes) : Bytes :=
  let h := (Hdr.read hdr).plainBytes
  slice (h ++ gcmSeal key r h pay) 0 recordSize

/-- The header and payload of a record whose tag holds. -/
def openRecord (key r : Nat) (b : Bytes) : Option (Bytes × Bytes) :=
  let h := slice b 0 64
  let n := storedLen (Hdr.read h)
  (gcmOpen key r h (slice b 64 n) (slice b (64 + n) 16)).map fun p => (h, p)

/-- An index entry (Table in chapter 15): PIECE, PART, LENGTH, TILE. -/
def State.indexEntry (s : State) (r len : Nat) : Bytes :=
  let t := match s.recordTile r with
    | .state_ p part tile => (p, part, tile)
    | .record k => (0xFFFFFFFF, 0, k)
    | _ => (0, 0, 0)
  leBytes 4 t.1 ++ leBytes 1 t.2.1 ++ leBytes 1 0 ++ leBytes 2 len ++ leBytes 4 t.2.2 ++ leBytes 4 0

/-! ## Exports (R388) -/

/-- Working copies of the exported piece. -/
def State.exportTiles (s : State) (p : Nat) : Nat := if p < s.mkPieces then s.partTiles p 5 else 0

/-- The next working copy of the export is asked for. -/
def State.exportRead (s : State) : State :=
  match s.exp with
  | none => s
  | some x => if x.next < s.exportTiles x.piece then s.fetchTile (s.stateRd x.piece 5 x.next (.export_ x.next)) else s

/-- A working copy that passed its checks goes out as header, with EPOCH and MAC zero, and raw payload; the next one is read. -/
def State.exportHave (s : State) (i : Nat) (g : TileGot) : State :=
  match s.exp with
  | none => s
  | some x =>
    if i ≠ x.next then s
    else
      let b := (Hdr.read g.hdr).plainBytes ++ g.pay
      let s : State := { s with exp := some { x with next := i + 1, writes := x.writes + 1 } }
      let s := s.startJob (.raw 9 i) fun id => s.writeReqs 2 (x.addr + 32832 * i) b .write 4112 id 0
      s.exportRead

/-- A working copy of the export has been read; a failing one is recovered first (R188). -/
def State.exportGot (s : State) (i : Nat) (rd : TileRd) (g : TileGot) : State :=
  if g.ok then s.exportHave i g else s.beginRecovery rd

/-- A write of the export has ended; one that failed has been logged by the port (log 52). -/
def State.exportWrote (s : State) : State :=
  match s.exp with
  | none => s
  | some x => { s with exp := some { x with writes := x.writes - 1 } }

/-! ## Working copies from masters (R185) -/

/-- The number, in block order, of the master tile at grid place (r, c). -/
def State.masterAt (s : State) (p r c : Nat) : Nat :=
  let b := r / 2 * s.pcBc p + c / 2
  s.blockFirst p b + (s.blockTiles p b).idxOf (r, c)

/-- The master tiles that cover working-copy tile `t`. -/
def State.coverOf (s : State) (p t : Nat) : List Nat :=
  let wc := (s.pcCols p + 127) / 128
  let i := t / wc
  let j := t % wc
  ((List.range 2).filter fun h => decide (2 * i + h < s.pcWr p)).map fun h => s.masterAt p (2 * i + h) j

/-- The payload of a working-copy tile from the masters that cover it, upper tile first; rows past the matrix are zero. -/
def State.workFrom (s : State) (p : Nat) (masters : List Bytes) : Bytes :=
  (List.range 16384).flatMap fun n =>
    let w := v32 (leAt (masters.getD (n / 8192) []) (4 * (n % 8192)) 4)
    leBytes 2 (if s.pcFmt p = 1 then bf16.round w else fp16.round w)

end Sys2Proof.Machine
end

