-- ==== Sys2Proof/Machine/Recover.lean ====
section
/-! DEFINITION. Recovery of tiles (R353 to R358), state fetches served for peers (R356), the scrub (R349), the timeouts of staging
and of held OPENs; the commands RECOVERY_SOURCE_DONE, STATE_FETCH, SCRUB_READ, STAGE_TIMEOUT, PLACE_TIMEOUT. -/

namespace Sys2Proof.Machine

/-! ## The list of recoveries -/

def State.recovery (s : State) (id : Nat) : Option Recovery := s.err.recov.find? (·.id == id)
def State.modRecov (s : State) (id : Nat) (f : Recovery → Recovery) : State :=
  { s with err := { s.err with recov := s.err.recov.map fun r => if r.id = id then f r else r } }

/-- A waiting recovery takes the place that has become free (R353). -/
def State.nextRecov (s : State) : State :=
  if 16 ≤ s.recovRunning then s else
  match s.err.recov.find? fun r => r.source == 0 && !r.stopped && !s.lkrRecovering r.rd.tile r.id with
  | none => s
  | some r => (s.modRecov r.id fun r => { r with source := 1 }).refetch { r with source := 1 }

/-- Recovery `id` is over: the next one takes its place. -/
def State.dropRecov (s : State) (id : Nat) : State :=
  let s : State := { s with err := { s.err with recov := s.err.recov.filter (·.id != id) } }
  s.nextRecov

/-! ## Success (R355) -/

/-- The tile handed to one of its waiters. -/
def State.recovTo (s : State) (rd : TileRd) (g : TileGot) (u : TileUse) : State :=
  match u with
  | .stream c i =>
    if (s.stm c).running then s.modEntry c i fun e => { e with stage := 2, sat := satchel g.hdr g.scales g.pay } else s
  | .mover l p => s.storeLocker l p 4112 g
  | .marker piece part tile =>
    let run : Option Nat := match rd.tile with
      | .stage id _ => some id
      | _ => none
    if part = 7 then
      match run with
      | none => s
      | some id =>
        let (lost, s) := s.stagedSeal id rd g
        let s := s.markerHave piece part tile run g
        if lost then s.causeAbort evStateLost 0 else s
    else (s.markerHave piece part tile run g).divTile piece part tile g.pay
  | .export_ i => s.exportHave i g
  | _ => s

/-- A tile of locker `l` is under recovery. -/
def State.lkrUnderRecov (s : State) (l : Nat) : Bool :=
  s.err.recov.any fun r => r.rd.tile.ofLocker l && !r.stopped && !r.writing

/-- A locker none of whose tiles is under recovery leaves DETAINED. -/
def State.undetain (s : State) (l : Nat) : State :=
  if s.lkrUnderRecov l ∨ (s.lkr l).e.st ≠ lkDetained then s
  else
    let s := s.modEnt l fun e => { e with st := e.prior }
    if (s.lkr l).e.st = lkMoving ∧ (s.lkr l).e.done = (s.lkr l).e.len then s.runComplete l else s.impliedDue l

/-- The place of a source's counter in ERR_RECOVERY. -/
def recovField (source : Nat) : Nat := 12 * (source - 1)

/-- LKR_RECOVERED or TILE_RECOVERED, and the counter of the source; for a locker once its last failed tile is there, since one
recovery runs for a locker (R84, R85). -/
def State.recovLog (s : State) (r : Recovery) : State :=
  match r.rd.tile with
  | .locker l p =>
    if s.err.recov.any fun x => x.id != r.id && x.rd.tile.ofLocker l && !x.stopped && !x.writing then s
    else (s.incF aErrRecovery (recovField r.source) 12 1).logEv evLkrRecovered (lkrErr l r.rd.loc.tier p)
  | _ => (s.incF aErrRecovery (recovField r.source) 12 1).logEv evTileRecovered 0

/-- A tile from sources 2 to 4 goes back to its slot, with the slot's epoch, coded by R224. -/
def State.writeBack (s : State) (r : Recovery) (g : TileGot) : State :=
  match r.rd.tile with
  | .state_ p part tile =>
    let c := s.stateCorner p part tile
    let s := s.modRecov r.id fun r => { r with writing := true, waiters := [] }
    s.writeState r.rd.loc p tile (s.partFmt p part) c.1 c.2 (part == 3 || part == 4) (.recov r.id) g.pay
  | .window _ slot =>
    let s := s.modRecov r.id fun r => { r with writing := true, waiters := [] }
    let ((h, pay), s) := s.forSlot r.rd.loc.tier (slot + at_ 18 s.part.form) 0 g
    let w := sealTile s r.rd.loc h pay
    let x := s.writePay (.recov r.id) 4112 .write r.rd.loc w.1 w.2 0 false
    if x.1 then (x.2.writeHead (.recov r.id) 4112 .write r.rd.loc w.1).2 else x.2
  | _ => s

/-- The tile delivered to every waiter; after a refetch the recovery is over at once. A locker leaves DETAINED first. -/
def State.recovered (s : State) (r : Recovery) (g : TileGot) : State :=
  let s := if r.source = 1 then s.recovLog r else s
  let s := if r.source = 1 then s.dropRecov r.id else s.writeBack r g
  -- a T0 window is written at once
  let s := if r.source ≠ 1 ∧ r.rd.loc.tier = 0 then (s.dropRecov r.id).recovLog r else s
  let s := match r.rd.tile with
    | .locker l _ => s.undetain l
    | _ => s
  r.waiters.foldl (fun s u => s.recovTo r.rd g u) s

/-- The write-back's response has returned. -/
def State.writeBackDone (s : State) (id : Nat) (ok : Bool) : State :=
  match s.recovery id with
  | none => s
  | some r =>
    let s := s.dropRecov id
    if ok then s.recovLog r else s

/-! ## Failure (R357) -/

/-- RESTORE_NEEDED set and logged. -/
def State.needRestore (s : State) : State :=
  { s with err := { s.err with restoreNeeded := true } }.logEv evRestoreNeeded 0

/-- Every allowed source has failed. -/
def State.recovLost (s : State) (r : Recovery) : State :=
  let s := s.incF aErrRecovery 48 12 1
  let s := s.causeAbort evStateLost 0
  let s := s.dropRecov r.id
  let out (u : TileUse) : Bool := match u with
    | .export_ _ => true
    | _ => false
  -- an export ends with the tile that it cannot write (log 52)
  let s := if r.waiters.any out then { s with exp := none } else s
  match r.rd.tile with
  | .locker l _ => s.abortLkr l
  | .state_ _ _ _ | .record _ => s.needRestore
  | _ => s

/-! ## Sources (Table: Recovery sources) -/

/-- The sources that a tile's row allows. -/
def RTile.sources : RTile → List Nat
  | .state_ _ 5 _ => [1, 2, 3, 4]
  | .state_ _ _ _ => [1, 3, 4]
  | .window _ _ => [1, 2]
  | _ => [1]

/-- The other members of the package's replica group, in ascending COORD. -/
def State.replicaPeers (s : State) : List Nat :=
  (sortBy (fun c => c) (s.collMembers 0xFFF)).filter fun c => c != s.ownCoord

/-- The checkpoint in T3 that source 4 may use: APPLIED agrees with the current one. -/
def State.ckptUsable (s : State) : Bool :=
  s.regF aSecCkpt 0 32 != 0 && s.regF aSecCkpt 32 32 == s.regF aMkrApplied 0 32 && s.sec.domain.isSome

/-- Source `n` begins; none when it is not to be had. -/
def State.beginSource (s : State) (r : Recovery) (n : Nat) : Option State :=
  match r.rd.tile with
  | .window t1 slot =>
    let o := Tab.get s.sec.winOrig (2 * slot + b2n t1)
    if n = 2 ∧ o ≠ 0 ∧ s.tierPresent 2 then
      let s := s.modRecov r.id fun r => { r with source := 2, found := none, need := [], got := [] }
      some (s.fetchTile (s.stateRd ((o - 1) / 2 ^ 24) 5 ((o - 1) % 2 ^ 24) (.recov r.id)))
    else none
  | .state_ p part tile =>
    if n = 2 then
      let need := (s.coverOf p tile).map (tkey 0)
      let s := s.modRecov r.id fun r => { r with source := 2, found := none, need := need, got := [] }
      some (need.foldl (fun s k => s.fetchTile (s.stateRd p 0 (k % 2 ^ 20) (.recov r.id))) s)
    else if n = 3 then
      match s.replicaPeers.find? fun c => decide (r.peer ≤ c) with
      | none => none
      | some c =>
        let s := s.modRecov r.id fun r => { r with source := 3, found := none, peer := c + 1 }
        some (s.sendFetch c p part tile 1)
    else if n = 4 ∧ s.ckptUsable then
      let a := (s.reg aSecCkptAddr).toNat + recordOff (s.recordOf p part tile)
      let s := s.modRecov r.id fun r => { r with source := 4, found := none }
      some (s.startJob (.raw 7 r.id) fun id => s.readReqs 3 a recordSize .read 4112 id 0)
    else none
  | _ => none

/-- The next source after a failed one: a peer is followed by the next peer. -/
def State.trySources (s : State) (r : Recovery) : List Nat → State
  | [] => s.recovLost r
  | n :: rest =>
    match s.beginSource r n with
    | some t => t
    | none => s.trySources r rest

def State.nextSource (s : State) (r : Recovery) : State :=
  s.trySources r (r.rd.tile.sources.filter fun n => decide (r.source < n ∨ (r.source = 3 ∧ n = 3)))

/-! ## What a source returned -/

/-- A tile fit to be delivered: header fields as the slot expects them, no illegal code. -/
def State.recovFits (rd : TileRd) (g : TileGot) : Bool :=
  let h := Hdr.read g.hdr
  let part := match rd.tile with
    | .state_ _ part _ => part
    | _ => 0
  g.ok && !badMoment part g.pay
    && (match rd.own with | none => true | some o => h.owner == o.1 && h.pos == o.2 && h.fmt == rd.fmt)

/-- A master read for source 2 has come; the last one forms the tile. -/
def State.regenGot (s : State) (id tile : Nat) (g : TileGot) : State :=
  match s.recovery id with
  | none => s
  | some r =>
    if r.source ≠ 2 ∨ r.found.isSome then s
    else if !g.ok then s.modRecov id fun r => { r with found := some .failed }
    else
      let need := r.need.filter (· != tkey 0 tile)
      let got := Tab.put r.got (tkey 0 tile) g.pay
      match need, r.rd.tile with
      | [], .state_ p part t =>
        let pay := s.workFrom p ((s.coverOf p t).map fun m => Tab.get got (tkey 0 m))
        let c := s.stateCorner p part t
        let sh := shapeOf r.rd.fmt
        let h : Hdr := { fmt := r.rd.fmt, kind := 0, shape := sh.code, mode := sh.mode, cmp := false, nocode := false, prov := 3
                         vrows := c.1, vcols := c.2, cmpLen := 0, desc := 0, epoch := r.rd.loc.epoch
                         owner := p + at_ 18 s.part.form, pos := t, mac := 0 }
        s.modRecov id fun r => { r with
          need := [], found := some { ok := true, hdr := h.bytes, scales := [], pay := pay, coded := false } }
      -- a window tile is its working copy, under the header of its slot
      | _, .window _ slot =>
        let h := { Hdr.read g.hdr with owner := slot + at_ 18 s.part.form, pos := 0, epoch := r.rd.loc.epoch }
        s.modRecov id fun r => { r with found := some { g with hdr := h.bytes } }
      | _, _ => s.modRecov id fun r => { r with need := need, got := got }

/-- The tile of a record read over the far port: a coded one is checked and expanded there (R221, R232). -/
def State.recordTileOf (s : State) (h : Hdr) (pay : Bytes) : TileGot × State :=
  if !h.cmp then ({ ok := true, hdr := h.bytes, scales := [], pay := pay, coded := false }, s)
  else match s.expand 0 h.bytes (pay.take h.cmpLen) false with
    | (.ok p, s) => ({ ok := true, hdr := { h with cmp := false, cmpLen := 0, desc := 0 }.bytes, scales := [], pay := p, coded := false }, s)
    | (.error _, s) => (.failed, s)

/-- The record of source 4 has been read. -/
def State.ckptRecordGot (s : State) (id : Nat) (b : Option Bytes) : State :=
  match s.recovery id with
  | none => s
  | some r =>
    let x : TileGot × State := match b, r.rd.tile, s.ckptKey (s.regF aSecCkpt 32 32) with
      | some b, .state_ p part tile, some key =>
        (match openRecord key (s.recordOf p part tile) b with
        | none => (.failed, s)
        | some (h, pay) => s.recordTileOf (Hdr.read h) pay)
      | _, _, _ => (.failed, s)
    x.2.modRecov id fun r => { r with found := some x.1 }

/-- What the attempt in progress of recovery `r` has returned; none when it has not ended. -/
def State.sourceResult (s : State) (r : Recovery) (ok : Bool) (tile : Bytes) : Option TileGot × State :=
  if r.source = 1 ∧ r.rd.loc.tier = 0 then
    let x := s.readNow { r.rd with use := .recov r.id }
    (some x.1, x.2)
  else if r.source = 3 ∨ r.source = 6 then
    if !(ok && satOk tile (some r.rd.fmt)) then (some .failed, s)
    else match s.satExpanded ((s.routePort r.peer s.part.form 0xE401).getD 0) false tile with
      | (some b, s) => (some (if (satTile b).coded then .failed else satTile b), s)
      | (none, s) => (some .failed, s)
  else (r.found, s)

/-- A repair's fetch has ended (R364, step 1); a failed one is a failed recovery of that tile. -/
def State.repairFetched (s : State) (r : Recovery) (g : TileGot) : State :=
  if !g.ok then s.recovLost r
  else
    let s := s.dropRecov r.id
    match r.rd.tile with
    | .state_ _ part tile => s.repairGot (tkey part tile) g.pay
    | _ => s

/-- RECOVERY_SOURCE_DONE. -/
def State.sourceDone (s : State) (id : Nat) (ok : Bool) (tile : Bytes) : State :=
  match s.recovery id with
  | none => s
  | some r =>
    if r.source = 0 ∨ r.writing then s else
    match s.sourceResult r ok tile with
    | (none, s) => s
    | (some g, s) =>
      if r.stopped then
        let s := s.dropRecov id
        match r.rd.tile with
        | .locker l _ => s.settleLkr l
        | _ => s
      else if r.source = 6 then s.repairFetched r g
      else if State.recovFits r.rd g then s.recovered r g
      else s.nextSource r

/-! ## State fetches served (R356) -/

/-- The refusal: one DATA frame of LEN 0. -/
def State.fetchRefuse (s : State) (coord form : Nat) : State :=
  (s.sendTo tData 3 coord form 0xE401 [] (last := true)).getD s

/-- Every tile is there, or one has failed: the answer goes out. -/
def State.fetchEnd (s : State) (f : Fetch) : State :=
  let s : State := { s with err := { s.err with fetches := s.err.fetches.filter (·.id != f.id) } }
  if f.bad then s.fetchRefuse f.coord f.form
  else match s.routePort f.coord f.form 0xE401 with
  | none => s
  | some p => (List.range f.count).foldl (fun s i => s.sendSatchel p 3 f.coord f.form 0xE401 i false (Tab.get f.got i)) s

/-- Tile `i` of fetch `id` has been read. A failing tile is refused to the peer and recovered for the form itself. -/
def State.fetchGot (s : State) (id i : Nat) (rd : TileRd) (g : TileGot) : State :=
  let s := if g.ok then s else s.beginRecovery { rd with use := .idle }
  match s.err.fetches.find? (·.id == id) with
  | none => s
  | some f =>
    let f := { f with
      left := f.left - 1, bad := f.bad || !g.ok
      got := if g.ok then Tab.put f.got i (satchel g.hdr g.scales g.pay) else f.got }
    if f.left = 0 then s.fetchEnd f
    else { s with err := { s.err with fetches := s.err.fetches.map fun x => if x.id = id then f else x } }

/-- A fetch that names tiles of the form with the requester's APPLIED. -/
def State.fetchOk (s : State) (p part tile n applied : Nat) : Bool :=
  decide (applied = s.regF aMkrApplied 0 32 ∧ p < s.mkPieces ∧ part ≤ 5 ∧ 1 ≤ n ∧ n ≤ 256 ∧ tile + n ≤ s.partTiles p part)
    && s.tierPresent 2

/-- A state fetch request received. -/
def State.fetchIn (s : State) (p : Nat) (h : WHdr) (pay : Bytes) : State :=
  let s := s.consumed p h
  let pc := leAt pay 0 4
  let part := leAt pay 4 1
  let t := leAt pay 8 4
  let n := leAt pay 0xC 4
  if !s.fetchOk pc part t n (leAt pay 0x10 4) then s.fetchRefuse h.src h.sform
  else
    let id := s.err.nextId
    -- a coded tile travels on coded to a fabric port (R223)
    let pass := (s.routePort h.src h.sform 0xE401).any fun p => !isFed p
    let f : Fetch := { id := id, coord := h.src, form := h.sform, piece := pc, part := part, tile := t, count := n, left := n
                       got := [], bad := false }
    let s : State := { s with err := { s.err with fetches := s.err.fetches ++ [f], nextId := id + 1 } }
    (List.range n).foldl (fun s i => s.fetchTile { s.stateRd pc part (t + i) (.fetch id i) with pass := pass }) s

/-- STATE_FETCH: a DATA frame on ENDPOINT 0xE400; below L1 nothing is bound to it. -/
def State.stateFetch (s : State) (p : Nat) (fr : Bytes) (bad : Bool) : State :=
  s.onFrame p tData fr bad fun h pay t =>
    if h.ep ≠ 0xE400 then s
    else if t.serviceLevel = 0 then t.refuseFrame p 8 h
    else t.fetchIn p h pay

/-! ## Scrub (R347, R349) -/

/-- Bank group of cloakroom byte address `a`: unfenced groups in ascending order (R39). -/
def State.bankOf (s : State) (a : Nat) : Nat :=
  let on := (List.range (bankGroups s.part.set)).filter fun g => !bitAt (word s.ckGroupFence) g
  on.getD (a / (bankUnits s.part.set * 65536)) 0

/-- One corrected bit: counted, and logged at most once in a millisecond of its bank group `g`, or of its array, from 64 on (R347). -/
def State.scrubCorrected (s : State) (g : Nat) : State :=
  let s := if g < 64 then s.incF (aErrCeGroups + 8 * (g / 4)) (16 * (g % 4)) 16 1 else s
  let s := s.incF aErrSram 32 32 1
  let ms := s.hall.toNat / 100000 + 1
  if Tab.get s.err.ceLogged g = ms then s
  else { s with err := { s.err with ceLogged := Tab.put s.err.ceLogged g ms } }.logEv evSramCorrected 0

/-- The scrub reads word `w`, in which `bits` bits are found in error. PERIOD 0 disables it. -/
def State.scrub (s : State) (w bits : Nat) : State :=
  if s.reg aErrScrub = 0 ∨ cloakMiB s.part.set * 131072 ≤ w ∨ bits = 0 then s
  else if bits = 1 then s.scrubCorrected (s.bankOf (8 * w))
  else
    let s : State := { s with t0Poison := Tab.put s.t0Poison w true }
    (s.incF aErrSram 0 32 1).logEv evSramUncorrectable 0

/-! ## Timeouts of waits -/

/-- STAGE_TIMEOUT: a staging run that waits for room for STAGE_TIMEOUT (R174). -/
def State.stageTimeout (s : State) (piece block : Nat) : State :=
  match s.mkr.runs.find? fun r => r.piece == piece && r.first == block && r.place.isNone with
  | none => s
  | some _ => s.causeAbort evNoStage (mkrErr piece 7 0)

/-- PLACE_TIMEOUT: the OPEN of queue `q` has been held for PLACE_TIMEOUT (R109, R446). -/
def State.placeTimeout (s : State) (q : Nat) : State :=
  match s.pln.held.find? (·.queue == q) with
  | none => s
  | some h =>
    let low := at_ 18 (cLocker h.cmd)
    if s.tut.st ≠ 0 then s.causeAbort evPlnNoPlace low
    else
      let s : State := { s with pln := { s.pln with held := s.pln.held.filter (·.queue != q) } }
      (s.logEv evPlnNoPlace low).stopQueue q evPlnNoPlace.code

/-! ## The commands -/

def execRecoverySourceDone (r : BitVec 16) (ok : Bool) (tile : Bytes) (s : State) : Res :=
  .next ((s.sourceDone r.toNat ok tile).stir).settle
/-- An uncorrectable word outside the scrub: counted; what it held is treated as R348 says. A cloakroom word is left to its reader;
an operand store's unit refuses the command that it holds; lost control state sets WARM_NEEDED and is a cause of a common abort. -/
def State.sramLost (s : State) (a : Sys2Proof.SramAt) : State :=
  let u := s.incF aErrSram 0 32 1
  match a with
  | .scrub w | .cloak w => { u with t0Poison := Tab.put u.t0Poison w.toNat true }
  | .control _ => ({ u with err := { u.err with warmNeeded := true } }).causeAbort evSramUncorrectable 0
  | .operand n =>
    let u := u.logEv evSramUncorrectable 0
    match u.flights.find? fun f => !f.done && holdsUnit n.toNat f.cmd with
    | none => u
    | some f => u.failUnit f evSramUncorrectable.code
  | .array _ => u.logEv evSramUncorrectable 0
  | .peer => { s with err := { s.err with peerLow := true } }

/-- The number under which SRAM_CORRECTED is limited: the bank group of a cloakroom word, 64 and up for the arrays. -/
def State.sramGroup (s : State) : Sys2Proof.SramAt → Nat
  | .scrub w | .cloak w => s.bankOf (8 * w.toNat)
  | .control a => 64 + a.toNat
  | .operand u => 72 + u.toNat
  | .array a => 80 + a.toNat
  | .peer => 0

/-- A read finds `bits` bits in error in a cloakroom word, or in a word of another array (R347, R348; log 73). Another form tells of
uncorrectable errors alone. -/
def State.sramRead (s : State) (a : Sys2Proof.SramAt) (bits : Nat) : State :=
  let none_ : Bool := match a with
    | .cloak w => decide (cloakMiB s.part.set * 131072 ≤ w.toNat)
    | .peer => bits == 1
    | _ => false
  if bits = 0 ∨ none_ then s
  else if bits = 1 then s.scrubCorrected (s.sramGroup a)
  else s.sramLost a

def execScrubRead (at_ : Sys2Proof.SramAt) (bits : BitVec 2) (s : State) : Res :=
  match at_ with
  | .scrub w => .next (s.scrub w.toNat bits.toNat)
  | a => .next (s.sramRead a bits.toNat).settle
def execStageTimeout (piece : BitVec 18) (block : BitVec 16) (s : State) : Res :=
  .next (s.stageTimeout piece.toNat block.toNat).wake.settle
def execPlaceTimeout (q : BitVec 13) (s : State) : Res := .next (s.placeTimeout q.toNat).wake.settle

end Sys2Proof.Machine
end

