-- ==== Sys2Proof/Machine/Limits.lean ====
section
/-! DEFINITION. Step 8 of Table: Verification order (R48): the range of every field of the sections, and every byte that must
be zero. A check is a pair: whether it fails, and the offset that SYL_ERR names; the lowest failing offset counts. -/

namespace Sys2Proof.Machine

/-- A check: whether it fails, and at which offset of its section. -/
abbrev Chk := Bool × Nat

/-- The lowest offset at which a check fails. -/
def firstBad (l : List Chk) : Option Nat :=
  l.foldl (fun m c => if c.1 then some (match m with | none => c.2 | some x => min x c.2) else m) none

/-! ## Kinds of checks, on the bytes of a section -/

/-- The field of `n` bytes at `off` lies in `lo` to `hi`. -/
def inRange (b : Bytes) (off n lo hi : Nat) : Chk := (decide (leAt b off n < lo ∨ hi < leAt b off n), off)
/-- The field is a multiple of `k`. -/
def multOf (b : Bytes) (off n k : Nat) : Chk := (leAt b off n % k != 0, off)
/-- The `n` bytes from `off` are zero. -/
def zeros (b : Bytes) (off n : Nat) : List Chk := (List.range n).map fun i => (leAt b (off + i) 1 != 0, off + i)
/-- Everything from `off` to the end of the section is zero. -/
def zeroTail (b : Bytes) (off : Nat) : List Chk := zeros b off (b.length - off)
/-- The field holds one of these values. -/
def oneOf (b : Bytes) (off n : Nat) (vs : List Nat) : Chk := (!vs.contains (leAt b off n), off)
/-- The FP32 field is finite; with `nn`, at least +0. -/
def finite32 (b : Bytes) (off : Nat) (nn : Bool) : Chk :=
  let v := leAt b off 4
  (v / 2 ^ 23 % 256 == 255 || (nn && decide (2 ^ 31 < v)), off)
/-- The FP32 field is at least +0 and below 1. -/
def below1 (b : Bytes) (off : Nat) : Chk :=
  let v := leAt b off 4
  (!(decide (v < 0x3F800000) || v == 0x80000000), off)
/-- The FP32 field is above +0 and at most `top`, given by its bits. -/
def above0 (b : Bytes) (off top : Nat) : Chk := (decide (leAt b off 4 = 0 ∨ top < leAt b off 4), off)

/-- The records of a table, as many as lie inside the section: their offsets. -/
def records (b : Bytes) (off n size : Nat) : List Nat :=
  if b.length < off + n * size then [] else (List.range n).map fun i => off + size * i

/-! ## Structure sections -/

def limFederation (b : Bytes) : List Chk :=
  [oneOf b 0 1 [1, 2, 4, 8]] ++ zeros b 1 7
    ++ (((List.range 8).filter fun k => decide (leAt b 0 1 ≤ k)).map fun k => (leAt b (8 + k) 1 != 0xFF, 8 + k))
    ++ ((List.range 8).map fun f => inRange b (0x10 + 2 * f) 2 0 0x1FFF) ++ zeroTail b 0x20

def limBenchesSect (set : Nat) (b : Bytes) : List Chk :=
  [inRange b 0 1 0 (if set ≤ 1 then 0 else 2)] ++ zeroTail b 1

def limCloakroom (set : Nat) (b : Bytes) : List Chk :=
  [(leAt b 0 2 % 2 == 1 || decide (2 ^ bankGroups set ≤ leAt b 0 2), 0)] ++ zeros b 2 6
    ++ [inRange b 8 4 0 (bankUnits set)] ++ zeroTail b 0x1C

/-- R42, R379 and the tiers of the set (R6). -/
def limTiers (set : Nat) (b : Bytes) : List Chk :=
  ([0, 8, 0x10, 0x20, 0x28, 0x30, 0x38, 0x40].map fun o => multOf b o 8 (2 ^ 21))
    ++ [inRange b 0x10 8 0 (8 * 2 ^ 30), inRange b 0x18 1 0 (if set = 0 then 0 else 1),
        inRange b 0x19 1 0 (if set = 0 then 0 else 1), inRange b 0x28 8 0 (256 * 2 ^ 30)]
    ++ zeros b 0x1A 6 ++ zeroTail b 0x48

/-- Every count at most the limit of the set (R43). -/
def limObjects (set : Nat) (b : Bytes) : List Chk :=
  [inRange b 0 4 0 (limStreams set), inRange b 4 4 0 (limQueues set),
   oneOf b 8 4 [8, 16, 32, 64, 128, 256, 512, 1024], inRange b 0xC 4 0 (limBells set),
   inRange b 0x10 4 0 (limAsms set), inRange b 0x14 4 0 (limSlots set), inRange b 0x18 4 0 (limLockers set),
   inRange b 0x1C 4 0 (limCouriers set)] ++ zeroTail b 0x20

/-- A group entry (Table: Group entry). -/
def limGroup (b : Bytes) (o : Nat) : List Chk :=
  [inRange b o 1 0 3] ++ zeros b (o + 0xA) 2 ++
  if leAt b o 1 % 2 = 1 then
    zeros b (o + 1) 1 ++ [(leAt b (o + 2) 2 == 1, o + 2)] ++ zeros b (o + 4) 6
  else
    [inRange b (o + 1) 1 0 7, inRange b (o + 4) 2 1 512, inRange b (o + 7) 1 1 16, inRange b (o + 9) 1 1 8]
      ++ zeros b (o + 0xC) 4

/-- The parts of a ROSTER section, as (offset, bytes): its fields, its entries, its group table and the lists of LIST
groups. -/
def rosterParts (b : Bytes) : List (Nat × Nat) :=
  let g := leAt b 4 4
  [(0, 0x40), (0x40, 64 * leAt b 0 4), (g, 16 + 16 * leAt b g 2)]
    ++ (records b (g + 16) (leAt b g 2) 16).filterMap fun o =>
      if leAt b o 1 % 2 = 1 then
        let n := leAt b (o + 2) 2
        some (leAt b (o + 0xC) 4, 2 * (if n = 0 then 65536 else n))
      else none

/-- The rest of a structure section, outside these parts, is zero. -/
def zeroGaps (b : Bytes) (parts : List (Nat × Nat)) : List Chk :=
  ((List.range b.length).filter fun i => !parts.any fun p => decide (p.1 ≤ i ∧ i < p.1 + p.2)).map fun i =>
    (leAt b i 1 != 0, i)

def limRoster (b : Bytes) : List Chk :=
  let g := leAt b 4 4
  [inRange b 0 4 1 65536] ++ zeros b 8 0x38
    ++ ((records b 0x40 (leAt b 0 4) 64).flatMap fun o =>
      [inRange b (o + 2) 2 0 511, inRange b (o + 4) 1 0 15, inRange b (o + 5) 1 0 7, oneOf b (o + 6) 1 [1, 2, 4, 8]]
        ++ zeros b (o + 7) 9)
    ++ (if g < 0x40 + 64 * leAt b 0 4 ∨ b.length < g + 16 then [] else
      [inRange b g 2 0 4093] ++ zeros b (g + 2) 14 ++ (records b (g + 16) (leAt b g 2) 16).flatMap (limGroup b))
    ++ zeroGaps b (rosterParts b)

def limSecurity (b : Bytes) : List Chk :=
  [inRange b 0 1 0 1, inRange b 1 1 0 1, inRange b 2 1 0 1] ++ zeros b 3 5 ++ zeroTail b 0x18

/-! ## Policy sections -/

def limPortsplit (b : Bytes) : List Chk :=
  [inRange b 0 1 20 70, inRange b 1 1 10 60, inRange b 2 1 0 40] ++ zeroTail b 3

def limFabric (b : Bytes) : List Chk :=
  [inRange b 0 1 1 255, inRange b 1 1 1 255, inRange b 2 1 1 255, inRange b 3 1 1 255, inRange b 4 2 1 1024]
    ++ zeros b 6 2
    ++ [inRange b 8 4 10 1000000, inRange b 0xC 4 10 1000000, inRange b 0x10 2 0 1024, inRange b 0x12 1 0 1]
    ++ zeros b 0x13 1 ++ [multOf b 0x14 4 64] ++ zeros b 0x18 40
    ++ (records b (leAt b 0x14 4) (leAt b 0x10 2) 8).flatMap fun o =>
      [(leAt b o 2 == 1, o), inRange b (o + 2) 1 1 8] ++ zeros b (o + 3) 1

/-- `slots`: the tile slots of the T0 locker region (R40). -/
def limPlanner (slots : Nat) (b : Bytes) : List Chk :=
  [inRange b 0 1 0 1, inRange b 1 1 0 2, inRange b 2 1 0 1, inRange b 3 1 1 16, inRange b 4 2 0 4096,
   inRange b 6 2 0 (leAt b 0x28 2 - 1), inRange b 8 4 1 65536, inRange b 0xC 4 0 slots, inRange b 0x1E 1 1 16,
   inRange b 0x1F 1 1 16, inRange b 0x20 1 1 100] ++ zeros b 0x21 3
    ++ [inRange b 0x24 4 100 1000000, inRange b 0x28 2 2 4097] ++ zeros b 0x2A 6
    ++ (List.range 16).map fun c => if c < 12 then inRange b (0x30 + c) 1 1 16 else inRange b (0x30 + c) 1 0 0

/-- A function table (Table: Function table layout). -/
def limTable (b : Bytes) (o : Nat) : List Chk :=
  let ws := leAt b (o + 4) 1
  [(decide (32 ≤ ws ∧ ws < 224), o + 4), inRange b (o + 5) 1 0 3, inRange b (o + 6) 1 0 3]
    ++ zeros b (o + 7) 9 ++ zeros b (o + 0x310) 240

/-- R142, R165. -/
def limNumerics (b : Bytes) : List Chk :=
  [inRange b 8 1 8 16, inRange b 9 1 0 32, (leAt b 0xA 1 != 0xFF && decide (leAt b 9 1 ≤ leAt b 0xA 1), 0xA)]
    ++ zeros b 0xB 5
    ++ [multOf b 0x10 4 64, multOf b 0x14 4 64, multOf b 0x18 4 64, (decide (leAt b 0x18 4 < 786432), 0x18)]
    ++ zeros b 0x1C 36 ++ [inRange b 0x40 1 0 8, inRange b 0x41 1 0 1] ++ zeros b 0x42 2
    ++ [inRange b 0x44 4 0 16384, multOf b 0x48 4 64] ++ zeros b 0x4C 52
    ++ (records b (leAt b 0x10 4) (leAt b 9 1) 1024).flatMap (limTable b)
    ++ (records b (leAt b 0x48 4) (leAt b 0x44 4) 16).flatMap fun o =>
      [inRange b o 1 3 9, inRange b (o + 1) 1 0 1] ++ zeros b (o + 2) 2 ++ zeros b (o + 0xC) 4
        ++ if leAt b (o + 1) 1 % 2 = 1 then [inRange b (o + 4) 4 1 (2 ^ 32), inRange b (o + 8) 4 1 (2 ^ 32)]
           else zeros b (o + 4) 8

/-- A piece descriptor. -/
def limPiece (b : Bytes) (o : Nat) : List Chk :=
  [inRange b o 4 1 (2 ^ 32), inRange b (o + 4) 4 1 (2 ^ 32), multOf b (o + 8) 8 32768, inRange b (o + 0x10) 1 0 2,
   inRange b (o + 0x11) 1 1 2, inRange b (o + 0x12) 1 0 7] ++ zeros b (o + 0x13) 1
    ++ [(decide (leAt b 0x3C 2 ≤ leAt b (o + 0x14) 2), o + 0x14)] ++ zeros b (o + 0x16) 2
    ++ [finite32 b (o + 0x18) true, finite32 b (o + 0x1C) true, finite32 b (o + 0x20) false,
        multOf b (o + 0x24) 4 64, (leAt b (o + 0x12) 1 % 2 == 0 && leAt b (o + 0x24) 4 != 0, o + 0x24)]
    ++ zeros b (o + 0x28) 24

/-- R193; `room`: T2_SIZE − T2_SPILL. -/
def limMarker (room : Nat) (b : Bytes) : List Chk :=
  let h := leAt b 8 8
  [multOf b 0 8 (2 ^ 21), inRange b 0 8 0 room, multOf b 8 8 (2 ^ 21),
   (decide (leAt b 0 8 < h + 64 * (h / 32768)), 8), inRange b 0x10 4 0 262143, multOf b 0x14 4 64,
   below1 b 0x18, above0 b 0x1C 0x3F800000, below1 b 0x20, above0 b 0x24 0x3F800000, above0 b 0x28 0x7F7FFFFF,
   below1 b 0x2C, finite32 b 0x30 true, above0 b 0x34 0x7F800000, above0 b 0x38 0x7F800000,
   inRange b 0x3C 2 1 1024, inRange b 0x3E 2 128 2048, multOf b 0x3E 2 4, inRange b 0x40 4 100 1000000,
   inRange b 0x44 1 0 1] ++ zeros b 0x45 1 ++ zeros b 0x48 56
    ++ (records b (leAt b 0x14 4) (leAt b 0x10 4) 64).flatMap (limPiece b)

def limCollectives (b : Bytes) : List Chk :=
  [inRange b 0 4 1000 10000000, inRange b 4 2 0 10000, inRange b 6 1 0 1, inRange b 7 1 0 1, inRange b 8 1 0 3]
    ++ zeros b 9 55

/-- `asms`: the timetable's assemblies. -/
def limSync (asms : Nat) (b : Bytes) : List Chk :=
  let d := leAt b 0 4
  [(d != 0 && decide (d < 100 ∨ 1000000 < d), 0)] ++ zeros b 6 2
    ++ [inRange b 0x10 4 0 4096, multOf b 0x14 4 64, multOf b 0x18 4 64, inRange b 0x1C 2 0 8192,
        inRange b 0x1E 2 0 asms, multOf b 0x20 4 64] ++ zeros b 0x24 28

/-! ## Timetable sections (R326) -/

/-- Offsets at which the fields of a pool command start (Table: Command layout and the operand tables). -/
def cmdFields (c : Cmd) : List Nat :=
  [0, 1, 2, 3, 4, 6, 8, 0xA, 0xC, 0x10, 0x14, 0x18] ++
  match cOp c with
  | 0x01 => [0x1C, 0x20]
  | 0x10 | 0x11 | 0x12 | 0x13 | 0x14 =>
    [0x1C, 0x20, 0x22, 0x23, 0x24, 0x28, 0x2A, 0x2C, 0x2E, 0x30, 0x32, 0x34, 0x35, 0x36, 0x38, 0x3A]
  | 0x20 | 0x21 | 0x22 =>
    [0x1C, 0x1D, 0x1E, 0x1F, 0x20, 0x22, 0x24, 0x26, 0x28, 0x2C, 0x30, 0x32, 0x34, 0x36, 0x37, 0x38, 0x3C]
  | 0x30 => [0x1C, 0x1E, 0x1F, 0x20, 0x22, 0x24, 0x28, 0x2C, 0x34, 0x3C]
  | 0x31 => [0x1C, 0x1D, 0x20, 0x24, 0x2C, 0x34, 0x38, 0x3C]
  | 0x40 => [0x1C, 0x1E, 0x1F, 0x20, 0x24, 0x28, 0x2C, 0x2E]
  | 0x41 => [0x1C, 0x1E, 0x1F, 0x20, 0x24, 0x2C, 0x30, 0x34, 0x36, 0x37, 0x38, 0x3C]
  | _ => [0x1C]

/-- The start of the field that holds byte `i` of a command. -/
def cmdFieldOf (c : Cmd) (i : Nat) : Nat := ((cmdFields c).filter fun o => decide (o ≤ i)).foldl max 0

/-- The bits of a command that its layout gives a meaning. -/
def cmdMask (c : Cmd) : Nat := Nat.lor (commonMask c) ((operandMask c).getD 0)

/-- Codes of a command that its tables reserve, with their fields: opcodes, kinds, products, row operations, data types, sources
and slot operations. -/
def cmdCodes (c : Cmd) : List Chk :=
  let k := cmdAt c 2 1
  let row : Nat := if cOp c = 0x20 then (if uDest c = 3 then uChain c else 0) else if cOp c = 0x22 then uRow c else 0
  [((operandMask c).isNone, 0), (k / 16 % 4 == 3 || k / 64 % 4 == 3, 2)]
  ++ match cOp c with
    | 0x10 => [(!codeOk (cFormat c), 0x23)]
    | 0x20 | 0x21 | 0x22 => [((cOp c == 0x20 && uProd c == 3) || decide (0xB ≤ row), 0x1D), (!codeOk (uOutFmt c), 0x1E)]
    | 0x40 => [(decide (5 ≤ rSource c), 0x1E),
        ((List.range 8).any fun i => decide (0xB ≤ rSlotops c / 16 ^ i % 16), 0x20)]
    | 0x41 => [(!codeOk (bDtype c), 0x1E)]
    | _ => []

/-- A command of a pool, at offset `o` of its section: every bit outside its layout is zero and no code is reserved (R48). -/
def limCommand (b : Bytes) (o : Nat) : List Chk :=
  let c := cmdOfBytes (slice b o 64)
  let m := cmdMask c
  ((List.range 64).map fun i => (leAt b (o + i) 1 &&& m >>> (8 * i) &&& 0xFF != leAt b (o + i) 1, o + cmdFieldOf c i))
    ++ (cmdCodes c).map fun x => (x.1, o + x.2)

/-- An entry record; `ck`: of a CHECKPOINT section, in which none is RECOMPUTE. -/
def limEntry (ck : Bool) (b : Bytes) (o : Nat) : List Chk :=
  [inRange b (o + 2) 1 0 (if ck then 0 else 1)] ++ zeros b (o + 3) 1 ++ [inRange b (o + 8) 4 1 (2 ^ 32)]
    ++ zeros b (o + 0xE) 2

def limTimetable (ty : Nat) (b : Bytes) : List Chk :=
  [inRange b 0 2 1 4096, inRange b 4 4 1 65535, inRange b 8 4 1 1048576, multOf b 0xC 4 64, multOf b 0x10 4 64,
   multOf b 0x14 4 64, oneOf b 0x18 1 (if ty = tyExam then [0] else [0, tyLearn, tyGenerate])]
    ++ (if ty = tyExam then zeros b 2 2 else [inRange b 0x28 4 0 262144])
    ++ (if ty = tyLearn then [] else zeros b 0x19 1) ++ zeros b 0x1A 2 ++ zeros b 0x2C 20
    ++ ((records b (leAt b 0xC 4) (leAt b 0 2) 16).flatMap fun o =>
      [inRange b (o + 4) 1 0 2] ++ zeros b (o + 5) 1 ++ zeros b (o + 0xC) 4)
    ++ (records b (leAt b 0x10 4) (leAt b 4 4) 16).flatMap (limEntry false b)
    ++ (records b (leAt b 0x14 4) (leAt b 8 4) 64).flatMap (limCommand b)

def limCheckpoint (b : Bytes) : List Chk :=
  [inRange b 0 4 1 (2 ^ 32), inRange b 4 1 0 1] ++ zeros b 5 3
    ++ [inRange b 8 4 1 65535, inRange b 0xC 4 1 1048576, multOf b 0x10 4 64, multOf b 0x14 4 64]
    ++ zeros b 0x18 40 ++ (records b (leAt b 0x10 4) (leAt b 8 4) 16).flatMap (limEntry true b)
    ++ (records b (leAt b 0x14 4) (leAt b 0xC 4) 64).flatMap (limCommand b)

/-! ## All sections -/

/-- The bytes of a section's fixed fields (R441); none for a type that no section has (R33). -/
def sectFixed : Nat → Option Nat
  | 1 => some 0x20 | 2 => some 0x40 | 3 => some 0x1C | 4 => some 0x48 | 5 => some 0x20 | 6 => some 0x40
  | 7 => some 0x18 | 0x10 => some 0x40 | 0x11 => some 0x40 | 0x12 => some 0x40 | 0x13 => some 0x80 | 0x14 => some 0x80
  | 0x15 => some 0x40 | 0x16 => some 0x40 | 0x20 => some 0x40 | 0x21 => some 0x40 | 0x22 => some 0x40
  | 0x23 => some 0x40 | 0xFFFF => some 0x100 | _ => none

/-- The range checks of section `ty`, in the view `v` of the form's sections. -/
def State.limChecks (v : State) (ty : Nat) : List Chk :=
  let b := v.sect ty
  let set := v.part.set
  match ty with
  | 1 => limFederation b
  | 2 => limBenchesSect set b
  | 3 => limCloakroom set b
  | 4 => limTiers set b
  | 5 => limObjects set b
  | 6 => limRoster b
  | 7 => limSecurity b
  | 0x10 => limPortsplit b
  | 0x11 => limFabric b
  | 0x12 => limPlanner (v.ckLockers * 65536 / 32832) b
  | 0x13 => limNumerics b
  | 0x14 => limMarker (v.t2Size - v.t2Spill) b
  | 0x15 => limCollectives b
  | 0x16 => limSync v.objAsms b
  | 0x23 => limCheckpoint b
  | _ => limTimetable ty b

end Sys2Proof.Machine
end

