-- ==== Sys2Proof/Machine/Combine.lean ====
section
/-! DEFINITION. Step 9 of Table: Verification order: the conditions of each section and between sections (R36 to R47, R51, R113,
R142, R163, R165, R168, R169, R193, R267, R274, R296, R298, R299, R322, R327, R333, R338, R408, R441), over the view `v` of the sections
that a form would hold. -/

namespace Sys2Proof.Machine

/-- A table of `n` records of `size` bytes at `off` lies inside the section `b` (R441). -/
def fits (b : Bytes) (off n size : Nat) : Bool := decide (off + n * size ≤ b.length)
/-- No number occurs twice. -/
def distinct (l : List Nat) : Bool := (nub l).length == l.length
/-- Two runs of bytes share one. -/
def meets (a n b m : Nat) : Bool := decide (0 < n ∧ 0 < m ∧ a < b + m ∧ b < a + n)
/-- Some run of the list meets a later one. -/
def anyMeet : List (Nat × Nat) → Bool
  | [] => false
  | a :: r => (r.any fun b => meets a.1 a.2 b.1 b.2) || anyMeet r

/-! ## Structure sections -/

/-- Forms `a` and `b` are joined by a UCIe link that neither fences (R36, Table: Federation link wiring). -/
def State.joined (v : State) (a b : Nat) : Bool :=
  (List.range 4).any fun l =>
    let at_ : State := { v with part := { v.part with form := a } }
    at_.fedPeer l == some b && (v.fenceOf a >>> (8 + l)) % 2 == 0 && (v.fenceOf b >>> (8 + l)) % 2 == 0

/-- CHAIN by R36, for `n` forms. -/
def State.chainOk (v : State) (n : Nat) : Bool :=
  let ch := (slice (v.sect tyFederation) 8 8).map BitVec.toNat
  let c := ch.take n
  c.head? == some 0 && (List.range n).all (fun f => c.contains f)
    && ((List.range (n - 1)).all fun i => v.joined (c.getD i 0) (c.getD (i + 1) 0))

/-- R36, R37, and the head form's fabric ports (Table: Cross-section conditions). -/
def State.combFederation (v : State) (forms : Nat) : List Chk :=
  let b := v.sect tyFederation
  let noFabric := (List.range (fabPorts v.part.set)).all fun p => (v.fenceOf 0 >>> (6 + p)) % 2 == 1
  [(leAt b 0 1 != forms, 0), (!v.chainOk forms, 8), (noFabric && v.packages != 1, 0x10)]
    ++ (List.range forms).map fun f => ((v.fenceOf f >>> 4) % 2 == 1, 0x10 + 2 * f)

/-- R38. A GANG 1 with both gangs wholly fenced is accepted: the rule speaks of one whole gang fenced and the spec does not say
what two are (DESIGN CHOICE, log 50). -/
def State.combBenches (v : State) : List Chk :=
  let f := v.fence % 16
  let pair (x : Nat) : Bool := x % 4 == 0 || x % 4 == 3
  [((v.gang == 1 && !(pair f && pair (f / 4))) || (v.gang == 2 && f != 0), 0)]

/-- R39. -/
def State.combCloakroom (v : State) : List Chk :=
  [(decide (v.ckSize < (v.ckRings + v.ckLockers + v.ckWindow + v.ckStaging + v.ckScratch) * 65536), 8)]

/-- R42 and R51; `half`: the second half of the store in force, for a full image. On a set with one memory port the absent port 1
counts as fenced, so that T1 spans 2^40 bytes (DESIGN CHOICE, log 50). -/
def State.combTiers (v : State) (half : Option Nat) : List Chk :=
  let data := v.t1Lockers + v.t1Lockers / 512 + v.t1WindowSize + v.t1WindowSize / 512
  let top := if v.memFenced 1 then 2 ^ 40 else 2 ^ 41
  [(decide (top < v.t1Store + 2 ^ 27) || meets 0 data v.t1Store (2 ^ 27) 
      || half.any fun h => meets v.t1Store (2 ^ 27) h (2 ^ 26), 0),
   (decide (top < data), 8), (v.t2Present && v.farFenced, 0x18), (v.t3Present && v.farFenced, 0x19),
   (decide (v.t2Size < v.t2Spill), 0x30)]

/-- R43. -/
def State.combObjects (v : State) : List Chk :=
  [(v.objQueues * v.ringDepth * 64 != v.ckRings * 65536, 4)]

/-- R44, R298, R299, R7. -/
def State.combRoster (v : State) (forms : Nat) : List Chk :=
  let b := v.sect tyRoster
  let n := v.packages
  let g := v.grTable
  let ids := (List.range n).map fun i => v.rosterAt i 0 2
  let own := v.ownEntry
  let groups := List.range v.grCount
  let eOff (e : Nat) : Nat := g + 16 + 16 * e
  let badGroup (e : Nat) : Bool :=
    if v.grList e then
      let m := let m := v.gr e 2 2; if m = 0 then 65536 else m
      let l := (List.range m).map fun k => v.sf tyRoster (v.gr e 0xC 4 + 2 * k) 2
      !fits b (v.gr e 0xC 4) m 2 || !distinct l || l.any fun x => !ids.contains x
    else decide (512 < v.gr e 2 2 + v.gr e 4 2 ∨ 16 < v.gr e 6 1 + v.gr e 7 1 ∨ 8 < v.gr e 8 1 + v.gr e 9 1)
  if !fits b 0x40 n 64 then [(true, 0)]
  else
    [(fabPorts v.part.set == 0 && n != 1, 0), (!distinct ids || !distinct ((List.range n).map v.coordOf), 0x40),
     (own.isNone, 0x40), ((own.any fun i => v.rosterAt i 6 1 != forms), 0x46 + 64 * own.getD 0),
     (decide (g < 0x40 + 64 * n) || !fits b g 1 16 || !fits b (g + 16) v.grCount 16, 4)]
    ++ (if fits b (g + 16) v.grCount 16 then
      (groups.map fun e => (badGroup e, eOff e))
      ++ [((List.range n).any fun i => decide (1 < (groups.countP fun e => v.grReplica e && v.grHas e i)), g)]
     else [])

/-! ## Policy sections -/

def State.combPortsplit (v : State) : List Chk :=
  [(v.shareRead + v.shareWrite + v.shareRemote != 100, 0)]

/-- R274, R296; `old`: the TRAY_MODE in force, for a partial image. -/
def State.combFabric (v : State) (forms : Nat) (old : Option Nat) : List Chk :=
  let b := v.sect tyFabric
  let ids := (List.range v.packages).map fun i => v.rosterAt i 0 2
  let bad (g : Nat) : Bool :=
    let l := (v.mgField g 4 4, let n := v.mgField g 0 2; if n = 0 then 65536 else n)
    let ms := (List.range l.2).map fun i => v.sf tyFabric (l.1 + 2 * i) 2
    !fits b l.1 l.2 2 || !distinct ms || ms.any fun x => !ids.contains x
  [((v.trayMode == 1 && decide (forms < 8)) || (old.any fun o => o != v.trayMode), 0x12),
   (!fits b (leAt b 0x14 4) v.mgroups 8, 0x14)]
    ++ if fits b (leAt b 0x14 4) v.mgroups 8 then
      (List.range v.mgroups).map fun g => (bad g, leAt b 0x14 4 + 8 * g)
    else []

/-- R113. -/
def State.combPlanner (v : State) : List Chk :=
  let e := v.plPeriods
  let ps := (List.range e).map fun i => v.plPstart (i + 1)
  let learn := v.sect tyLearn
  let tier := v.plOffTier
  if !fits (v.sect tyPlanner) 0x40 e 4 then [(true, 0x28)]
  else
    [((v.t2Present || v.t3Present) && (((tier == 0 || tier == 2) && !v.t2Present) || ((tier == 1 || tier == 2) && !v.t3Present)), 1),
     (if learn.isEmpty then e != 2 || ps.any (· != 0) else e != ttPeriods learn + 1, 0x28),
     (ps.headD 0 != 0, 0x40)]
    ++ (List.range (e - 1)).map fun i => (decide (ps.getD (i + 1) 0 < ps.getD i 0), 0x44 + 4 * i)

/-- R142, R165. -/
def State.combNumerics (v : State) : List Chk :=
  let b := v.sect tyNumerics
  let t := leAt b 0x10 4
  let h := leAt b 0x48 4
  [(!fits b t v.nmTables 1024, 0x10), (decide (v.scratchSize < v.nmHists * 128), 0x44),
   (!fits b h v.nmHists 16 || meets t (1024 * v.nmTables) h (16 * v.nmHists), 0x48)]
    ++ if fits b h v.nmHists 16 then
      (List.range v.nmHists).map fun i =>
        (v.nmSentinel i && decide (65536 < ((v.nmDesc i 4 4 + 127) / 128) * ((v.nmDesc i 8 4 + 127) / 128)), h + 16 * i + 4)
    else []

/-- Tiles of a piece area (Table: Parts of a piece area). -/
def State.areaTiles (v : State) (p : Nat) : Nat := ((List.range 6).map (v.partTiles p)).sum

/-- R168, R169, R193. -/
def State.combMarker (v : State) : List Chk :=
  let b := v.sect tyMarker
  let n := v.mkPieces
  let t := leAt b 0x14 4
  let slots := ((n + 1) * 64 + 32767) / 32768
  let area (p : Nat) : Nat × Nat := (v.pc p 8 8, 32768 * v.areaTiles p)
  [(!v.t2Present && n != 0, 0x10), (!fits b t n 64, 0x14), (v.mkClipEn && decide (v.objBells ≤ v.mkClipBell), 0x46),
   (n != 0 && decide (v.mkField 8 8 < 32768 * slots), 8)]
    ++ if fits b t n 64 then
      (List.range n).map fun p =>
        let a := area p
        (decide (65536 < v.pcNw p ∨ a.1 < 32768 * slots ∨ v.mkField 8 8 < a.1 + a.2)
          || ((List.range p).any fun q => meets a.1 a.2 (area q).1 (area q).2), t + 64 * p)
    else []

/-- What a partial image may not change in MARKER (R193); `o`: the view in force. -/
def State.combMarkerPart (v o : State) : List Chk :=
  let same (off n : Nat) : Bool := v.mkField off n == o.mkField off n
  let piece (p : Nat) : Bool := [(0, 4), (4, 4), (8, 8), (0x10, 1), (0x11, 1)].all fun f => v.pc p f.1 f.2 == o.pc p f.1 f.2
  [(!same 0 8, 0), (!same 8 8, 8), (!same 0x10 4, 0x10)]
    ++ (List.range v.mkPieces).map fun p => (!piece p, v.mkField 0x14 4 + 64 * p)

/-- The syllabus-reserved areas (R41), each with its section and the offset of the field that places it. -/
def State.areas (v : State) : List (Nat × Nat × Nat × Nat) :=
  [(tyNumerics, 0x44, 0, v.nmHists * 128), (tyNumerics, 0x14, v.nmPartOff, v.nmPartSize),
   (tySync, 0x18, v.snapOffset, v.snapMax * 32)]
    ++ ((List.range v.mkPieces).filter v.pcMask).map fun p =>
      (tyMarker, v.mkField 0x14 4 + 64 * p + 0x24, v.pc p 0x24 4, 64 * v.pcMaskBlocks p)

/-- R41 for the areas that section `ty` names: inside SCRATCH, and apart from the areas before them. -/
def State.combAreas (v : State) (ty : Nat) : List Chk :=
  let l := v.areas
  ((List.range l.length).filter fun i => (l.getD i (0, 0, 0, 0)).1 == ty).map fun i =>
    let a := l.getD i (0, 0, 0, 0)
    ((decide (0 < a.2.2.2 ∧ v.scratchSize < a.2.2.1 + a.2.2.2))
      || ((l.take i).any fun b => meets a.2.2.1 a.2.2.2 b.2.2.1 b.2.2.2), a.2.1)

/-- R267, and the objects that SYNC names (R47). -/
def State.combSync (v : State) : List Chk :=
  let b := v.sect tySync
  let pairs := v.syncPairs
  let flag (x : Nat) : Bool := decide (v.flagBase ≤ x ∧ x < v.flagBase + v.flagCount)
  let t := leAt b 0x14 4
  let bad (i : Nat) : Bool :=
    let p := pairs.getD i (0, 0)
    let other := (pairs.take i).flatMap fun q => [q.1, q.2]
    p.1 == p.2 || flag p.1 || flag p.2 || other.contains p.1 || other.contains p.2
      || decide (v.objBells ≤ p.1 ∨ v.objBells ≤ p.2)
  let steps := v.hasSect tyLearn || v.hasSect tyGenerate
  [((steps && (v.syncMask v.closeAsm).toNat % 2 == 0) || (v.hasSect tySync && decide (v.objAsms ≤ v.closeAsm)), 4),
   (decide (0 < v.flagCount ∧ v.objBells < v.flagBase + v.flagCount), 8)]
    ++ if v.hasSect tySync then
      [(!fits b t (leAt b 0x10 4) 4, 0x14), (!fits b (leAt b 0x20 4) (leAt b 0x1E 2) 8, 0x20)]
        ++ (List.range (leAt b 0x10 4)).map fun i => (bad i, t + 4 * i)
    else []

/-! ## Timetable sections -/

/-- A command adds FP32 values into FDST or PARAM1: its destinations, coded as FDST (R126). -/
def fp32Adds (c : Cmd) : List Nat :=
  match cOp c with
  | 0x20 => if uDest c = 2 then [uFdst c] else []
  | 0x21 => if uSteps c % 65536 = 0 then [] else [uFdst c]
  | 0x22 => if uRow c = 6 then [uParam1 c] else []
  | _ => []

/-- A command that a term excludes (Table: Term kinds, R338). -/
def State.termBad (v : State) (ty : Nat) (c : Cmd) : Bool :=
  let marker := v.t2Base
  let n := v.markerRegion + v.t2Spill
  if ty = tyGenerate then cOp c == 0x41 || (fp32Adds c).any fun d => decide (d < 2 ^ 31)
  else if ty = tyExam then
    cOp c == 0x41 || !(fp32Adds c).isEmpty
      || (cOp c == 0x31 && kDst c / 2 ^ 60 == 2 && v.t2Present && meets (kDst c % 2 ^ 48) (kCount c) marker n)
  else false

/-- No fabric port is there to use (R199); in TRAY_MODE 1 the tray links reach the package's ports. -/
def State.noFabric (v : State) : Bool := v.fabFenced 0 && v.fabFenced 1 && v.trayMode != 1

/-- A stream endpoint names a fenced, absent or ganged-away unit, or a locker that OBJECTS does not give (R47, R199). -/
def State.epAbsent (v : State) (w : Word) : Bool :=
  match epKind w with
  | 1 => decide (v.objLockers ≤ epLocker w)
  | 4 => !v.benchOk (epUnit w)
  | 5 => !v.rowOk (epUnit w)
  | 7 => v.noFabric
  | _ => false

/-- A courier address names the space of a port that is absent or fenced (R6, R47). -/
def State.spaceAbsent (v : State) (w : Nat) : Bool := w / 2 ^ 60 == 2 && v.farFenced

/-- A pool command names a fenced or absent unit, or an object that OBJECTS does not give (R47). -/
def State.namesAbsent (v : State) (c : Cmd) : Bool :=
  let k := cmdAt c 2 1
  let w (kind asm : Nat) (o : Nat) : Bool :=
    kind != 0 && (if kind = asm then decide (v.objAsms ≤ o / 64) else decide (v.objBells ≤ o))
  let ctx (n : Nat) : Bool := decide (v.objStreams ≤ n)
  let opt (n : Nat) : Bool := n != 0xFFFF && ctx n
  w (k % 4) 3 (cmdAt c 4 2) || w (k / 4 % 4) 3 (cmdAt c 6 2) || w (k / 16 % 4) 2 (cmdAt c 8 2)
    || w (k / 64 % 4) 2 (cmdAt c 0xA 2)
    || match cOp c with
      | 0x01 => decide (v.objSlots ≤ cSlot c)
      | 0x10 => decide (v.objLockers ≤ cLocker c ∨ v.objBells ≤ cTicket c)
      | 0x11 | 0x12 | 0x14 => decide (v.objLockers ≤ cLocker c)
      | 0x13 => decide (v.objLockers ≤ cLocker c) || ctx (cStream c)
      | 0x20 | 0x21 | 0x22 => (if uUnit c < 4 then !v.benchOk (uUnit c) else !v.rowOk (uUnit c - 4))
          || opt (uIn0 c) || opt (uIn1 c) || opt (uIn2 c) || opt (uOctx c) || (cOp c == 0x22 && uRow c == 3 && ctx (duCtx c))
      | 0x30 => ctx (sCtx c) || (sMode c / 4 % 2 == 1 && decide (v.objBells ≤ sBell c))
          || v.epAbsent (word (sSrc c)) || v.epAbsent (word (sDst c))
      | 0x31 => decide (v.objCouriers ≤ kCourier c) || (kPaceSrc c == 2 && decide (v.objCouriers ≤ kPaceCrs c))
          || v.spaceAbsent (kSrc c) || v.spaceAbsent (kDst c)
      | 0x40 => (rSlots c).any fun n => decide (v.objSlots ≤ n)
      | _ => false

/-- The commands of entry `e`. -/
def entCommands (b : Bytes) (e : Nat) : List Cmd := (List.range (entCmds b e)).map fun i => ttCmd b (entFirst b e + i)

/-- The sentinel histories that the commands of a list quantise under (R161). -/
def State.sentinelHists (v : State) (cs : List Cmd) : List Nat :=
  (cs.filter fun c => decide (0x20 ≤ cOp c ∧ cOp c ≤ 0x22) && !(cmdOutputs c).isEmpty && scaled (uOutFmt c)
    && decide (uHist c < v.nmHists) && v.nmSentinel (uHist c)).map uHist

/-- The lockers that an entry opens for its sentinel tensors. -/
def State.sentinelLockers (v : State) (b : Bytes) (e : Nat) : List Nat :=
  let cs := entCommands b e
  let hs := v.sentinelHists cs
  (cs.filter fun c => cOp c == 0x10 && hs.contains (cHist c)).map cLocker

/-- A command waits on bell `d`. -/
def waitsOn (d : Nat) (c : Cmd) : Bool :=
  let k := cmdAt c 2 1
  let w (kind o v : Nat) : Bool := (kind == 1 || kind == 2) && o == d && v != 0
  w (k % 4) (cmdAt c 4 2) (cmdAt c 0xC 4) || w (k / 4 % 4) (cmdAt c 6 2) (cmdAt c 0x10 4)

/-- Some command reads one of the lockers before any command of the list has waited on bell `d` (R163). -/
def readsUnwaited (ls : List Nat) (d : Nat) : List Cmd → Bool
  | [] => false
  | c :: r => if waitsOn d c then false else (cOp c == 0x13 && ls.contains (cLocker c)) || readsUnwaited ls d r

/-- Entry `e` breaks R163 as a sentinel entry: it adds into an FP32 destination, or a consumer does not wait on its bell. -/
def State.sentinelBad (v : State) (b : Bytes) (n e : Nat) : Bool :=
  let cs := entCommands b e
  if (v.sentinelHists cs).isEmpty then false
  else
    let ls := v.sentinelLockers b e
    cs.any (fun c => !(fp32Adds c).isEmpty)
      || (List.range n).any fun x => readsUnwaited ls (if entDoneBell b e = 0xFFFF then 2 ^ 16 else entDoneBell b e) (entCommands b x)

/-- A command of the pool that no timetable may hold: ROLLCALL with SOURCE 1 to 4 (R322, R333). -/
def badSource (c : Cmd) : Bool := cOp c == 0x40 && decide (1 ≤ rSource c ∧ rSource c ≤ 4)

/-- Conditions of an entry table and its pool, of `n` entries and `m` commands (R327, R47). -/
def State.combEntries (v : State) (ty : Nat) (b : Bytes) (n m : Nat) : List Chk :=
  let t := leAt b 0x10 4
  let pool := leAt b 0x14 4
  if !fits b t n 16 then [(true, 0x10)]
  else if !fits b pool m 64 then [(true, 0x14)]
  else
    ((List.range n).map fun e => (decide (v.objQueues ≤ entQueue b e), t + 16 * e))
    ++ ((List.range n).map fun e => (decide (m < entFirst b e + entCmds b e), t + 16 * e + 4))
    ++ ((List.range n).map fun e =>
      (entDoneBell b e != 0xFFFF && decide (v.objBells ≤ entDoneBell b e), t + 16 * e + 0xC))
    ++ ((List.range n).map fun e => (v.sentinelBad b n e, t + 16 * e))
    ++ (List.range m).map fun i =>
      let c := ttCmd b i
      (badSource c || v.termBad ty c || v.namesAbsent c, pool + 64 * i)

/-- The ranges of the periods are ascending and disjoint, and cover just the entries that are not RECOMPUTE (R327). -/
def periodsCover (b : Bytes) : Bool :=
  let ranges := (List.range (ttPeriods b)).map fun p => (ttPer b (p + 1) 0 2, ttPer b (p + 1) 2 2)
  ranges.flatMap (fun r => (List.range r.2).map (r.1 + ·))
    == (List.range (ttEntries b)).filter fun e => !entRecompute b e

/-- R326, R327, R338 for a LEARN, GENERATE or EXAM section. -/
def State.combTimetable (v : State) (ty : Nat) : List Chk :=
  let b := v.sect ty
  let t := leAt b 0xC 4
  [(!fits b t (ttPeriods b) 16, 0xC)] ++ v.combEntries ty b (ttEntries b) (ttCommands b)
    ++ [(ty != tyExam && decide (0 < leAt b 0x28 4 ∧ v.objLockers < leAt b 0x24 4 + leAt b 0x28 4), 0x24)]
    ++ if fits b t (ttPeriods b) 16 ∧ fits b (leAt b 0x10 4) (ttEntries b) 16 then
      [(!periodsCover b, t)]
        ++ (List.range (ttPeriods b)).map fun p =>
          let bell := ttPer b (p + 1) 6 2
          (bell != 0xFFFF && decide (v.objBells ≤ bell), t + 16 * p + 6)
    else []

/-! ## Conditions between the forms -/

/-- The conditions that compare the views of all forms, with the section they name (Table: Cross-section conditions, R42,
R327). -/
def crossForms (vs : List State) : List (Nat × Chk) :=
  match vs with
  | [] => []
  | v :: _ =>
    let same (f : State → Nat) : Bool := vs.all fun w => f w == f v
    let kinds (ty : Nat) (w : State) : List Nat :=
      let b := w.sect ty
      ttPeriods b :: (List.range (ttPeriods b)).map fun p => ttPer b (p + 1) 4 1
    [(tyBenches, (!same State.gang, 0)), (tyTiers, (!same (fun w => b2n w.t3Present), 0x19)),
     (tyTiers, (decide (2 ^ 42 < (vs.map State.t3Size).sum), 0x40))]
    ++ [tyLearn, tyGenerate, tyExam].map fun ty =>
      let holders := vs.filter fun w => w.hasSect ty
      (ty, (holders.any fun w => kinds ty w != kinds ty (holders.headD v), 0))

/-- The conditions of section `ty` in the view `v`; `o`: the view in force under a partial image; `half`: the second half
of the store in force. -/
def State.combChecks (v : State) (forms half : Nat) (o : Option State) (ty : Nat) : List Chk :=
  match ty with
  | 1 => v.combFederation forms
  | 2 => v.combBenches
  | 3 => v.combCloakroom
  | 4 => v.combTiers (if o.isSome then none else some half)
  | 5 => v.combObjects
  | 6 => v.combRoster forms
  | 0x10 => v.combPortsplit
  | 0x11 => v.combFabric forms (o.map State.trayMode)
  | 0x12 => v.combPlanner
  | 0x13 => v.combNumerics ++ v.combAreas tyNumerics
  | 0x14 => v.combMarker ++ v.combAreas tyMarker ++ (match o with
    | some o => v.combMarkerPart o
    | none => [])
  | 0x16 => v.combSync ++ v.combAreas tySync
  | 0x20 => v.combTimetable tyLearn
  | 0x21 => v.combTimetable tyGenerate
  | 0x22 => v.combTimetable tyExam
  | 0x23 => let b := v.sect tyCheckpoint; v.combEntries tyCheckpoint b (ckEntries b) (leAt b 0xC 4)
  | _ => []

end Sys2Proof.Machine
end

