-- ==== Sys2Proof/Machine/Syllabus.lean ====
section
/-! DEFINITION. The loader (R32 to R64): images, the verification in nine steps (R50), sources, full loads (R57), partial loads
(R60 to R62); the commands SYL_START_FULL, SYL_START_PARTIAL, SYL_ABORT, SYL_PUSH_DATA, SYL_IMAGE_RECEIVED, FULL_LOAD_APPLY. -/

namespace Sys2Proof.Machine

/-! ## Images -/

/-- An entry of the section directory. -/
structure DirEnt where
  idx : Nat
  ty : Nat
  mask : Nat
  off : Nat
  len : Nat
  deriving DecidableEq, Repr

def imgDir (b : Bytes) : List DirEnt :=
  (List.range (leAt b 0xC 2)).map fun i =>
    let a := 0x40 + 16 * i
    { idx := i, ty := leAt b a 2, mask := leAt b (a + 2) 1, off := leAt b (a + 4) 4, len := leAt b (a + 8) 4 }

/-- FORMS of the header; 1 when it is no legal value. Step 5 counts by it the forms of R33 and R34: the spec does not say
whether they are the header's or the package's, which step 9 compares (DESIGN CHOICE, log 50). -/
def imgForms (b : Bytes) : Nat := if [2, 4, 8].contains (leAt b 0xF 1) then leAt b 0xF 1 else 1

def onForm (mask f : Nat) : Bool := (mask >>> f) % 2 == 1

/-- The sections of an image but for the signature. -/
def imgAll (b : Bytes) : List (Nat × Nat × Bytes) :=
  ((imgDir b).filter fun e => e.ty != 0xFFFF).map fun e => (e.ty, e.mask, slice b e.off e.len)

/-- The sections addressed to form `f`. -/
def formSects (all : List (Nat × Nat × Bytes)) (f : Nat) : Tab Bytes :=
  (all.filter fun e => onForm e.2.1 f).foldl (fun t e => Tab.put t e.1 e.2.2) []

/-- Start of the signature: the last 256 bytes. -/
def sigOff (b : Bytes) : Nat := b.length - 256

/-- The image as it is held once verified: for form `f`. -/
def imgOf (b : Bytes) (f : Nat) : Image :=
  { kind := leAt b 6 1, level := leAt b 7 1, serial := leAt b 0x10 4, baseSerial := leAt b 0x14 4
    applyStep := leAt b 0x18 4, digest := sha384 (b.take (sigOff b)), ownerKey := slice b (sigOff b) 96
    len := b.length
    sect := formSects (imgAll b) f, all := imgAll b }

/-! ## Verification (R50) -/

/-- A failed check: the code, and SECTION and OFFSET of SYL_ERR. -/
abbrev SylBad := Ev × Nat × Nat

/-- Steps 1 to 4; `kind` as SYL_CTRL.MODE asks. The straps of forms other than the head do not count (R13). -/
def State.verifyHead (s : State) (kind : Nat) (b : Bytes) : Option SylBad :=
  let last := (leAt b 0xC 2 + 255) % 256
  let lv := leAt b 7 1
  let key := slice b (sigOff b) 96
  let bad := firstBad
    [(leAt b 0 4 != 0x5A53594C, 0), (leAt b 4 2 != 3, 4), (leAt b 6 1 != kind, 6),
     (leAt b 8 4 != b.length || decide (2 ^ 26 < b.length), 8)]
  match bad with
  | some o => some (evSylFormat, 0xFF, o)
  | none =>
    if digestBytes (sha384 key) ≠ ((s.part.fuses.drop 4).take 6).flatMap (fun w => leBytes 8 w.toNat) then
      some (evSylKey, last, 0)
    else if !ecdsaVerify key (sha384 (b.take (sigOff b))) (slice b (sigOff b + 0x60) 96) then
      some (evSylSignature, last, 0x60)
    else if (if kind = 1 then s.head && decide (lv < strapLevel s.part.compat) else lv != s.level) then some (evSylLevel, 0xFF, 7)
    else none

/-- A type of a structure section. -/
def structType (ty : Nat) : Bool := decide (1 ≤ ty ∧ ty ≤ 7)
/-- The types that a full image must carry (Table: Section types). -/
def requiredTypes : List Nat := [1, 2, 3, 4, 5, 6, 7, 0x12, 0x13, 0x14]

/-- Directory entry `e`, with the entries before it, breaks R33, R34 or the layout of the directory, for the forms that
`imgForms` counts (log 50). -/
def dirEntBad (b : Bytes) (full : Bool) (before : List DirEnt) (e : DirEnt) : Bool :=
  let n := leAt b 0xC 2
  let last := e.idx + 1 == n
  let forms := 2 ^ imgForms b - 1
  (sectFixed e.ty).isNone || ((e.ty == 0xFFFF) != last) || e.mask == 0
    || e.off % 64 != 0 || e.len % 64 != 0 || decide (e.off < 0x40 + 16 * n ∨ b.length < e.off + e.len)
    || (last && (e.off != sigOff b || e.len != 256 || Nat.land e.mask forms != forms))
    || (!full && structType e.ty)
    || before.any fun d => meets d.off d.len e.off e.len
      || (d.ty == e.ty && Nat.land (Nat.land d.mask e.mask) forms != 0)

/-- Step 5. -/
def dirCheck (b : Bytes) (full : Bool) : Option SylBad :=
  let n := leAt b 0xC 2
  if n < 2 ∨ 64 < n then some (evSylSection, 0xFF, 0xC)
  else
    let d := imgDir b
    match d.find? fun e => dirEntBad b full (d.take e.idx) e || decide (e.len < (sectFixed e.ty).getD 0) with
    | some e => if dirEntBad b full (d.take e.idx) e then some (evSylSection, 0xFF, 0x40 + 16 * e.idx)
        else some (evSylSection, e.idx, 0)
    | none =>
      let has (f ty : Nat) : Bool := d.any fun e => e.ty == ty && onForm e.mask f
      let lacks (f : Nat) : Bool :=
        (requiredTypes.any fun ty => !has f ty) || !(has f tyLearn || has f tyGenerate || has f tyExam)
      if full && (List.range (imgForms b)).any lacks then some (evSylSection, 0xFF, 0x40) else none

/-- Form `f` with these sections in force. -/
def State.view (s : State) (im : Image) (all : List (Nat × Nat × Bytes)) (f : Nat) : State :=
  { s with part := { s.part with form := f }, syl := some { im with sect := formSects all f, all := all } }

/-- The first section in directory order for which a check of `chk` fails at some form it names. -/
def firstSection (b : Bytes) (chk : Nat → Nat → List Chk) (ev : Ev) : Option SylBad :=
  ((imgDir b).filter fun e => e.ty != 0xFFFF).findSome? fun e =>
    (firstBad (((List.range (imgForms b)).filter (onForm e.mask)).flatMap fun f => chk f e.ty)).map
      fun o => (ev, e.idx, o)

/-- Step 8: header, directory, signature section, then the sections. -/
def State.limitCheck (s : State) (b : Bytes) (im : Image) (all : List (Nat × Nat × Bytes)) : Option SylBad :=
  let n := leAt b 0xC 2
  let full := im.kind == 1
  let head := firstBad <|
    [inRange b 7 1 2 3, inRange b 0xE 1 0 3, oneOf b 0xF 1 [1, 2, 4, 8]]
      ++ (if full then zeros b 0x14 8 else []) ++ zeros b 0x1C 4 ++ zeros b 0x30 16
      ++ (if 2 ^ 26 < imageBytes all then [(true, 8)] else [])
      ++ (List.range n).flatMap fun i => zeros b (0x43 + 16 * i) 1 ++ zeros b (0x4C + 16 * i) 4
  match head with
  | some o => some (evSylLimit, 0xFF, o)
  | none =>
    match firstSection b (fun f ty => (s.view im all f).limChecks ty) evSylLimit with
    | some e => some e
    | none => (firstBad (zeros (slice b (sigOff b) 256) 0xC0 64)).map fun o => (evSylLimit, n - 1, o)

/-- Second half of the store in force at form `f` (R51). -/
def State.secondHalf (s : State) (f : Nat) : Nat :=
  (match s.syl with
   | none => 0
   | some im => (s.view im im.all f).t1Store) + 2 ^ 26

/-- The types whose sections the image does not carry for form `f`. -/
def keptTypes (b : Bytes) (f : Nat) : List Nat :=
  ((requiredTypes ++ [0x10, 0x11, 0x15, 0x16, 0x20, 0x21, 0x22, 0x23]).filter fun ty =>
    !(imgDir b).any fun e => e.ty == ty && onForm e.mask f)

/-- Step 9: the header, the sections of the image in directory order, then the sections that it leaves in force. -/
def State.combCheck (s : State) (b : Bytes) (im : Image) (all : List (Nat × Nat × Bytes)) : Option SylBad :=
  let forms := imgForms b
  let full := im.kind == 1
  let old (f : Nat) : Option State := if full then none else s.syl.map fun o => s.view o o.all f
  let chk (f ty : Nat) : List Chk := (s.view im all f).combChecks forms (s.secondHalf f) (old f) ty
  let cross := crossForms ((List.range forms).map (s.view im all))
  if leAt b 0xE 1 ≠ s.part.set then some (evSylCombination, 0xFF, 0xE)
  else if leAt b 0xF 1 ≠ s.forms ∨ (s.part.set = 3 ∧ s.part.fed = 0) then some (evSylCombination, 0xFF, 0xF)
  else
    match firstSection b (fun f ty => chk f ty ++ (cross.filter fun c => c.1 == ty).map Prod.snd) evSylCombination with
    | some e => some e
    | none =>
      let rest := (List.range forms).flatMap fun f => (keptTypes b f).flatMap (chk f)
      if (firstBad (rest ++ cross.map Prod.snd)).isSome then some (evSylCombination, 0xFF, 0) else none

/-- Steps 6 and 7, of partial images. -/
def State.partialCheck (s : State) (im : Image) : Option SylBad :=
  match s.syl with
  | none => some (evSylBase, 0xFF, 0x14)
  | some f =>
    if im.baseSerial ≠ f.serial then some (evSylBase, 0xFF, 0x14)
    else if 2 ^ 31 ≤ (im.applyStep + 2 ^ 32 - s.stepCtr.toNat) % 2 ^ 32 then some (evSylLate, 0xFF, 0x18)
    else none

/-- The image verified in the order of Table: Verification order: the first failure, if any. -/
def State.verify (s : State) (kind : Nat) (b : Bytes) : Option SylBad :=
  match s.verifyHead kind b with
  | some e => some e
  | none =>
    match dirCheck b (kind == 1) with
    | some e => some e
    | none =>
      let im := imgOf b s.part.form
      let all := match s.syl with
        | some f => if kind = 1 then im.all else mergeAll f.all im.all
        | none => im.all
      let late := if kind = 1 then none else s.partialCheck im
      match late with
      | some e => some e
      | none =>
        match s.limitCheck b im all with
        | some e => some e
        | none => s.combCheck b im all

/-! ## The loader's state -/

def State.modLoad (s : State) (f : Loader → Loader) : State := { s with load := f s.load }

/-- A refusal recorded in SYL_ERR. -/
def State.sylRefuse (s : State) (e : SylBad) : State := s.logEv e.1 (at_ 40 (e.2.1 % 256) + e.2.2 % 2 ^ 26)

/-- The load in progress ends, with a refusal. -/
def State.sylEnd (s : State) (e : SylBad) : State :=
  (s.modLoad fun l => { l with phase := 0, recv := [], verified := none }).sylRefuse e

/-- FMAX does not rise strictly, exceeds the set's maximum clock, or DSCALE does not fall (R401). -/
def State.vfBad (s : State) : Bool :=
  let fmax (k : Nat) : Nat := s.regF (aPwrVf + 8 * k) 0 16
  let dsc (k : Nat) : Nat := s.regF (aPwrVf + 8 * k) 32 16
  ((List.range 7).any fun k => decide (fmax (k + 1) ≤ fmax k ∨ dsc k ≤ dsc (k + 1)))
    || (List.range 8).any fun k => decide (fsetOf s.part.set < fmax k)

/-- A START is refused with SYL_BUSY (R52, R53, R55, R62, R351, R401); `halted`: every other form's tutor is HALTED. -/
def State.sylBusy (s : State) (kind : Nat) (push : Bool) (halted : Bool := true) : Bool :=
  !s.part.whole || !s.head || s.load.phase != 0 || (push && s.load.loaded && !s.hostPush)
    || (kind == 1 && (s.tut.st != 0 || !halted || s.vfBad))

/-- SYL_SRC_ADDR. -/
def State.sylSrc (s : State) : Nat := s.regF aSylSrc 6 42 * 64

/-- SYL_CTRL.START with MODE `kind` (1 full, 2 partial) and SOURCE `src`. -/
def State.sylStart (s : State) (kind src : Nat) (halted : Bool := true) : State :=
  let s := (s.setF aSylCtrl 4 2 kind).setF aSylCtrl 2 1 src
  let s := s.wake
  let push := src == 1
  if s.sylBusy kind push halted then s.sylRefuse (evSylBusy, 0xFF, 0)
  else
    let s := s.modLoad fun l => { l with
      phase := 1, kind := kind, push := push, recv := [], pushed := 0, verified := none
      pend := if kind = 1 then none else l.pend }
    if push then s
    else if meets s.sylSrc (2 ^ 26) (s.secondHalf s.part.form) (2 ^ 26) then s.sylEnd (evSylSource, 0xFF, 0)
    else s.emit (.store false s.sylSrc 64)

/-- The head form has started a full load: this form's pending partial image is discarded (R62). -/
def State.sylStarted (s : State) : State := if s.head then s else s.modLoad fun l => { l with pend := none }

/-- A push is in progress and its last byte has not come. -/
def State.pushing (s : State) : Bool :=
  s.load.phase == 1 && s.load.push
    && (decide (s.load.recv.length < 64) || decide (s.load.recv.length < leAt s.load.recv 8 4))

/-- SYL_CTRL.ABORT: it ends a push whose last byte has not come (R53). -/
def State.sylAbort (s : State) : State :=
  let s := s.wake
  if s.pushing then s.sylEnd (evSylSource, 0xFF, 0) else s

/-- Eight bytes pushed (R53, R64). -/
def State.sylPush (s : State) (w : Word) : State :=
  if !s.pushing then s.logEv evHostAccessViolation 0
  else
    let at_ := s.secondHalf s.part.form + s.load.pushed
    let s := s.modLoad fun l => { l with recv := l.recv ++ leBytes 8 w.toNat, pushed := l.pushed + 8 }
    let s := s.emit (.store true at_ 8)
    let n := leAt s.load.recv 8 4
    if s.load.pushed = 64 ∧ (n < 64 ∨ 2 ^ 26 < n) then s.sylEnd (evSylSource, 0xFF, 8) else s

/-- The head form sends each other form the sections of a verified image that name it (R52). -/
def State.sendSections (s : State) (im : Image) : State :=
  if !s.head then s
  else (List.range (s.forms - 1)).foldl (fun s i => s.emit (.sections (i + 1) (formSects im.all (i + 1)))) s

/-- A verified image: it goes to the other forms (R52); a partial one becomes pending (R60, R62), a full one waits for all forms
(R57) and discards a pending partial (R62). -/
def State.sylVerified (s : State) (im : Image) : State :=
  let s := s.sendSections im
  if im.kind = 1 then s.modLoad fun l => { l with phase := 3, kind := 1, verified := some im, pend := none, recv := [] }
  else
    let s := if s.load.pend.isSome then s.logPlain evSylPartialReplaced else s
    s.modLoad fun l => { l with phase := 0, pend := some im, recv := [] }

/-- The image has come: by the push, or from T1 as `img`; `ok`: no source read failed. -/
def State.imageReceived (s : State) (img : Bytes) (ok : Bool) : State :=
  let mine := s.head && s.load.phase == 1
  if s.head ∧ (!mine ∨ s.pushing) then s
  else if !s.part.whole then s.sylEnd (evSylBusy, 0xFF, 0)
  else
    let b := if mine && s.load.push then s.load.recv else img
    let kind := if s.head then s.load.kind else if leAt b 6 1 = 2 then 2 else 1
    if !ok then s.sylEnd (evSylSource, 0xFF, 0)
    else
      let s := if mine && !s.load.push then s.emit (.store true (s.secondHalf s.part.form) b.length) else s
      match s.verify kind b with
      | some e => s.sylEnd e
      | none => s.sylVerified (imgOf b s.part.form)

/-! ## Full-load application (R57, Table: Reset kinds) -/

/-- The registers that a full load sets to zero (R93, R115, R144, R167, R219, R239, R297, R325, R346, R406). -/
def loadCleared : List Nat :=
  [aLkrCount, aLkrStats, aPlnDec0, aPlnDec1, aPlnStats, aPlnRecalls, aBncBusy, aBncBusy + 8, aBncBusy + 16, aBncBusy + 24,
   aBncTiles, aBncTiles + 8, aBncTiles + 16, aBncTiles + 24, aBncRecomp, aNumCount0, aNumCount1]
  ++ ((List.range 6).map fun i => aStmStall + 8 * i)
  ++ ((List.range 12).map fun i => aCmpRaw + 8 * i)
  ++ [aFabLinkerr, aFabLinkerr + 8, aFabViol, aFabViol + 8, aFabMcast, aFabVlogPtr]
  ++ ((List.range 512).map fun i => aFabVlog + 8 * i)
  ++ [aRclDiv, aRclDone, aRclAborts, aRclLate, aRclLat, aTtbCount, aPwrThrottle]

/-- The registers as a full load leaves them; every SETCNT is cleared (R20). -/
def State.clearRegs (s : State) : State :=
  let s := loadCleared.foldl (fun s a => s.setReg a 0) s
  let s := (List.range 16).foldl (fun s u => match evAddr u with
    | some a => s.setF a 48 16 0
    | none => s) s
  s.setF aPwrEst 32 16 0

/-- Fabric ports to DOWN, their violation windows empty, fenced ports and links held in reset (R280, R290, R36). -/
def State.linksAtLoad (s : State) : State :=
  let s := [0, 1].foldl (fun s p => (s.leaveUp p lsDown 4).modFlink p fun l => { l with window := 0 }) s
  { s with fab := { s.fab with
    conns := [], rconns := [], mcast := [], chainDone := [], chainHold := [], chainWait := [], relays := [], vlogNext := [] } }

/-- Fenced ports are FENCED, the others that were start DOWN. -/
def State.fenceLinks (s : State) : State :=
  (List.range 6).foldl (fun s p =>
    let live := s.portLive p
    let st := (s.flink p).st
    if !live then (if st = 0 then s else s.modFlink p fun _ => (default : FLink))
    else if st = 0 then s.modFlink p fun l => { l with st := lsDown } else s) s

/-- Orders 1 to 3 of Table: Full-load application: work abandoned, objects at their reset values, the cloakroom zeroed. -/
def State.loadClear (s : State) : State :=
  let s := (s.lkrs.map Prod.fst).foldl State.abortLkr s
  let s := s.dropJobs fun k => match k with
    | .tileWr .plain _ _ _ _ _ => false
    | _ => true
  let s := s.linksAtLoad
  let keepErr : ErrSt := { ErrSt.reset with
    nextId := s.err.nextId, warmNeeded := s.err.warmNeeded, peerLow := s.err.peerLow, restoreNeeded := s.err.restoreNeeded, armed := s.err.armed
    ceLogged := s.err.ceLogged }
  let mkr : MkrSt := { MkrSt.reset with torn := s.mkr.torn }
  let sync : SyncSt := { SyncSt.reset with
    stage := s.sync.stage, lastQ := s.sync.lastQ, dlRecords := s.sync.dlRecords, dlBlocked := s.sync.dlBlocked
    dlFirst := s.sync.dlFirst }
  { s with
    stms := [], crs := [], crsEng := CrsEng.reset, lkrs := [], bells := [], asms := [], ques := [], flights := []
    slots := [], sync := sync, tut := Tutor.reset, pln := { Planner.reset with live := s.pln.live }, mkr := mkr
    bnc := { prods := [], philoxDue := true, rung := [], buf := [], writing := [], stat := [], parts := [] }, rcl := RclSt.reset, err := keepErr
    rst := none, exp := none, ckp := none, t0 := [], t0Poison := [] }

/-- Orders 4 to 7: fences, sections, level, step counter, serials, SYL_LOADED. -/
def State.loadInstall (s : State) (im : Image) (cycles : Nat) : State :=
  let n := im.len
  let s := s.emit (.store false (s.secondHalf s.part.form) n)
  let s : State := { s with
    syl := some im, level := if s.head then max (strapLevel s.part.compat) im.level else im.level, stepCtr := 0
    load := { s.load with phase := 0, verified := none, pend := none, loaded := true }
    sec := { s.sec with
      rosterFailed := [], winScales := s.sec.winScales.filter fun e => e.1 % 2 == 1, winOrig := [] }
    pwr := { s.pwr with vfLocked := true, readDue := true } }
  let s := s.emit (.store true s.t1Store n)
  let s := (s.setMasks.fenceLinks).clearRegs
  let s := (s.setF aSylSerial 32 32 im.serial).setF aSylSerial 0 32 im.serial
  let s := (s.setReg aSylTime (word cycles)).setReg aMkrLr (word (s.mkField 0x30 4))
  (s.logPlain evSylLoaded).readRecords

/-- The form holds no syllabus (R59). -/
def State.dropSyllabus (s : State) : State :=
  (({ s with syl := none } : State).modLoad fun l => { l with phase := 0, verified := none, pend := none })
    |>.modTut fun _ => Tutor.reset

/-- FULL_LOAD_APPLY: every form has verified the image. A fault stops this form in orders 1 to 6, or another one, whether or not
this one has applied its image yet (R59). -/
def State.fullLoadApply (s : State) (cycles : Nat) (last : Sys2Proof.ApplyEnd) : State :=
  match s.load.verified, last with
  | none, .peer | some _, .peer => s.loadClear.dropSyllabus
  | none, _ => s
  | some _, .fault => s.loadClear.dropSyllabus.sylRefuse (evSylApplyFail, 0xFF, 0)
  | some im, .done => s.loadClear.loadInstall im cycles

/-! ## The commands -/

def execSylStartFull (start : Sys2Proof.LoadStart) (s : State) : Res :=
  match start with
  | .host src halted => .next (s.sylStart 1 src.toNat halted)
  | .relay => .next s.sylStarted
def execSylStartPartial (src : BitVec 1) (s : State) : Res := .next (s.sylStart 2 src.toNat)
def execSylAbort (s : State) : Res := .next s.sylAbort
def execSylPushData (w : Word) (s : State) : Res := .next (s.sylPush w)
def execSylImageReceived (img : Bytes) (ok : Bool) (s : State) : Res := .next (s.imageReceived img ok)
def execFullLoadApply (cycles : BitVec 32) (last : Sys2Proof.ApplyEnd) (s : State) : Res :=
  .next (s.fullLoadApply cycles.toNat last)

end Sys2Proof.Machine
end

