-- ==== Sys2Proof/Machine/Checkpoint.lean ====
section
/-! DEFINITION. Checkpoints, restores and exports (R192, R385 to R388): the endpoint kinds STATE and SEALED of CHECKPOINT
entries, the sealed image, its restore, working copies in plaintext; the commands STREAM, STREAM_ENTRY_ISSUE,
SATCHEL_RECEIVE (which serve contexts of both sorts), CHECKPOINT_END, SEC_RESTORE_START, RESTORE_COMPLETE, SEC_EXPORT_START,
EXPORT_COMPLETE. -/

namespace Sys2Proof.Machine

/-! ## The endpoints STATE and SEALED (R385) -/

/-- A SEALED endpoint names a FABRIC connection (BASE[59]); the connection's endpoint word, with its VC forced to 3. -/
def sealFab (w : Word) : Bool := bitAt w 59
def sealWord (w : Word) : Word := setFld w 40 2 3
/-- Far-port address of a SEALED endpoint. -/
def sealAddr (w : Word) : Nat := fld w 0 48

/-- A SEALED endpoint that START allows: a far-port address that is a multiple of 4 KiB, or a unicast connection (log 51). -/
def State.sealedOk (s : State) (w : Word) : Bool :=
  if sealFab w then s.fabricEpOk (sealWord w) true && decide (epEndpoint w < 0xE000)
  else decide (sealAddr w % 4096 = 0)

/-- A STREAM command of a CHECKPOINT entry that names STATE or SEALED. -/
def State.ckptCmd (s : State) (q : Nat) : Bool :=
  match s.issuedTo q 0x30 with
  | some (cmd, some t) => t.kind == 1 && (epKind (word (sSrc cmd)) == 9 || epKind (word (sDst cmd)) == 0xA)
  | _ => false

/-- What START refuses: STATE and SEALED go together (log 51), COUNT lies in its range. -/
def State.ckptBad (s : State) (x : Stream) : Bool :=
  epKind x.src != 9 || epKind x.dst != 0xA || decide (x.count = 0 ∨ 2 ^ 24 < x.count) || !s.sealedOk x.dst

/-- A domain key is installed for the SEAL_DOMAIN in force. -/
def State.domainHeld (s : State) : Bool := s.sec.domain.any fun d => d.2 == s.sealDomain

/-- The pass of a checkpoint context begins: its connection, the image's place and key; without a domain key it halts. -/
def State.ckptBegin (s : State) (c : Nat) : State :=
  let x := s.stm c
  let s := s.beginPass c false
  if !s.domainHeld then (s.logEv evSecDomain 0).haltWith c evSecDomain.code 0xA 0
  else
    let k : Ckpt := s.ckp.getD { index := [], base := none, key := 0, writes := 0, phase := 0 }
    let s : State := { s with ckp := some { k with base := some x.dst, key := (s.ckptKey s.tut.ckptApplied).getD 0 } }
    if !sealFab x.dst then s
    else
      let dst := (s.coordOfNode (epNode x.dst)).getD 0
      match s.routePort dst (epForm x.dst) (epEndpoint x.dst) with
      | none => s.haltCtx c evStmBusErr 0xA 0
      | some p =>
        let k : Conn := { port := p, dst := dst, form := epForm x.dst, ep := epEndpoint x.dst, vc := 3, msg := 0 }
        { s with fab := { s.fab with conns := Tab.put s.fab.conns c k } }

/-- The STREAM command of queue `q`, of a CHECKPOINT entry with STATE and SEALED. -/
def State.ckptStream (s : State) (q : Nat) : State :=
  match s.issuedTo q 0x30 with
  | none => s
  | some (cmd, _) =>
    let c := sCtx cmd
    let st := (s.stm c).st
    if st = 1 ∨ st = 3 then
      ((s.logEv evStmBusy (at_ 32 c)).modStm c fun x => { x with code := evStmBusy.code }).stopQueue q evStmBusy.code
    else
      let r := s.streamRegs cmd
      let s := s.modStm c fun x => { x with ctrl := r.1, index := r.2.1, src := r.2.2.1, dst := r.2.2.2 }
      if s.ckptBad (s.stm c) then
        ((s.logEv evStmIllegal (at_ 32 c)).modStm c fun x => { x with code := evStmIllegal.code }).stopQueue q evStmIllegal.code
      else
        let s := (s.acceptCmd q false).modStm c fun x => { x with runBy := some q }
        (s.ckptBegin c).stir

/-! ## Records read and sealed (R385, R386) -/

/-- Context `c` reads records of the checkpoint order. -/
def State.isCkptCtx (s : State) (c : Nat) : Bool := epKind (s.stm c).src == 9 && !(s.stm c).fed

/-- Entry `e`: its record is read, coded as it lies in T2. -/
def State.ckptRead (s : State) (c : Nat) (e : SEnt) : State :=
  let rd := { s.recordTileRd e.src (.stream c e.i) with pass := true }
  s.fetchTile rd

/-- Entries put back by a recovery that has ended without their tile are read again (log 48). -/
def State.ckptAgain (s : State) (c : Nat) : State :=
  let idle := (s.stm c).ents.filter fun e => e.stage == 0
    && !(s.err.recov.any fun r => r.waiters.any fun u => u == .stream c e.i)
  idle.foldl (fun s e => (s.modEntry c e.i fun e => { e with stage := 1 }).ckptRead c e) s

/-- The next record of a checkpoint context: the index list is ignored (R385). -/
def State.ckptIssue (s : State) (c : Nat) : State :=
  let s := s.ckptAgain c
  let x := s.stm c
  let i := x.issued
  if x.st ≠ 1 ∨ x.count ≤ i ∨ 16 ≤ x.ents.length then s
  else if bitAt x.ctrl 16 && decide (s.bell (fld x.ctrl 48 16) < i + 1) then s.modStm c fun x => { x with cause := 5 }
  else
    let r := epFirst x.src + i
    if s.ckptRecords ≤ r then s.haltCtx c evIndexRange 9 i
    else
      let e : SEnt := { i := i, src := r, dst := r, stage := 1, consuming := false, sat := [] }
      (s.modStm c fun x => { x with issued := i + 1, cause := 0, ents := x.ents ++ [e] }).ckptRead c e

/-- The runs of at most 32,896 bytes in which a part of the image goes over a connection (log 51). -/
def sealRuns (b : Bytes) : List Bytes :=
  (List.range ((b.length + recordSize - 1) / recordSize)).map fun i => (b.drop (recordSize * i)).take recordSize

/-- One run sent as message `i` to a SEALED connection. -/
def State.sealSend (s : State) (port dst form ep i : Nat) (b : Bytes) : State :=
  let n := (b.length + 4095) / 4096
  (List.range n).foldl (fun s k =>
    (s.sendTo tData 3 dst form ep ((b.drop (4096 * k)).take 4096) (decide (k + 1 = n)) false
      (at_ 4 (i % 2 ^ 28) + k) (some port)).getD s) s

/-- The record of entry `e` sealed and sent on its way: to its place behind the far port, or over the connection. -/
def State.sealRecord (s : State) (c : Nat) (e : SEnt) : State :=
  match s.ckp with
  | none => s
  | some k =>
    let hb := satHdr e.sat
    let n := storedLen (Hdr.read hb)
    let b := recordBytes k.key e.dst hb (slice (satPay e.sat) 0 n)
    let k := { k with index := Tab.put k.index e.dst (s.indexEntry e.dst n) }
    let w := (s.stm c).dst
    if sealFab w then
      let s : State := { s with ckp := some k }
      let cn := Tab.get s.fab.conns c
      let s := s.sealSend cn.port cn.dst cn.form cn.ep cn.msg b
      let s : State := { s with fab := { s.fab with conns := Tab.put s.fab.conns c { cn with msg := cn.msg + 1 } } }
      s.delivered c e.i
    else
      let s : State := { s with ckp := some { k with writes := k.writes + 1 } }
      let s := s.modEntry c e.i fun e => { e with stage := 3, sat := [] }
      s.startJob (.raw 10 (c * 2 ^ 25 + e.i)) fun id => s.writeReqs 2 (sealAddr w + recordOff e.dst) b .write c id 0

/-- The next record in order, checked as a satchel (R78), sealed. -/
def State.ckptReceive (s : State) (c : Nat) : State :=
  match s.nextReady c with
  | none => s
  | some e =>
    if satOk e.sat none then s.sealRecord c e
    else s.haltCtx c evSatchelBad 0xA e.i s.part.form

/-! ## The end of a checkpoint (R386) -/

/-- The index: an entry for each record written, in record order. -/
def Ckpt.indexBytes (k : Ckpt) : Bytes := k.index.flatMap Prod.snd

/-- Nonce of the head. -/
abbrev headNonce : Nat := 0xFFFFFFFFFFFFFFFF

/-- The head, bytes 0x00 to 0xEF, then its tag. -/
def State.sealHead (s : State) (key : Nat) : Bytes :=
  let serial := match s.syl with
    | some im => im.serial
    | none => 0
  let b := leBytes 4 0x5A434B50 ++ leBytes 2 1 ++ leBytes 1 s.part.form ++ leBytes 1 0 ++ leBytes 2 s.ownCoord ++ leBytes 6 0
    ++ leBytes 16 s.sealDomain.toNat ++ leBytes 4 s.tut.ckptApplied ++ leBytes 4 (s.regF aMkrApplied 32 32)
    ++ leBytes 4 serial ++ leBytes 4 s.ckptRecords ++ leBytes 8 (s.reg aMkrStepDigest).toNat ++ leBytes 184 0
  b ++ gcmTag key headNonce b []

/-- Every command of the checkpoint's entries has completed. -/
def State.ckptStreamed (s : State) : Bool := s.tut.runs.all fun r => r.kind != 1 || r.ended

/-- The checkpoint is over; `ok`: its image is whole. -/
def State.ckptFinish (s : State) (ok : Bool) : State :=
  let k := s.ckp
  let s := s.modTut fun t => { t with ckpt := false, runs := t.runs.filter fun r => r.kind != 1 }
  let s : State := { s with ckp := none }
  let inT3 (a : Nat) : Bool := s.tierPresent 3 && decide (s.t3Base ≤ a ∧ a < s.t3Base + s.t3Size)
  let s := match k.bind Ckpt.base with
    | some w =>
      if ok ∧ !sealFab w ∧ inT3 (sealAddr w) then
        (s.setReg aSecCkpt (word (at_ 32 s.tut.ckptApplied + s.ckptRecords))).setReg aSecCkptAddr (word (sealAddr w))
      else s
    | none => s
  let s := if ok then (s.logEv evCkptDone 0).incF aTtbCount 0 16 1 else s
  if s.tut.phase = 4 then (s.modTut fun t => { t with phase := 0 }).goOn else s.haltDone

/-- A part of the image written behind the far port, for the security engine. -/
def State.sealWrite (s : State) (phase off : Nat) (w : Word) (b : Bytes) : State :=
  let s : State := { s with ckp := s.ckp.map fun k => { k with phase := phase } }
  s.startJob (.raw 10 (2 ^ 40 + phase)) fun id => s.writeReqs 2 (sealAddr w + off) b .write 4112 id 0

/-- Index and head over a connection, as messages after one another. -/
def State.sealOver (s : State) (w : Word) (parts : List Bytes) : State :=
  let dst := (s.coordOfNode (epNode w)).getD 0
  match s.routePort dst (epForm w) (epEndpoint w) with
  | none => s.ckptFinish false
  | some p =>
    let runs := parts.flatMap sealRuns
    (runs.zipIdx.foldl (fun s r => s.sealSend p dst (epForm w) (epEndpoint w) r.2 r.1) s).ckptFinish true

/-- CHECKPOINT_END: every context has ended; the index and then the head follow, and the end. -/
def State.checkpointEnd (s : State) : State :=
  match s.ckp with
  | none => s
  | some k =>
    if !s.tut.ckpt ∨ k.phase ≠ 0 ∨ k.writes ≠ 0 ∨ !s.ckptStreamed then s
    else match k.base with
    | none => s.ckptFinish true
    | some w =>
      let idx := gcmSeal k.key s.ckptRecords [] k.indexBytes
      if sealFab w then s.sealOver w [idx, s.sealHead k.key]
      else s.sealWrite 1 (recordOff s.ckptRecords) w idx

/-- A write of the image has ended: a record, the index, the head. -/
def State.sealWrote (s : State) (tag : Nat) (ok : Bool) : State :=
  match s.ckp with
  | none => s
  | some k =>
    if tag < 2 ^ 40 then
      let s : State := { s with ckp := some { k with writes := k.writes - 1 } }
      let c := tag / 2 ^ 25
      let i := tag % 2 ^ 25
      if !(s.stm c).running || !((s.stm c).ents.any fun e => e.i == i) then s
      else if ok then s.delivered c i else s.haltCtx c evStmBusErr 0xA i
    else if !ok then s.ckptFinish false
    else if tag = 2 ^ 40 + 1 then
      match k.base with
      | some w => s.sealWrite 2 0 w (s.sealHead k.key)
      | none => s.ckptFinish true
    else s.ckptFinish true

/-! ## Restore (R192, R387) -/

/-- SEC_BUSY. -/
def State.secBusy (s : State) : State := s.logEv evSecBusy 0

/-- SEC_RESTORE_CTRL.START: only while the tutor is HALTED, and not twice at once (log 52). -/
def State.restoreStart (s : State) : State :=
  if s.tut.st ≠ 0 ∨ s.rst.isSome then s.secBusy
  else
    let s : State := { s with rst := some { step := 1, epoch := 0, next := 0, records := 0, key := 0, head := [], index := []
                                            kept := [], writes := 0, last := false } }
    s.startJob (.raw 8 0) fun id => s.readReqs 2 (s.regF aSecRestoreAddr 12 52 * 4096) 256 .read 4112 id 0

/-- A check fails: steps 1 to 5 change nothing, step 6 sets RESTORE_NEEDED. -/
def State.restoreBad (s : State) (step : Nat) : State :=
  let s := s.dropJobs fun k => match k with
    | .raw 8 _ => true
    | _ => false
  let s : State := { s with rst := none }
  let s := s.logEv evRestoreBad step
  if step = 6 then s.needRestore else s

/-- Base of the image that is restored. -/
def State.restoreBase (s : State) : Nat := s.regF aSecRestoreAddr 12 52 * 4096

/-- The record that is read next. -/
def State.restoreRead (s : State) (r : Nat) : State :=
  s.startJob (.raw 8 (2 + r)) fun id => s.readReqs 2 (s.restoreBase + recordOff r) recordSize .read 4112 id 0

/-- The first of steps 1 to 4 that the head fails. -/
def State.headFails (s : State) (b : Bytes) : Option Nat :=
  match s.ckptKey (leAt b 0x20 4) with
  | none => some 1
  | some key =>
    if slice b 0xF0 16 ≠ gcmTag key headNonce (slice b 0 0xF0) [] then some 1
    else if leAt b 0 4 ≠ 0x5A434B50 ∨ leAt b 4 2 ≠ 1 ∨ leAt b 6 1 ≠ s.part.form ∨ leAt b 8 2 ≠ s.ownCoord then some 2
    else if !s.domainHeld ∨ leAt b 0x10 16 ≠ s.sealDomain.toNat then some 3
    else if leAt b 0x2C 4 ≠ s.ckptRecords then some 4
    else none

/-- The head has come. -/
def State.restoreHead (s : State) (x : Restore) (b : Bytes) : State :=
  match s.headFails b with
  | some n => s.restoreBad n
  | none =>
    let n := leAt b 0x2C 4
    let key := (s.ckptKey (leAt b 0x20 4)).getD 0
    let s : State := { s with rst := some { x with step := 4, head := b, records := n, key := key } }
    s.startJob (.raw 8 1) fun id => s.readReqs 2 (s.restoreBase + recordOff n) (16 * n + 16) .read 4112 id 0

/-- The record number of the tile that an index entry names; none when no such tile exists. -/
def State.entryRecord (s : State) (e : Bytes) : Option Nat :=
  let p := leAt e 0 4
  let part := leAt e 4 1
  let t := leAt e 8 4
  if p = 0xFFFFFFFF then (if t < s.recSlots then some t else none)
  else if p < s.mkPieces ∧ part ≤ 5 ∧ t < s.partTiles p part then some (s.recordOf p part t)
  else none

/-- Entry `r` of the index. -/
def indexAt (b : Bytes) (r : Nat) : Bytes := slice b (16 * r) 16

/-- Step 4: every entry names a tile, and every tile is named once. -/
def State.indexOk (s : State) (b : Bytes) (n : Nat) : Bool :=
  let rs := (List.range n).filterMap fun r => s.entryRecord (indexAt b r)
  decide (rs.length = n) && decide (rs.Nodup)

/-- The index has come. Step 5 holds by the size read (RECORDS entries). -/
def State.restoreIndex (s : State) (x : Restore) (b : Bytes) : State :=
  let n := x.records
  match gcmOpen x.key n [] (b.take (16 * n)) (slice b (16 * n) 16) with
  | none => s.restoreBad 4
  | some idx =>
    if !s.indexOk idx n then s.restoreBad 4
    else
      let (ep, s) := s.takeEpoch
      let s : State := { s with rst := some { x with step := 6, epoch := ep, index := idx } }
      s.restoreRead 0

/-- A record slot as the restore writes it: piece records carry the restore's epoch, which their tiles carry. -/
def restoredSlot (k epoch pieces : Nat) (pay : Bytes) : Bytes :=
  (List.range 512).flatMap fun i =>
    let n := 512 * k + i
    let b := slice pay (64 * i) 64
    if n = 0 ∨ pieces < n then b else { PieceRec.read b with epoch := epoch }.bytes

/-- The kept record slots written, once every other record has passed and been rewritten. -/
def State.restoreSlots (s : State) (x : Restore) : State :=
  let s : State := { s with rst := some { x with last := true, writes := s.recSlots } }
  (List.range s.recSlots).foldl (fun s k =>
    let pay := restoredSlot k x.epoch s.mkPieces (Tab.get x.kept k)
    s.writeState (s.stateSlot (32768 * k) x.epoch) 0x3FFFF k 0 64 128 true .restore pay) s

/-- Nothing remains to be read or rewritten: the record slots follow. -/
def State.restoreOn (s : State) : State :=
  match s.rst with
  | none => s
  | some x => if x.step = 6 ∧ x.next = x.records ∧ x.writes = 0 ∧ !x.last then s.restoreSlots x else s

/-- The tile of a checked record rewritten with the restore's epoch: a coded one is checked and travels on coded, an eligible raw one
is coded (R222, R223, R232). A record slot is kept. The flag says that the tile is good. -/
def State.restoreTile (s : State) (x : Restore) (tile : RTile) (h : Hdr) (pay : Bytes) : Bool × State :=
  match tile with
  | .state_ p part t =>
    match (if h.cmp then s.expand 0 h.bytes (pay.take h.cmpLen) true else (.ok pay, s)) with
    | (.error _, s) => (false, s)
    | (.ok pay, s) =>
      let loc := s.stateSlot (s.stateOff p part t) x.epoch
      let g : TileGot := { ok := true, hdr := h.bytes, scales := [], pay := pay, coded := h.cmp }
      let ((h, pay), s) := s.forSlot loc.tier (p + at_ 18 s.part.form) t g
      let w := sealTile s loc h pay
      let s : State := { s with rst := some { x with writes := x.writes + 1 } }
      (true, (s.writePay .restore 4112 .write loc w.1 w.2 0 false).2)
  | .record k =>
    let r := s.recordTileOf h pay
    if r.1.ok then (true, { r.2 with rst := some { x with kept := Tab.put x.kept k r.1.pay } }) else (false, r.2)
  | _ => (false, s)

/-- Record `r` has come (step 6). -/
def State.restoreRecord (s : State) (x : Restore) (r : Nat) (b : Bytes) : State :=
  if r ≠ x.next then s else
  match openRecord x.key r b, s.entryRecord (indexAt x.index r) with
  | some (h, pay), some n =>
    (match s.restoreTile { x with next := r + 1 } (s.recordTile n) (Hdr.read h) pay with
    | (false, s) => s.restoreBad 6
    | (true, s) => if r + 1 < x.records then s.restoreRead (r + 1) else s.restoreOn)
  | _, _ => s.restoreBad 6

/-- A read of the restore has ended; one that failed fails the check that needs it. -/
def State.restoreGot (s : State) (tag : Nat) (b : Option Bytes) : State :=
  match s.rst with
  | none => s
  | some x =>
    match b with
    | none => s.restoreBad (if tag = 0 then 1 else if tag = 1 then 4 else 6)
    | some b => if tag = 0 then s.restoreHead x b else if tag = 1 then s.restoreIndex x b else s.restoreRecord x (tag - 2) b

/-- A tile of the restore has been written, header and all. -/
def State.restoreWrote (s : State) (ok : Bool) : State :=
  match s.rst with
  | none => s
  | some x =>
    if !ok then s.restoreBad 6
    else ({ s with rst := some { x with writes := x.writes - 1 } } : State).restoreOn

/-- RESTORE_COMPLETE: the record slots are written (R192). -/
def State.restoreComplete (s : State) : State :=
  match s.rst with
  | none => s
  | some x =>
    if !x.last ∨ x.writes ≠ 0 then s
    else
      let s : State := { s with rst := none }
      let s := s.setReg aMkrRecEpoch (word x.epoch)
      let take (s : State) (k : Nat) : State :=
        s.markerHave 0x3FFFF 6 k none
          { ok := true, hdr := [], scales := [], pay := restoredSlot k x.epoch s.mkPieces (Tab.get x.kept k), coded := false }
      let s := (List.range s.recSlots).foldl take s
      let s : State := { s with mkr := { s.mkr with torn := false }, err := { s.err with restoreNeeded := false } }
      s.logEv evRestored 0

/-! ## Export (R388) -/

/-- SEC_EXPORT_CTRL written with START. -/
def State.exportStart (s : State) (v : Word) : State :=
  let s := s.setF aSecExportCtrl 24 18 (fld v 24 18)
  if !bitAt v 0 then s
  else if s.syl.isNone ∨ 3 ≤ s.mkr.phase ∨ s.rst.isSome ∨ s.tut.ckpt ∨ s.exp.isSome then s.secBusy
  else
    let x : ExportRun := { piece := fld v 24 18, next := 0, addr := s.regF aSecExportAddr 12 52 * 4096, writes := 0 }
    ({ s with exp := some x } : State).exportRead

/-- EXPORT_COMPLETE: every working copy has been written. -/
def State.exportComplete (s : State) : State :=
  match s.exp with
  | none => s
  | some x => if x.next < s.exportTiles x.piece ∨ x.writes ≠ 0 then s else { s with exp := none }

/-! ## The commands -/

def execStream (q : BitVec 13) (s : State) : Res :=
  .next (if s.ckptCmd q.toNat then s.ckptStream q.toNat else s.streamCmd q.toNat)
def execStreamEntryIssue (c : BitVec 12) (s : State) : Res :=
  .next (if s.isCkptCtx c.toNat then (s.ckptIssue c.toNat).stir else (s.issueEntry c.toNat).stir)
def execSatchelReceive (m : Sys2Proof.ChainMsg) (s : State) : Res :=
  match m with
  | .own c => .next (if s.isCkptCtx c.toNat then s.ckptReceive c.toNat else s.satchelReceive c.toNat).stir
  | m => .next (s.chainStep m).stir
def execCheckpointEnd (s : State) : Res := .next s.checkpointEnd.settle
def execSecRestoreStart (s : State) : Res := .next s.restoreStart.wake
def execRestoreComplete (s : State) : Res := .next s.restoreComplete
def execSecExportStart (v : Word) (s : State) : Res := .next (s.exportStart v)
def execExportComplete (s : State) : Res := .next s.exportComplete

end Sys2Proof.Machine
end

