-- ==== Sys2Proof/Machine/CollRows.lean ====
section
/-! DEFINITION. The commands of the roll-call logic: ROLLCALL, BUCKET and the timers of collectives (R297 to R324), and STAGING_RUN_ALLOC (R174); those of its
frames stand with the other frames. -/

namespace Sys2Proof.Machine

/-- STAGING_RUN_ALLOC, with the bucket results that waited for room (R174). -/
def execStagingRunAlloc (piece : BitVec 18) (block : BitVec 16) (tiles : BitVec 12) (s : State) : Res :=
  .next (s.stagingAlloc piece.toNat block.toNat tiles.toNat).bucketsDue.settle
def execRollcall (q : BitVec 13) (s : State) : Res := .next (s.rollcall q.toNat).settle
def execBucket (q : BitVec 13) (s : State) : Res := .next (s.bucket q.toNat).settle
def execBucketDeadline (group : BitVec 12) (seq : BitVec 32) (s : State) : Res :=
  .next (s.bucketDeadline group.toNat seq.toNat).wake.settle
def execCollectiveTimeout (group : BitVec 12) (seq : BitVec 32) (s : State) : Res :=
  .next (s.collTimeout group.toNat seq.toNat).wake.settle
def execCollectiveLostTimeout (group : BitVec 12) (seq : BitVec 32) (s : State) : Res :=
  .next (s.collLost group.toNat seq.toNat).wake.settle

end Sys2Proof.Machine
end

