-- ==== Sys2Proof/Machine/Couriers.lean ====
section
/-! DEFINITION. Couriers (R211 to R218, R444): START, ABORT, CONTINUE, pacing, the choice of a burst, its reads and writes,
its end; and the commands COURIER, CRS_START, CRS_ABORT, CRS_CONTINUE, COURIER_BURST, COURIER_BURST_DONE, PACE_TIMER. -/

namespace Sys2Proof.Machine

/-! ## Fields -/

def ceSpace (w : Word) : Nat := fld w 60 4
def ceAddr (w : Word) : Nat := fld w 0 60
def Courier.cnt (x : Courier) : Nat := fld x.count 0 32
def Courier.circular (x : Courier) : Bool := bitAt x.ctrl 16
def Courier.crcEn (x : Courier) : Bool := bitAt x.ctrl 20
def Courier.crcCheck (x : Courier) : Bool := bitAt x.ctrl 20 && bitAt x.ctrl 21
def Courier.paceSrc (x : Courier) : Nat := fld x.ctrl 6 2
def Courier.paceCrs (x : Courier) : Nat := fld x.ctrl 8 6
def Courier.prio (x : Courier) : Nat := fld x.ctrl 4 2

/-- Status bits of CRS_STATUS. -/
abbrev csHalf : Nat := 8
abbrev csFull : Nat := 16
abbrev csBusErr : Nat := 32
abbrev csMismatch : Nat := 64
abbrev csOverrun : Nat := 128

/-- An event of courier `k` logged: CRS_ERR_INFO takes the code; `bit` is its status bit. -/
def State.crsLog (s : State) (k : Nat) (e : Ev) (bit : Nat) : State :=
  (s.logEntry 10 e.code 0).modCr k fun x => { x with
    errInfo := setFld x.errInfo 48 16 e.code, bits := Nat.lor x.bits bit }

/-! ## START (R211) -/

/-- A set-up that START refuses with CRS_ILLEGAL. PACE_CRS counts when PACE_SRC names a courier (log 30). -/
def State.crsBad (s : State) (k : Nat) (x : Courier) : Bool :=
  let badSpace (w : Word) : Bool := decide (2 < ceSpace w) || (ceSpace w == 2 && farLanes s.part.set == 0)
  decide (ceAddr x.src % 8 ≠ 0 ∨ ceAddr x.dst % 8 ≠ 0 ∨ x.cnt % 8 ≠ 0 ∨ x.cnt = 0)
    || badSpace x.src || badSpace x.dst || x.paceSrc == 3 || (x.paceSrc == 2 && x.paceCrs == k)
    || (x.circular && (x.cnt % 8192 != 0 || x.crcEn))

/-- The courier runs from offset 0. -/
def State.crsRun (s : State) (k : Nat) (by_ : Option Nat) : State :=
  s.modCr k fun x => { x with st := 1, bytes := 0, crc := 0, pendingEv := 0, runBy := by_ }

/-- START of courier `k`: the code it is refused with, or none. -/
def State.crsStart (s : State) (k : Nat) (by_ : Option Nat) : Option Nat × State :=
  if s.crsBad k (s.cr k) then (some evCrsIllegal.code, s.crsLog k evCrsIllegal 0)
  else (none, s.crsRun k by_)

/-! ## Addresses (Table: Bus error causes) -/

/-- The cause with which an access to `n` bytes at `a`, within one unit, fails before it reaches a port; 0 none. -/
def State.crsCause (s : State) (space : Nat) (wr : Bool) (a n : Nat) : Nat :=
  let meets (lo sz : Nat) : Bool := decide (a < lo + sz ∧ lo < a + n)
  match space with
  | 0 =>
    if s.ckSize < a + n then 1
    else if meets s.t0Lockers (s.t0Scratch - s.t0Lockers) then 2
    else if wr && decide (s.t0Scratch ≤ a) && s.hitsReserved (a - s.t0Scratch) n then 2
    else 0
  | 1 =>
    if (if s.memFenced 1 then 2 ^ 40 else 2 ^ 41) < a + n then 1
    else if meets 0 (s.t1Lockers + s.t1Lockers / 512 + s.t1WindowSize + s.t1WindowSize / 512) then 2
    else 0
  | _ =>
    if s.farFenced then 6
    else if (s.t2Present && meets s.t2Base s.t2Size) || (s.t3Present && meets s.t3Base s.t3Size) then 2
    else 0

/-- The parts of [a, a + n) that lie in one 256-byte unit each. -/
def unitParts (a n : Nat) : List (Nat × Nat) :=
  if n = 0 then [] else
  (List.range ((a + n - 1) / 256 - a / 256 + 1)).map fun i =>
    let u := (a / 256 + i) * 256
    let lo := max a u
    (lo, min (a + n) (u + 256) - lo)

/-- The first failing unit of an access, with its cause. -/
def State.crsFirstBad (s : State) (space : Nat) (wr : Bool) (a n : Nat) : Option (Nat × Nat) :=
  ((unitParts a n).find? fun p => s.crsCause space wr p.1 p.2 != 0).map fun p =>
    (p.1 / 256 * 256, s.crsCause space wr p.1 p.2)

/-- The first uncorrectable unit of a T0 run (R348): cause POISON (log 31). -/
def State.t0FirstBad (s : State) (a n : Nat) : Option Nat :=
  ((unitParts a n).find? fun p => s.t0Bad p.1 p.2).map fun p => p.1 / 256 * 256

/-! ## Bursts -/

/-- Length of the next burst, and whether it is the last of the pass. -/
def Courier.burst (x : Courier) : Nat := min 4096 (x.cnt - x.bytes)
def Courier.lastBurst (x : Courier) : Bool := decide (x.cnt ≤ x.bytes + 4096)
/-- Bytes read and written: with CRC_CHECK the last burst reads the CRC after the source, with CRC_EN it writes the CRC
after the destination (R215). -/
def Courier.rdLen (x : Courier) : Nat := x.burst + (if x.lastBurst && x.crcCheck then 4 else 0)
def Courier.wrLen (x : Courier) : Nat := x.burst + (if x.lastBurst && x.crcEn then 8 else 0)

/-- A burst may start (R213, R216). -/
def Courier.ready (x : Courier) : Bool := x.st == 1 && (x.paceSrc == 0 || decide (0 < x.pendingEv))

/-- Where the search at level `v` starts. -/
def CrsEng.from_ (g : CrsEng) (v : Nat) : Nat :=
  match v with
  | 0 => g.last0 | 1 => g.last1 | 2 => g.last2 | _ => g.last3

/-- The courier that the engine serves next (R216). -/
def State.nextCourier (s : State) : Option Nat :=
  let n := limCouriers s.part.set
  let at_ (v : Nat) : Option Nat :=
    ((List.range n).map fun i => (s.crsEng.from_ v + i) % n).find? fun k => (s.cr k).ready && (s.cr k).prio == v
  match at_ 3, at_ 2, at_ 1, at_ 0 with
  | some k, _, _, _ => some k
  | _, some k, _, _ => some k
  | _, _, some k, _ => some k
  | _, _, _, r => r

/-- The burst in service has failed at an access. -/
def State.crsFail (s : State) (space addr : Nat) (wr : Bool) (cause : Nat) : State :=
  { s with crsEng := { s.crsEng with phase := 3, data := [], fail := some (space, addr, wr, cause) } }

/-- The units of a destination range in T1 or beyond that the burst covers only in part of a 64-byte lane: they are read
first, so that the lane's other bytes keep their values (log 32). -/
def partUnits (a n : Nat) : List (Nat × Nat) :=
  ((unitParts a n).zipIdx.filter fun p => p.1.1 % 64 != 0 || (p.1.1 + p.1.2) % 64 != 0).map fun p =>
    (p.1.1 / 256 * 256, p.2)

/-- What the burst writes: the source bytes, and after the last one the CRC and zero. -/
def Courier.outBytes (x : Courier) (data : Bytes) : Bytes :=
  let d := data.take x.burst
  let crc := ~~~(crcRun polyC (~~~x.crc) d)
  if x.lastBurst && x.crcEn then d ++ leBytes 4 crc.toNat ++ leBytes 4 0 else d

/-- The source bytes are all there: the burst's writes begin. `old` are the bytes of the units written in part. -/
def State.crsWrite (s : State) (k : Nat) (data : Bytes) (old : List (Nat × Bytes)) : State :=
  let x := s.cr k
  let a := ceAddr x.dst + x.bytes
  let sp := ceSpace x.dst
  let out := x.outBytes data
  match s.crsFirstBad sp true a out.length with
  | some (u, c) => s.crsFail sp u true c
  | none =>
    let s := { s with crsEng := { s.crsEng with phase := 2, data := data } }
    if sp = 0 then
      let s := s.t0Write a out
      { s with crsEng := { s.crsEng with phase := 3 } }
    else
      s.startJob (.crsWr k) fun id =>
        (s.writeReqs sp a out .write 4114 id 0).zip (unitParts a out.length) |>.map fun r =>
          match old.find? fun o => o.1 == r.2.1 / 256 * 256 with
          | none => r.1
          | some o => { r.1 with data := splice o.2 (r.2.1 % 256) (slice r.1.data (r.2.1 % 256) r.2.2) }

/-- The burst's reads: source bytes, and the units that the destination covers only in part. -/
def State.crsRead (s : State) (k : Nat) : State :=
  let x := s.cr k
  let a := ceAddr x.src + x.bytes
  let sp := ceSpace x.src
  let da := ceAddr x.dst + x.bytes
  let dsp := ceSpace x.dst
  match s.crsFirstBad sp false a x.rdLen with
  | some (u, c) => s.crsFail sp u false c
  | none =>
    let edge := if dsp = 0 ∨ (s.crsFirstBad dsp true da x.wrLen).isSome then [] else partUnits da x.wrLen
    let bad := if sp = 0 then s.t0FirstBad a x.rdLen else none
    match bad with
    | some u => (s.logEv evSramUncorrectable 0).crsFail 0 u false 4
    | none =>
      let s := { s with crsEng := { s.crsEng with phase := 1 } }
      if sp = 0 ∧ edge.isEmpty then s.crsWrite k (s.t0Read a x.rdLen) []
      else s.startJob (.crsRd k) fun id =>
        (if sp = 0 then [] else s.readReqs sp a x.rdLen .read 4114 id 0)
          ++ edge.flatMap fun e => s.readReqs dsp e.1 256 .read 4114 id (128 + e.2)

/-- All reads of a burst have been answered. -/
def State.crsReadEnd (s : State) (j : Job) (k : Nat) : State :=
  let x := s.cr k
  let a := ceAddr x.src + x.bytes
  let da := ceAddr x.dst + x.bytes
  if s.crsEng.busy ≠ some k then s
  else if j.cause ≠ 0 then
    -- a unit of the destination that is read for its other bytes fails as an access of the destination (log 32)
    let src := ceSpace x.src ≠ 0 ∧ (unitParts a x.rdLen).any fun u => u.1 / 256 * 256 == j.badAddr
    if src then s.crsFail (ceSpace x.src) j.badAddr false j.cause
    else s.crsFail (ceSpace x.dst) j.badAddr true j.cause
  else
    let data := if ceSpace x.src = 0 then s.t0Read a x.rdLen else j.range 0 a x.rdLen
    s.crsWrite k data ((partUnits da x.wrLen).map fun e => (e.1, Tab.get j.got (128 + e.2)))

/-- All writes of a burst have been answered. -/
def State.crsWriteEnd (s : State) (j : Job) (k : Nat) : State :=
  if s.crsEng.busy ≠ some k then s
  else if j.cause ≠ 0 then s.crsFail (ceSpace (s.cr k).dst) j.badAddr true j.cause
  else { s with crsEng := { s.crsEng with phase := 3 } }

/-- COURIER_BURST: the engine, when it serves none, grants a burst. -/
def State.courierBurst (s : State) : State :=
  if s.crsEng.phase ≠ 0 then s else
  match s.nextCourier with
  | none => s
  | some k =>
    let v := (s.cr k).prio
    let nx := k + 1
    let g := s.crsEng
    let g := { g with
      busy := some k, abortReq := false
      last0 := if v = 0 then nx else g.last0
      last1 := if v = 1 then nx else g.last1
      last2 := if v = 2 then nx else g.last2
      last3 := if v = 3 then nx else g.last3 }
    let use (x : Courier) : Courier := if x.paceSrc = 0 then x else { x with pendingEv := x.pendingEv - 1 }
    ({ s with crsEng := g }.modCr k use).crsRead k

/-! ## The end of a burst (R213 to R218, R444) -/

/-- A pacing event for courier `k`. -/
def State.paceEvent (s : State) (k : Nat) : State :=
  if (s.cr k).st = 0 then s
  else if (s.cr k).pendingEv < 255 then s.modCr k fun x => { x with pendingEv := x.pendingEv + 1 }
  else s.crsLog k evPaceOverrun csOverrun

/-- The couriers that courier `k` paces take an event at its pass end. -/
def State.paceOthers (s : State) (k : Nat) : State :=
  (s.crs.map Prod.fst).foldl (fun s j =>
    if (s.cr j).paceSrc = 2 ∧ (s.cr j).paceCrs = k then s.paceEvent j else s) s

/-- Destination bytes of a failing burst are unspecified (R217): the units of a T0 destination that may be written take
free values (log 1). -/
def State.crsSpoil (s : State) (k : Nat) : State :=
  let x := s.cr k
  if ceSpace x.dst ≠ 0 then s else
  (unitParts (ceAddr x.dst + x.bytes) x.wrLen).foldl (fun s p =>
    if s.crsCause 0 true p.1 p.2 ≠ 0 then s
    else let r := s.drawBytes p.2; r.2.t0Write p.1 r.1) s

/-- The burst of courier `k` ended with a bus error: the courier halts. -/
def State.crsHalt (s : State) (k space addr : Nat) (wr : Bool) (cause : Nat) : State :=
  let s := (s.crsSpoil k).crsLog k evCourierBusErr csBusErr
  let s := s.modCr k fun x => { x with
    st := 2, errAddr := word (at_ 60 space + addr)
    errInfo := word (at_ 48 evCourierBusErr.code + at_ 8 (b2n wr) + cause) }
  match (s.cr k).runBy with
  | none => s
  | some q => s.failFlight q evCourierBusErr.code fun f => cOp f.cmd == 0x31 && kCourier f.cmd == k

/-- The pass of courier `k` ends. A pass that CONTINUE completed while its command was held aside leaves the courier with the
command's queue, so that the command does not re-issue (R444). -/
def State.crsPassEnd (s : State) (k : Nat) : State :=
  let x := s.cr k
  let mine (f : Flight) : Bool := cOp f.cmd == 0x31 && kCourier f.cmd == k
  let by_ := x.runBy.filter fun q => !(s.flights.any fun f => f.queue == q && mine f)
  let s := if x.circular then s.modCr k fun x => { x with passes := (x.passes + 1) % 2 ^ 32, bytes := 0 }
    else s.modCr k fun x => { x with passes := (x.passes + 1) % 2 ^ 32, st := 0, runBy := by_ }
  let s := if x.circular then s else match x.runBy with
    | none => s
    | some q => s.finish q mine
  s.paceOthers k

/-- The burst of courier `k` succeeded. -/
def State.crsAdvance (s : State) (k : Nat) (data : Bytes) : State :=
  let x := s.cr k
  let n := x.burst
  let done := x.bytes + n
  let crc := if x.crcEn then ~~~(crcRun polyC (~~~x.crc) (data.take n)) else x.crc
  let half := if x.bytes < x.cnt / 2 ∧ x.cnt / 2 ≤ done then csHalf else 0
  let full := if done = x.cnt then csFull else 0
  let s := s.modCr k fun x => { x with bytes := done, crc := crc, bits := Nat.lor x.bits (half + full) }
  let s := if x.lastBurst && x.crcCheck && leAt data n 4 != crc.toNat then s.crsLog k evCrcMismatch csMismatch else s
  if done = x.cnt then s.crsPassEnd k else s

/-- COURIER_BURST_DONE: the burst in service, when all its accesses have ended, is accounted for; an ABORT that came
meanwhile takes effect. -/
def State.courierBurstDone (s : State) : State :=
  match s.crsEng.busy with
  | none => s
  | some k =>
    if s.crsEng.phase ≠ 3 then s else
    let g := s.crsEng
    let s := match g.fail with
      | some (space, addr, wr, cause) => s.crsHalt k space addr wr cause
      | none => s.crsAdvance k g.data
    let s := { s with crsEng := { s.crsEng with busy := none, phase := 0, data := [], fail := none, abortReq := false } }
    if g.abortReq then s.modCr k fun x => { x with st := 0, runBy := none } else s

/-! ## Software and the tutor -/

/-- ABORT: the command that runs the courier ends with STM_ABORTED; a burst in service ends first. -/
def State.crsAbort (s : State) (k : Nat) : State :=
  let held := s.flights.any fun f => (s.cr k).runBy == some f.queue && cOp f.cmd == 0x31 && kCourier f.cmd == k
  let s := if held && (s.cr k).st == 1 then (s.crsLog k evCrsAborted 0).failCrFlight k evCrsAborted.code else s
  if s.crsEng.busy = some k then { s with crsEng := { s.crsEng with abortReq := true } }
  else s.modCr k fun x => { x with st := 0, runBy := none }

/-- CONTINUE: a halted courier retries its failing burst. -/
def State.crsContinue (s : State) (k : Nat) : State :=
  if (s.cr k).st = 2 then s.modCr k fun x => { x with st := 1 } else s

/-- Writable fields of CRS_CTRL. -/
def crsCtrlMask : Word := 0x3F3FF0#64

/-- A write of CRS_CTRL. -/
def State.writeCrsCtrl (s : State) (k : Nat) (v : Word) : State :=
  let n := b2n (bitAt v 0) + b2n (bitAt v 1) + b2n (bitAt v 2)
  if 1 < n then s.crsLog k evCrsIllegal 0
  else if bitAt v 0 ∧ (s.cr k).st ≠ 0 then s.crsLog k evCrsBusy 0
  else
    let s := s.modCr k fun x => { x with ctrl := v &&& crsCtrlMask }
    if bitAt v 0 then (s.crsStart k none).2
    else if bitAt v 1 then s.crsAbort k
    else if bitAt v 2 then s.crsContinue k
    else s

/-- The COURIER command of queue `q`. -/
def State.courierCmd (s : State) (q : Nat) : State :=
  match s.issuedTo q 0x31 with
  | none => s
  | some (c, _) =>
    let k := kCourier c
    let x := s.cr k
    if x.st < 2 ∧ x.runBy = some q ∧ (s.que q).aside.isSome then
      (s.acceptCmd q (x.st == 0)).modCr k fun x => { x with runBy := if x.st = 0 then none else x.runBy }
    else if x.st ≠ 0 then (s.crsLog k evCrsBusy 0).stopQueue q evCrsBusy.code
    else
      let low := kSrc c % 8 ≠ 0 ∨ kDst c % 8 ≠ 0
      let s := s.modCr k fun x => { x with
        src := word (kSrc c) &&& ~~~7#64, dst := word (kDst c) &&& ~~~7#64, count := word (kCount c), ctrl := word (kCtrl c) &&& crsCtrlMask
        pace := word (kPeriod c) }
      match (if low then (some evCrsIllegal.code, s.crsLog k evCrsIllegal 0) else s.crsStart k (some q)) with
      | (some code, s) => s.stopQueue q code
      | (none, s) => s.acceptCmd q (s.cr k).circular

/-- Couriers beyond the set's limit are holes (R436). -/
def State.withCr (s : State) (k : Nat) (t : State) : State := if k < limCouriers s.part.set then t else s.hostHole

def execCourier (q : BitVec 13) (s : State) : Res := .next (s.courierCmd q.toNat)
def execCrsStart (k : BitVec 6) (v : Word) (s : State) : Res :=
  .next (s.hostWrites ((s.withCr k.toNat (s.writeCrsCtrl k.toNat (v ||| 1))).wake))
def execCrsAbort (k : BitVec 6) (s : State) : Res :=
  .next (s.hostWrites ((s.withCr k.toNat (s.crsAbort k.toNat)).wake))
def execCrsContinue (k : BitVec 6) (s : State) : Res :=
  .next (s.hostWrites ((s.withCr k.toNat (s.crsContinue k.toNat)).wake))
def execCourierBurst (s : State) : Res := .next s.courierBurst
def execCourierBurstDone (s : State) : Res := .next s.courierBurstDone
def execPaceTimer (k : BitVec 6) (s : State) : Res :=
  .next (if (s.cr k.toNat).paceSrc = 1 then (s.paceEvent k.toNat).wake else s)

end Sys2Proof.Machine
end

