-- ==== Sys2Proof/Machine/FabRows.lean ====
section
/-! DEFINITION. The commands of the fabric ports and the federation links (R268 to R297, R381 to R383, R427 to R429): link states
and timers, received frames of every type but FED_HOST, and the loss of a UCIe link. -/

namespace Sys2Proof.Machine

/-! ## Ports that leave UP -/

/-- A port that has left UP takes its collectives with it (R314, R361). -/
def State.afterPort (s : State) (t : State) (p : Nat) : State :=
  if s.isUp p && !t.isUp p then t.collsLost (s.collsOnPort p) else t

/-- Port `p` leaves for DOWN with the cause of FAB_ERR. -/
def State.portDown (s : State) (p cause : Nat) : State := (s.afterPort (s.leaveUp p lsDown cause) p).settle

/-! ## Link states and timers (R280 to R283, R289, R290, R295, R381 to R383) -/

/-- PCS alignment lost: the port leaves for DOWN. -/
def State.alignLoss (s : State) (p : Nat) : State :=
  if isFed p then s
  else
    let s := s.modFlink p fun l => { l with aligned := false }
    if (s.flink p).st ≤ lsDown ∨ (s.flink p).st = lsDetained then s else s.portDown p 1

/-- A counter has reached 2^48 − 1 before a renewal ended. -/
def FLink.exhausted (l : FLink) : Bool :=
  let top := 2 ^ 48 - 1
  decide (top ≤ l.txLsn ∨ top ≤ l.rxLsn ∨ top ≤ l.txLink ∨ top ≤ l.rxLink)

def State.keyExhausted (s : State) (p : Nat) : State :=
  if s.isUp p && (s.flink p).exhausted then s.portDown p 5 else s

def State.linkFrameTimeout (s : State) (p : Nat) : State := if s.isUp p then s.portDown p 2 else s

def State.linkAckTimer (s : State) (p : Nat) : State := if s.isUp p then s.sendLink p else s

/-- 4 µs without ACK progress: every unacknowledged frame again; the eighth replay of one takes the port DOWN. -/
def State.replayTimeout (s : State) (p : Nat) : State :=
  if !s.isUp p || (s.flink p).replay.isEmpty then s
  else
    let r := s.replayFrom p 0
    if r.2 then r.1.portDown p 3 else r.1

/-! ## Received frames -/

/-- A frame of type `typ` was accepted (a wake event, R394): delivered to its row, or taken in sequence and passed on or
refused. `t`: the state after the row. -/
def State.accepted (s : State) (p typ : Nat) (fr : Bytes) (bad : Bool) (t : State) : Bool :=
  match s.receive p fr bad with
  | .got h _ _ => h.typ == typ
  | .drop _ => (t.flink p).rxLsn != (s.flink p).rxLsn

/-- A row of a received frame: `t` is what its type's rules make of it. -/
def State.frameRow (s : State) (p typ : Nat) (fr : Bytes) (bad : Bool) (t : State) : State :=
  let u := if s.accepted p typ fr bad t then t.wake else t
  (s.afterPort u p).settle

/-- HELLO: the source address is octets 6 to 11 of the frame. -/
def State.helloFrame (s : State) (p : Nat) (fr : Bytes) (bad : Bool) : State :=
  s.onFrame p tHello fr bad fun _ pay s => s.helloIn p (slice fr 6 6) pay

def State.keyFrame (s : State) (p : Nat) (fr : Bytes) (bad : Bool) : State :=
  s.onFrame p tKey fr bad fun _ pay s => s.keyIn p pay

/-- LINK: acknowledgements may complete bucket reductions (R283). -/
def State.linkFrame (s : State) (p : Nat) (fr : Bytes) (bad : Bool) : State :=
  s.onFrame p tLink fr bad fun _ pay s =>
    let r := s.applyLink p pay
    if r.2 then r.1.leaveUp p lsDown 3 else r.1.bucketsDone

/-- A UCIe link has left its active state: its keys and frames are gone, and a running step is aborted (Table: Causes of a common
abort). -/
def State.ucieDown (s : State) (l : Nat) : State :=
  let p := 2 + l
  if !(s.flink p).aligned then s
  else
    let t := (s.leaveUp p lsDown 0).modFlink p fun x => { x with aligned := false }
    ((s.afterPort t p).causeAbort evCeMemberLost 0).settle

/-! ## The commands -/

def execPcsAlign (port : BitVec 3) (s : State) : Res := .next (s.pcsAlign port.toNat)
def execPcsAlignLoss (port : BitVec 3) (s : State) : Res := .next (s.alignLoss port.toNat)
def execHelloTimer (port : BitVec 3) (s : State) : Res := .next (s.helloTimer port.toNat)
def execHello (port : BitVec 3) (frame : Bytes) (bad : Bool) (s : State) : Res :=
  .next (s.frameRow port.toNat tHello frame bad (s.helloFrame port.toNat frame bad))
def execOfferTimer (port : BitVec 3) (s : State) : Res := .next (s.offerTimer port.toNat)
def execKey (port : BitVec 3) (frame : Bytes) (bad : Bool) (s : State) : Res :=
  .next (s.frameRow port.toNat tKey frame bad (s.keyFrame port.toNat frame bad))
def execRosterRetry (port : BitVec 3) (s : State) : Res := .next (s.rosterRetry port.toNat)
def execKeyRenewal (port : BitVec 3) (s : State) : Res := .next (s.keyRenewal port.toNat)
def execKeyExhausted (port : BitVec 3) (s : State) : Res := .next (s.keyExhausted port.toNat)
def execData (port : BitVec 3) (frame : Bytes) (bad : Bool) (s : State) : Res :=
  .next (s.frameRow port.toNat tData frame bad (s.dataFrame port.toNat frame bad))
def execStateFetch (port : BitVec 3) (frame : Bytes) (bad : Bool) (s : State) : Res :=
  .next (s.frameRow port.toNat tData frame bad (s.stateFetch port.toNat frame bad))
def execLink (port : BitVec 3) (frame : Bytes) (bad : Bool) (s : State) : Res :=
  .next (s.frameRow port.toNat tLink frame bad (s.linkFrame port.toNat frame bad))
def execLinkAckTimer (port : BitVec 3) (s : State) : Res := .next (s.linkAckTimer port.toNat)
def execLinkFrameTimeout (port : BitVec 3) (s : State) : Res := .next (s.linkFrameTimeout port.toNat)
def execReplayTimeout (port : BitVec 3) (s : State) : Res := .next (s.replayTimeout port.toNat)
def execFrameSend (port : BitVec 3) (s : State) : Res := .next (s.frameSend port.toNat)
def execFiReorderTimeout (port : BitVec 3) (s : State) : Res := .next (s.reorderTimeout port.toNat)
def execViolWindow (port : BitVec 3) (s : State) : Res := .next (s.violWindow port.toNat)
/-- FAB_CTRL.RELEASE has a bit for each fabric port; a fenced port's is discarded (R290, R438). -/
def execFabRelease (port : BitVec 3) (s : State) : Res :=
  .next (s.hostWrites (if isFed port.toNat || !s.portLive port.toNat then s else s.fabRelease port.toNat))
def execMack (port : BitVec 3) (frame : Bytes) (bad : Bool) (s : State) : Res :=
  .next (s.frameRow port.toNat tMack frame bad (s.onFrame port.toNat tMack frame bad fun h pay s => s.mackIn port.toNat h pay))
def execMcastDetach (c : BitVec 12) (s : State) : Res := .next (s.mcastDetach c.toNat).wake.settle
def execDetach (port : BitVec 3) (frame : Bytes) (bad : Bool) (s : State) : Res :=
  .next (s.frameRow port.toNat tDetach frame bad
    (s.onFrame port.toNat tDetach frame bad fun h pay s => s.detachIn port.toNat h pay))
def execRepairReq (port : BitVec 3) (frame : Bytes) (bad : Bool) (s : State) : Res :=
  .next (s.frameRow port.toNat tRepair frame bad
    (s.onFrame port.toNat tRepair frame bad fun h pay s => s.repairIn port.toNat h pay))
def execRcExch (port : BitVec 3) (frame : Bytes) (bad : Bool) (s : State) : Res :=
  .next (s.frameRow port.toNat tRcExch frame bad
    (s.onColl port.toNat tRcExch frame bad fun h c k pay s => s.rcExch h c k pay))
def execRcUp (port : BitVec 3) (frame : Bytes) (bad : Bool) (s : State) : Res :=
  .next (s.frameRow port.toNat tRcUp frame bad
    (s.onColl port.toNat tRcUp frame bad fun h c k pay s => s.rcUp h c k pay))
def execRcDown (port : BitVec 3) (frame : Bytes) (bad : Bool) (s : State) : Res :=
  .next (s.frameRow port.toNat tRcDown frame bad
    (s.onColl port.toNat tRcDown frame bad fun _ c k pay s => s.rcDown c k pay))
def execRedUp (port : BitVec 3) (frame : Bytes) (bad : Bool) (s : State) : Res :=
  .next (s.frameRow port.toNat tRedUp frame bad
    (s.onColl port.toNat tRedUp frame bad fun h c k pay s => s.redUp h c k pay))
def execRedDown (port : BitVec 3) (frame : Bytes) (bad : Bool) (s : State) : Res :=
  .next (s.frameRow port.toNat tRedDown frame bad
    (s.onColl port.toNat tRedDown frame bad fun h c k pay s => s.redDown h c k pay))
def execNotice (port : BitVec 3) (frame : Bytes) (bad : Bool) (s : State) : Res :=
  .next (s.frameRow port.toNat tNotice frame bad
    (s.onColl port.toNat tNotice frame bad fun h c k pay s => s.noticeIn h c k pay))
def execAbort (port : BitVec 3) (frame : Bytes) (bad : Bool) (s : State) : Res :=
  .next (s.frameRow port.toNat tAbort frame bad
    (s.onColl port.toNat tAbort frame bad fun h c k pay s => s.abortFrame h c k pay))
def execUcieLinkDown (l : BitVec 2) (s : State) : Res := .next (s.ucieDown l.toNat)
def execUcieLinkTrained (l : BitVec 2) (s : State) : Res := .next (s.linkTrained (2 + l.toNat))

end Sys2Proof.Machine
end

