-- ==== Sys2Proof/Machine/Resets.lean ====
section
/-! DEFINITION. Cold and warm resets (R368, R407, R432), the sideband messages that carry warm resets and zeroisations over
the federation (R429), zeroisation (R389): the commands COLD_RESET, WARM_RESET, OFC_RESET_WARM, UCIE_SIDEBAND, ZEROISE. -/

namespace Sys2Proof.Machine

/-- OFC_RESET_CAUSE.LAST: 0 cold reset, 1 warm input, 2 OFC_RESET, 3 zeroisation. -/
def State.setCause (s : State) (last : Nat) : State := s.setF aOfcResetCause 0 2 last

/-- VID of the operating step in force, driven on pwr_vid. -/
def State.vidNow (s : State) : Nat := s.regF (aPwrVf + 8 * s.pwr.step) 24 8

/-! ## Cold reset -/

/-- The part as a reset samples it: the parameter set is silicon's, the rest are straps and fuses. -/
def strapPart (st : Straps) (fuses : List Word) : Part :=
  { set := st.set.toNat, form := st.form.toNat, fed := st.fed.toNat, compat := st.compat.toNat, mfr := st.mfr.toNat, whole := st.whole
    fuses := fuses }

/-- Every field at its cold-reset value for part `p`; input pins, the port trace, the queue and the count of free values
go on. The keys are drawn afresh and the fuse words are read (R372, R432). -/
def State.coldReset (s : State) (p : Part) (cause : Nat) : State :=
  let t : State := { State.reset with
    part := p
    pins := { State.reset.pins with grant := s.pins.grant, droop := s.pins.droop, fclkEn := s.pins.fclkEn, farUp := s.pins.farUp }
    regs := regsReset p.set
    level := strapLevel p.compat
    sec := SecSt.reset p.form p.fuses s.free
    free := s.free + 16
    out := s.out ++ (List.range 16).map PortOut.fuseReq
    pending := s.pending }
  t.setCause cause

def execColdReset (straps : Straps) (fuses : List Word) (s : State) : Res := .next (s.coldReset (strapPart straps fuses) 0)

/-! ## Warm reset -/

/-- The registers that a warm reset keeps: OFC_SCRATCH, OFC_RESET_CAUSE, the records of ERR (R369), LKR_EPOCH, MKR_REC_EPOCH,
the domain of the kept key, ROSTER_FAILS (R391), the last checkpoint, the ceiling table, the wear log and REF (R405); log 3. -/
def warmKept : List Nat :=
  [aOfcScratch, aOfcResetCause, aSecDomain0, aSecDomain1, aSecCkpt, aSecCkptAddr, aSecLinks, aPwrCtrl, aPwrSlack, aPwrWlogPtr,
   aErrSram, aErrCeGroups, aErrCeGroups + 8, aErrCeGroups + 16, aErrRecovery, aErrLogPtr, aErrFirstA, aErrFirstB, aLkrEpoch,
   aMkrRecEpoch]
  ++ ((List.range 8).map fun k => aPwrVf + 8 * k)
  ++ ((List.range 64).map fun i => aPwrWlog + 8 * i)
  ++ (List.range 512).map fun i => aErrLog + 8 * i

/-- The registers after a warm reset. -/
def State.warmRegs (s : State) : Tab Word :=
  warmKept.foldl (fun t a => Tab.put t a (s.reg a)) (regsReset s.part.set)

/-- A fabric port or link after a reset: DOWN, keys discarded; the PCS and the roster of identities stay as they are. -/
def FLink.afterReset (p : Nat) (l : FLink) : FLink :=
  { (default : FLink) with aligned := l.aligned && !isFed p, partnerId := l.partnerId }

/-- What a warm reset keeps, of the units with state of their own (Table: Reset kinds; log 3). -/
def State.warmReset (s : State) (cause : Nat) : State :=
  let part := s.part
  let links := Tab.mapAll FLink.afterReset s.fab.links
  let t : State := { State.reset with
    part := part
    pins := { State.reset.pins with grant := s.pins.grant, droop := s.pins.droop, fclkEn := s.pins.fclkEn, farUp := s.pins.farUp }
    hall := s.hall
    regs := s.warmRegs
    level := strapLevel part.compat
    mem := { MemSt.reset with nextJob := s.mem.nextJob }
    mkr := { MkrSt.reset with torn := s.mkr.torn }
    fab := { FabSt.reset with links := links }
    err := { ErrSt.reset with
      nextId := s.err.nextId, restoreNeeded := s.err.restoreNeeded, armed := s.err.armed, ceLogged := s.err.ceLogged }
    sec := { s.sec with
      negotiated := false, session := none, sessionUp := false, transcript := [], mboxReqLen := 0, mboxRespLen := 0
      mboxReady := false, mboxBusy := false }
    pwr := { PwrSt.reset with
      ceiling := s.pwr.ceiling, step := s.pwr.step, pend := s.pwr.pend, ref := s.pwr.ref, vfLocked := s.pwr.vfLocked }
    tap := s.tap
    out := s.out
    free := s.free
    pending := s.pending }
  let t := { t with pins := { t.pins with pwrVid := t.vidNow } }
  (t.incF aOfcResetCause 32 32 1).setCause cause

/-- Sideband message of `kind` (1 warm reset, 2 zeroisation) on every trained link but `skip` (R429). -/
def State.sideband (s : State) (kind : Nat) (skip : Option Nat) : State :=
  (List.range 4).foldl (fun s l =>
    if (s.flink (2 + l)).aligned && some l != skip then s.emit (.sideband l kind) else s) s

/-- rst_warm_n: the straps are sampled again (R407). -/
def State.warmInput (s : State) (st : Straps) : State :=
  let s := s.sideband 1 none
  let part := { strapPart st s.part.fuses with set := s.part.set }
  ({ s with part := part } : State).warmReset 1

def execWarmReset (straps : Straps) (s : State) : Res := .next (s.warmInput straps)

/-- OFC_RESET.WARM: at the head form only. -/
def State.ofcWarm (s : State) : State := if s.head then (s.sideband 1 none).warmReset 2 else s

def execOfcResetWarm (s : State) : Res := .next s.ofcWarm

/-! ## Zeroisation (R389) -/

/-- The keys, the stores and the cloakroom go, and a cold reset follows: every one of them is renewed by it. -/
def State.zeroiseHere (s : State) : State := s.coldReset s.part 3

/-- SEC_CTRL.ZEROISE: at the head form only. -/
def State.zeroise (s : State) : State := if s.head then (s.sideband 2 none).zeroiseHere else s

def execZeroise (s : State) : Res := .next s.zeroise

/-- A sideband message on link `l`: acted on as if the event had started here, and relayed; a link that is not trained
carries none (log 3). A warm reset that comes so counts as one by the warm input, the only kind that starts at any form. -/
def State.sidebandIn (s : State) (l : Nat) (zero : Bool) : State :=
  if !(s.flink (2 + l)).aligned then s
  else
    let s := s.sideband (if zero then 2 else 1) (some l)
    if zero then s.zeroiseHere else s.warmReset 1

def execUcieSideband (l : BitVec 2) (zero : Bool) (s : State) : Res := .next (s.sidebandIn l.toNat zero)

end Sys2Proof.Machine
end

