-- ==== Sys2Proof/Machine/Security.lean ====
section
/-! DEFINITION. The SPDM responder (R373, R374), domain keys (R375), the entropy source (R372): the SPDM requests, UNSUPPORTED_REQUEST,
DOMAIN_KEY_INSTALL, DOMAIN_KEY_ERASE, ENTROPY_FAIL. The formats of SPDM messages are DMTF's (log 53): request and response
codes are concrete here, the further bytes of a response are opaque functions of what it reports. -/

namespace Sys2Proof.Machine

/-! ## Message codes (PRESUMED: DMTF SPDM 1.3; log 53) -/

abbrev rqGetDigests : Nat := 0x81
abbrev rqGetCertificate : Nat := 0x82
abbrev rqChallenge : Nat := 0x83
abbrev rqGetVersion : Nat := 0x84
abbrev rqGetMeasurements : Nat := 0xE0
abbrev rqGetCapabilities : Nat := 0xE1
abbrev rqNegotiate : Nat := 0xE3
abbrev rqKeyExchange : Nat := 0xE4
abbrev rqFinish : Nat := 0xE5
abbrev rqEndSession : Nat := 0xEC
abbrev rqSetCertificate : Nat := 0xEE
/-- The requests of Table: SPDM support. -/
def spdmRequests : List Nat :=
  [rqGetDigests, rqGetCertificate, rqChallenge, rqGetVersion, rqGetMeasurements, rqGetCapabilities, rqNegotiate, rqKeyExchange,
   rqFinish, rqEndSession, rqSetCertificate]
/-- The response to a request. -/
def responseOf (rq : Nat) : Nat := rq % 128
/-- ERROR and its codes. -/
abbrev spdmError : Nat := 0x7F
abbrev erInvalid : Nat := 0x01
abbrev erUnexpected : Nat := 0x04
abbrev erUnsupported : Nat := 0x07

/-! ## The mailbox -/

/-- Bytes put into SEC_MBOX_DATA, in whole words. -/
def State.mboxPut (s : State) (b : Bytes) : State :=
  (List.range ((b.length + 7) / 8)).foldl (fun s i => s.setReg (aSecMboxData + 8 * i) (word (leAt b (8 * i) 8))) s

/-- The first `n` bytes of SEC_MBOX_DATA. -/
def State.mboxGet (s : State) (n : Nat) : Bytes :=
  ((List.range ((n + 7) / 8)).flatMap fun i => leBytes 8 (s.reg (aSecMboxData + 8 * i)).toNat).take n

/-- A response placed in the mailbox. -/
def State.mboxAnswer (s : State) (b : Bytes) : State :=
  let b := b.take 4096
  let s := s.mboxPut b
  { s with sec := { s.sec with mboxRespLen := b.length, mboxReady := true, mboxBusy := false } }

/-- A message of the open session in protected form. -/
def State.wrapped (s : State) (b : Bytes) : Bytes :=
  let d := leBytes 32 (s.sec.session.getD 0) ++ b
  (List.range (Config.spdmLen 0x100 d % 4097)).map (Config.spdmBody 0x100 d s.free)

/-- The response `code` with its two parameters, reporting `data`; `sec`: inside the session. -/
def State.reply (s : State) (msg : Bytes) (code p1 p2 : Nat) (data : Bytes) (sec : Bool) : State :=
  let ver := if code = responseOf rqGetVersion then 0x10 else 0x13
  let body := (List.range (Config.spdmLen code data % 4093)).map (Config.spdmBody code data s.free)
  let b := leBytes 1 ver ++ leBytes 1 code ++ leBytes 1 p1 ++ leBytes 1 p2 ++ body
  let t := if sec then s.wrapped b else b
  let s : State := { s with free := s.free + 1, sec := { s.sec with transcript := s.sec.transcript ++ msg ++ b } }
  s.mboxAnswer t

/-- An ERROR response. -/
def State.replyError (s : State) (code : Nat) (sec : Bool) : State :=
  let b := leBytes 1 0x13 ++ leBytes 1 spdmError ++ leBytes 1 code ++ leBytes 1 0
  s.mboxAnswer (if sec then s.wrapped b else b)

/-! ## What is reported (R374) -/

def ownerHash (fuses : List Word) : Bytes := ((fuses.drop 4).take 6).flatMap fun w => leBytes 8 w.toNat
def rootHash (fuses : List Word) : Bytes := ((fuses.drop 10).take 6).flatMap fun w => leBytes 8 w.toNat

/-- OFC_ID; OFC_CONFIG (R439). -/
def ofcId : Word := 0x4A4C5A5200030100#64
def State.ofcConfig (s : State) : Word :=
  let p := s.part
  word (at_ 48 (farLanes p.set) + at_ 44 (fedLinks p.set) + at_ 42 (fabPorts p.set) + at_ 40 (memPorts p.set)
    + at_ 32 (benchLog2 p.set) + at_ 28 (limBenches p.set) + at_ 16 (cloakMiB p.set) + at_ 6 p.set + at_ 4 p.fed + p.form)

/-- The identity of form `f`: the own one, that of a link partner as its keying reported it, else a free value (log 53). -/
def State.identityOfForm (s : State) (f : Nat) : Bytes :=
  if f = s.part.form then digestBytes s.sec.identity
  else match (List.range 4).find? fun l => s.fedPeer l == some f with
    | some l => digestBytes (s.flink (2 + l)).partnerId
    | none => (List.range 48).map (Config.freeByte (s.free + f))

/-- Measurement `i` of Table: Measurements. -/
def State.measurement (s : State) (i : Nat) : Bytes :=
  match i with
  | 1 => leBytes 8 ofcId.toNat ++ leBytes 8 s.ofcConfig.toNat
  | 2 => digestBytes (sha384 (ownerHash s.part.fuses ++ rootHash s.part.fuses))
  | 3 => (match s.syl with
    | some im => digestBytes im.digest ++ leBytes 4 im.serial
    | none => leBytes 52 0)
  | 4 => leBytes 1 s.level ++ slice (s.sect tySecurity) 0 64
  | 5 => (List.range s.forms).flatMap s.identityOfForm
  | _ => digestBytes s.load.lastPartial

/-- A signature by the package identity over the messages so far and `part`. -/
def State.spdmSign (s : State) (msg part : Bytes) : Bytes :=
  keyBytes (ecdsaSign s.sec.idPriv (sha384 (s.sec.transcript ++ msg ++ part)) (signSecret s.free))

/-! ## The requests -/

/-- Bytes of a request after its four common ones. -/
def spdmAt (msg : Bytes) (off n : Nat) : Nat := leAt msg off n

def State.modSec (s : State) (f : SecSt → SecSt) : State := { s with sec := f s.sec }

def State.getVersion (s : State) (msg : Bytes) : State :=
  (s.modSec fun x => { x with negotiated := false, transcript := [] }).reply msg (responseOf rqGetVersion) 0 0 (leBytes 2 0x1300) false

/-- CERT, CHAL, MEAS with signature, KEY_EX, ENCRYPT, MAC, SET_CERT. -/
def State.getCapabilities (s : State) (msg : Bytes) : State :=
  s.reply msg (responseOf rqGetCapabilities) 0 0 (ascii "CERT CHAL MEAS_SIG KEY_EX ENCRYPT MAC SET_CERT") false

/-- ECDSA P-384, SHA-384, secp384r1, AES-256-GCM. -/
def State.negotiate (s : State) (msg : Bytes) : State :=
  (s.modSec fun x => { x with negotiated := true }).reply msg (responseOf rqNegotiate) 0 0
    (ascii "ECDSA_P384 SHA_384 SECP384R1 AES_256_GCM") false

def State.getDigests (s : State) (msg : Bytes) (sec : Bool) : State :=
  let d := if s.sec.chain.isEmpty then [] else digestBytes (sha384 s.sec.chain)
  s.reply msg (responseOf rqGetDigests) 0 (b2n (!s.sec.chain.isEmpty)) d sec

/-- The chain of slot 0 from OFFSET, at most LENGTH bytes. -/
def State.getCertificate (s : State) (msg : Bytes) (sec : Bool) : State :=
  if s.sec.chain.isEmpty then s.replyError erInvalid sec
  else
    let off := spdmAt msg 4 2
    let part := (s.sec.chain.drop off).take (min (spdmAt msg 6 2) 4000)
    s.reply msg (responseOf rqGetCertificate) 0 0
      (leBytes 2 part.length ++ leBytes 2 (s.sec.chain.length - off - part.length) ++ part) sec

def State.challenge (s : State) (msg : Bytes) (sec : Bool) : State :=
  if s.sec.chain.isEmpty then s.replyError erInvalid sec
  else
    let (nonce, s) := s.drawBytes 32
    let part := digestBytes (sha384 s.sec.chain) ++ nonce ++ digestBytes (sha384 ((List.range 6).flatMap fun i => s.measurement (i + 1)))
    s.reply msg (responseOf rqChallenge) 0 1 (part ++ s.spdmSign msg part) sec

/-- Index 0 asks for the number of measurements, 0xFF for all. -/
def State.getMeasurements (s : State) (msg : Bytes) (sec : Bool) : State :=
  let i := spdmAt msg 3 1
  if i ≠ 0xFF ∧ 6 < i then s.replyError erInvalid sec
  else
    let (nonce, s) := s.drawBytes 32
    let is := if i = 0 then [] else if i = 0xFF then [1, 2, 3, 4, 5, 6] else [i]
    let one (i : Nat) : Bytes := leBytes 1 i ++ leBytes 2 (s.measurement i).length ++ s.measurement i
    let part := leBytes 1 is.length ++ is.flatMap one ++ nonce
    let sig := if spdmAt msg 2 1 % 2 = 1 then s.spdmSign msg part else []
    s.reply msg (responseOf rqGetMeasurements) (if i = 0 then 6 else 0) 0 (part ++ sig) sec

/-- A new session, which ends any in progress; its key comes from the exchange (a free value). -/
def State.keyExchange (s : State) (msg : Bytes) : State :=
  if s.sec.chain.isEmpty then s.replyError erInvalid false
  else
    let (eph, s) := s.drawKey
    let part := keyBytes (ecPublic eph)
    let sig := s.spdmSign msg part
    let z := leNat (sharedSecret eph (slice msg 40 96))
    let s := s.modSec fun x => { x with session := some z, sessionUp := false }
    s.reply msg (responseOf rqKeyExchange) 0 0 (part ++ sig) false

/-- The handshake ends when the requester's verify data holds. -/
def State.finishRq (s : State) (msg : Bytes) : State :=
  match s.sec.session with
  | none => s.replyError erUnexpected false
  | some k =>
    if s.sec.sessionUp then s.replyError erUnexpected true
    else if !Config.spdmAuth k msg then s.replyError erInvalid true
    else (s.modSec fun x => { x with sessionUp := true }).reply msg (responseOf rqFinish) 0 0 [] true

def State.endSession (s : State) (msg : Bytes) : State :=
  if s.sec.session.isNone then s.replyError erUnexpected false
  else (s.reply msg (responseOf rqEndSession) 0 0 [] true).modSec fun x => { x with session := none, sessionUp := false }

/-- A chain for slot 0: its leaf key is the package identity key, its root key hashes to ROOT_HASH. -/
def State.setCertificate (s : State) (msg : Bytes) (sec : Bool) : State :=
  let c := msg.drop 4
  if Config.certLeafKey c ≠ s.sec.idKey ∨ digestBytes (sha384 (keyBytes (Config.certRootKey c))) ≠ rootHash s.part.fuses then
    s.replyError erInvalid sec
  else (s.modSec fun x => { x with chain := c }).reply msg (responseOf rqSetCertificate) 0 0 [] sec

/-- The certificate slot that a request names; only slot 0 is supported. -/
def spdmSlot (rq : Nat) (msg : Bytes) : Nat :=
  if rq = rqGetCertificate ∨ rq = rqChallenge ∨ rq = rqSetCertificate then spdmAt msg 2 1 % 16
  else if rq = rqKeyExchange then spdmAt msg 3 1 % 16
  else if rq = rqGetMeasurements ∧ spdmAt msg 2 1 % 2 = 1 then spdmAt msg 36 1 % 16
  else 0

/-- A request that R373 supports and that comes after NEGOTIATE_ALGORITHMS where DMTF's order asks so (log 53). -/
def State.spdmServe (s : State) (rq : Nat) (msg : Bytes) (sec : Bool) : State :=
  if rq = rqGetVersion then s.getVersion msg
  else if rq = rqGetCapabilities then s.getCapabilities msg
  else if rq = rqNegotiate then s.negotiate msg
  else if !s.sec.negotiated then s.replyError erUnexpected sec
  else if rq = rqGetDigests then s.getDigests msg sec
  else if rq = rqGetCertificate then s.getCertificate msg sec
  else if rq = rqChallenge then s.challenge msg sec
  else if rq = rqGetMeasurements then s.getMeasurements msg sec
  else if rq = rqKeyExchange then s.keyExchange msg
  else if rq = rqFinish then s.finishRq msg
  else if rq = rqEndSession then s.endSession msg
  else s.setCertificate msg sec

/-- A message that a form without an identity, or a limit of R373, answers with ERROR; its code. -/
def State.spdmRefused (s : State) (msg : Bytes) : Option Nat :=
  let rq := spdmAt msg 1 1
  if s.sec.noIdentity then some erUnsupported
  else if 4096 < msg.length ∨ msg.length < 4 then some erInvalid
  else if !spdmRequests.contains rq then some erUnsupported
  else if spdmAt msg 0 1 ≠ (if rq = rqGetVersion then 0x10 else 0x13) then some erUnsupported
  else if spdmSlot rq msg ≠ 0 then some erUnsupported
  else none

/-- The responder on a plain message; `sec`: it came inside the session. -/
def State.spdm (s : State) (msg : Bytes) (sec : Bool) : State :=
  match s.spdmRefused msg with
  | some e => s.replyError e sec
  | none => s.spdmServe (spdmAt msg 1 1) msg sec

/-- A request row of code `rq`: the head form answers a message with that code; FINISH and END_SESSION come inside the
session. -/
def State.spdmRow (s : State) (rq : Nat) (msg : Bytes) : State :=
  if s.head && spdmAt msg 1 1 == rq then s.spdm msg (s.sec.session.isSome && (rq == rqFinish || rq == rqEndSession)) else s

/-! ## Domain keys (R375) -/

/-- The conditions of R375, but for the session. -/
def State.domainOk (s : State) (msg : Bytes) : Bool :=
  let key := slice msg 0x20 32
  let owner := slice msg 0x40 96
  match s.syl with
  | none => false
  | some im =>
    let signed := digestBytes s.sec.pkg ++ slice msg 0 1 ++ slice msg 4 4 ++ slice msg 0x10 16 ++ digestBytes (sha384 key)
    decide (leAt msg 4 4 = im.serial)
      && decide (digestBytes (sha384 owner) = ownerHash s.part.fuses)
      && ecdsaVerify owner (sha384 signed) (slice msg 0xA0 96)

/-- A checkpoint, a restore or an export is running. -/
def State.secBusyNow (s : State) : Bool := s.tut.ckpt || s.rst.isSome || s.exp.isSome

/-- SEC_DOMAIN0 and SEC_DOMAIN1 follow the installed key. -/
def State.setDomain (s : State) (d : Option (BitVec 256 × BitVec 128)) : State :=
  let dom : Nat := match d with
    | some x => x.2.toNat
    | none => 0
  let s := s.modSec fun x => { x with domain := d }
  (s.setReg aSecDomain0 (word (dom % 2 ^ 64))).setReg aSecDomain1 (word (dom / 2 ^ 64))

/-- The head form sends an accepted message on to every other form. -/
def State.sendDomain (s : State) (msg : Bytes) : State :=
  if !s.head then s else (List.range (s.forms - 1)).foldl (fun s i => s.emit (.domain (i + 1) msg)) s

/-- A domain key message with OP `op`. At the head form it must come inside an open session, and goes on to the other forms; at
those it is the head's distribution (log 53). -/
def State.domainMsg (s : State) (op : Nat) (msg : Bytes) : State :=
  if leAt msg 0 1 ≠ op ∨ (s.head && !s.sec.sessionUp) ∨ s.secBusyNow ∨ !s.domainOk msg then s.logEv evSecDomain 0
  else
    let s := s.sendDomain msg
    if op = 1 then s.setDomain (some (BitVec.ofNat 256 (leAt msg 0x20 32), BitVec.ofNat 128 (leAt msg 0x10 16)))
    else s.setDomain none

/-- An application message of the session, by its OP; one that is neither is refused. -/
def State.appMsg (s : State) (msg : Bytes) : State :=
  let s := if leAt msg 0 1 = 2 then s.domainMsg 2 msg else s.domainMsg 1 msg
  s.mboxAnswer []

/-! ## SEC_MBOX.GO -/

/-- GO: the request in the mailbox is processed, at the head form only. A request that authenticates under the open session is
taken out of it: an SPDM message, or application data. -/
def State.mboxGo (s : State) : State :=
  if !s.head ∨ s.sec.mboxBusy then s
  else
    let s := s.modSec fun x => { x with mboxReady := false, mboxRespLen := 0 }
    let n := s.sec.mboxReqLen
    let msg := s.mboxGet (min n 4096)
    if 4096 < n then s.replyError (if s.sec.noIdentity then erUnsupported else erInvalid) false
    else match s.sec.session with
    | none => s.spdm msg false
    | some k =>
      if leAt msg 0 1 / 16 ≠ 1 ∧ Config.spdmAuth k msg then
        let d := (List.range n).map (Config.spdmOpen k msg)
        if leAt d 0 1 / 16 = 1 then s.spdm d true else s.appMsg d
      else s.spdm msg false

/-! ## The commands -/

def execGetVersion (msg : Bytes) (s : State) : Res := .next (s.spdmRow rqGetVersion msg)
def execGetCapabilities (msg : Bytes) (s : State) : Res := .next (s.spdmRow rqGetCapabilities msg)
def execNegotiateAlgorithms (msg : Bytes) (s : State) : Res := .next (s.spdmRow rqNegotiate msg)
def execGetDigests (msg : Bytes) (s : State) : Res := .next (s.spdmRow rqGetDigests msg)
def execGetCertificate (msg : Bytes) (s : State) : Res := .next (s.spdmRow rqGetCertificate msg)
def execSetCertificate (msg : Bytes) (s : State) : Res := .next (s.spdmRow rqSetCertificate msg)
def execChallenge (msg : Bytes) (s : State) : Res := .next (s.spdmRow rqChallenge msg)
def execGetMeasurements (msg : Bytes) (s : State) : Res := .next (s.spdmRow rqGetMeasurements msg)
def execKeyExchange (msg : Bytes) (s : State) : Res := .next (s.spdmRow rqKeyExchange msg)
def execFinish (msg : Bytes) (s : State) : Res := .next (s.spdmRow rqFinish msg)
def execEndSession (msg : Bytes) (s : State) : Res := .next (s.spdmRow rqEndSession msg)
def execDomainKeyInstall (msg : Bytes) (s : State) : Res := .next (s.domainMsg 1 msg)
def execDomainKeyErase (msg : Bytes) (s : State) : Res := .next (s.domainMsg 2 msg)

/-- A message outside Table: SPDM support, or too long: an ERROR response. -/
def State.unsupported (s : State) (msg : Bytes) : State :=
  match s.head, s.spdmRefused msg with
  | true, some e => s.replyError e false
  | _, _ => s

def execUnsupportedRequest (msg : Bytes) (s : State) : Res := .next (s.unsupported msg)

/-- A health test fails: SEC_ENTROPY, and L0 until the next cold reset (R372). -/
def execEntropyFail (s : State) : Res := .next ((s.modSec fun x => { x with entropyOk := false }).logEv evEntropy 0)

end Sys2Proof.Machine
end

