-- ==== Sys2Proof/Machine/Power.lean ====
section
/-! DEFINITION. Power, clocks and ageing (R392 to R406, R409, R430): recess, the governor, droop, telemetry, the ceiling; the commands
RECESS_ENTRY, FCLK_ENABLE, FCLK_EN_LOWERED, MONITOR_READING, GOVERNOR_WINDOW, DROOP, DROOP_DEASSERTED, DROOP_RELEASE,
TELEMETRY_WORD, PWR_VF_WRITE. -/

namespace Sys2Proof.Machine

def State.modPwr (s : State) (f : PwrSt → PwrSt) : State := { s with pwr := f s.pwr }
def State.modPins (s : State) (f : Pins → Pins) : State := { s with pins := f s.pins }

/-! ## Fields of PWR_CTRL -/

def State.slackMin (s : State) : Nat := s.regF aPwrCtrl 48 8
def State.droopDuty (s : State) : Nat := s.regF aPwrCtrl 32 4
def State.recessEn (s : State) : Bool := bitAt (s.reg aPwrCtrl) 8
def State.retain (s : State) : Bool := bitAt (s.reg aPwrCtrl) 7
def State.stepCap (s : State) : Nat := s.regF aPwrCtrl 0 3
def State.fmax (s : State) (k : Nat) : Nat := s.regF (aPwrVf + 8 * k) 0 16
def State.dscale (s : State) (k : Nat) : Nat := s.regF (aPwrVf + 8 * k) 32 16

/-- Seconds of hall clock since the cold reset. -/
def State.seconds (s : State) : Nat := s.hall.toNat / 100000000 % 2 ^ 32

/-! ## Recess (R393 to R395) -/

/-- No queue is READY or BUSY, no unit holds work, nothing runs (R393; log 54). -/
def State.quiet (s : State) : Bool :=
  (s.ques.all fun q => let st := s.queState q.1; st != 1 && st != 3)
    && s.flights.isEmpty
    && (s.stms.all fun c => c.2.st != 1) && !(s.lkrs.any fun x => x.2.e.live == lkMoving && x.2.e.src != 4)
    && (s.crs.all fun c => c.2.st != 1 || (!c.2.ready && s.crsEng.busy != some c.1))
    && decide (s.mkr.phase ≤ 2) && s.recovRunning == 0
    && s.load.phase == 0 && s.rst.isNone && s.exp.isNone && !s.tut.ckpt && !s.pwr.applying

/-- A T0 locker slot is allocated. -/
def State.t0Allocated (s : State) : Bool :=
  s.lkrs.any fun l => (l.2.slotA.any fun p => p.1 == 0) || (l.2.slotB.any fun p => p.1 == 0)

/-- RECESS_ENTRY: the conditions have held for RECESS_US; fclk_req goes low. -/
def State.recessEntry (s : State) : State :=
  if !s.recessEn || !s.pins.fclkReq || !s.pins.fclkEn || !s.quiet then s
  else
    let deep := !s.retain && s.tut.st == 0 && !s.t0Allocated
    (s.modPwr fun p => { p with entering := true, from_ := if deep then 3 else 2 }).modPins fun p => { p with fclkReq := false }

/-- FCLK_EN_LOWERED: the fast clock has stopped. A change of operating step is made and the clock asked for again; an entry into
recess is complete, with any pending step. While fclk_req is high the chip may not lower fclk_en, and nothing follows. -/
def State.fclkLowered (s : State) : State :=
  if s.pins.fclkReq then s
  else
    let s := s.modPins fun p => { p with fclkEn := false }
    if s.pwr.applying then
      (s.takeStep.modPwr fun p => { p with applying := false, st := 2, entering := false }).modPins fun p => { p with fclkReq := true }
    else
      let s := s.takeStep
      if s.pwr.entering then s.modPwr fun p => { p with entering := false, st := p.from_ } else s

/-- Leaving RECESS_N: the bank groups other than group 0 read zero, and the histories come back from their shadow. -/
def State.powerUp (s : State) : State :=
  let s : State := { s with
    t0 := s.t0.filter fun e => s.bankOf e.1 == 0
    t0Poison := s.t0Poison.filter fun e => s.bankOf (8 * e.1) == 0 }
  s.t0Write s.t0Scratch (Tab.bytes s.err.histShadow 0 (s.nmHists * 128))

/-- A reading is due at a wake: the confirming one, or the last one is 60 s old (R402, R404). -/
def State.wakeReading (s : State) : Bool :=
  s.pwr.confirm || (s.pwr.ref.isSome && decide (60 ≤ (s.seconds + 2 ^ 32 - s.regF aPwrSlack 32 32) % 2 ^ 32))

/-- FCLK_ENABLE: fclk_en rises; on request, the first useful cycle follows. -/
def State.fclkRaised (s : State) : State :=
  if s.pins.fclkEn then s
  else
    let s := s.modPins fun p => { p with fclkEn := true }
    if !s.pins.fclkReq then s
    else
      let s := if s.pwr.st = 3 then s.powerUp else s
      let due := s.wakeReading
      s.modPwr fun p => { p with st := 2, entering := false, readDue := p.readDue || due }

/-- STATE of PWR_STATUS (Table: Form power states). -/
def State.powerState (s : State) : Nat :=
  if s.pins.fclkReq && !s.pins.fclkEn then 4
  else if s.pins.fclkEn then
    (if s.flights.isEmpty && s.mkr.phase ≤ 2 && (s.ques.all fun q => let st := s.queState q.1; st != 1 && st != 3) then 1 else 0)
  else s.pwr.st

/-! ## The governor (R396 to R399) -/

/-- The duty in force. -/
def State.dutyNow (s : State) : Nat := if s.pwr.droopHeld then min s.pwr.duty s.droopDuty else s.pwr.duty

/-- The request: the peaks of the units, and the floor of 2.5 W with which pwr_req leaves reset (log 54). -/
def powerRequest (peak : Nat) : Nat := min 0xFFFF (peak + 10)

/-- The duties after a window whose estimate was `est` under grant `g`. -/
def PwrSt.govern (p : PwrSt) (g est : Nat) : PwrSt :=
  if g < est then
    if 1 < p.duty then { p with duty := p.duty - 1 } else { p with streamDuty := max 1 (p.streamDuty - 1) }
  else if 16 * est ≤ 15 * g then { p with duty := min 16 (p.duty + 1), streamDuty := min 16 (p.streamDuty + 1) }
  else p

/-- GOVERNOR_WINDOW. -/
def State.governor (s : State) (grant est peak : Nat) : State :=
  let low := decide (grant < 10)
  let s := if low && !s.pwr.lowLogged then s.logEv evGrantLow 0 else s
  let s := s.modPwr fun p => { (p.govern (max grant 10) est) with lowLogged := low }
  let req := powerRequest peak
  let s := s.modPins fun p => { p with grant := grant, pwrReq := req }
  let s := s.setReg aPwrGrant (word (at_ 32 req + grant))
  let s := s.setReg aPwrEst (word (at_ 32 (max est (s.regF aPwrEst 32 16)) + est))
  let s := if s.pwr.duty < 16 then s.incF aPwrThrottle 32 32 1 else s
  let s := if s.pwr.droopHeld && decide (s.droopDuty < s.pwr.duty) then s.incF aPwrThrottle 0 32 1 else s
  if s.tut.st = 0 then s.changeStep else s

/-- DROOP. -/
def State.droopOn (s : State) : State :=
  if s.pins.droop then s
  else ((s.modPins fun p => { p with droop := true }).modPwr fun p => { p with droopHeld := true }).logEv evDroop 0

/-- DROOP_RELEASE: DROOP_HOLD has passed since the input fell. -/
def State.droopRelease (s : State) : State :=
  if s.pins.droop then s else s.modPwr fun p => { p with droopHeld := false }

/-! ## Telemetry (R400, R430) -/

/-- Two's complement of an `n`-bit field. -/
def signed (n v : Nat) : Int := if 2 ^ (n - 1) ≤ v then (v : Int) - 2 ^ n else v

/-- A LINEAR11 word in millivolts, as a fraction. -/
def linear11 (w : Nat) : Int × Nat :=
  let e := signed 5 (w / 2048 % 32)
  let y := signed 11 (w % 2048)
  if 0 ≤ e then (y * 1000 * 2 ^ e.toNat, 1) else (y * 1000, 2 ^ (-e).toNat)

/-- The place of a READ command's word in PWR_TELEM. -/
def telemField (cmd : Nat) : Option Nat :=
  match cmd with
  | 0x88 => some 0 | 0x89 => some 16 | 0x97 => some 32 | 0x8D => some 48 | _ => none

/-- READ_VIN: PWR_VIN and its range. A value that MV cannot hold is a free value (log 1). -/
def State.vinWord (s : State) (w : Nat) : State :=
  let m := linear11 w
  let mv := m.1.tdiv m.2
  let (v, s) : Nat × State := if 0 ≤ mv ∧ mv < 2 ^ 32 then (mv.toNat, s) else ((s.draw.1).toNat % 2 ^ 32, s.draw.2)
  let s := s.setReg aPwrVin (word (at_ 32 1 + v))
  let bad := decide (m.1 < 32400 * m.2 ∨ 66000 * m.2 < m.1)
  let s := if bad && !s.pwr.vinBad then s.logEv evVinRange 0 else s
  s.modPwr fun p => { p with vinBad := bad }

/-- TELEMETRY_WORD; other codes are ignored. -/
def State.telemetry (s : State) (cmd w : Nat) : State :=
  match telemField cmd with
  | none => s
  | some lo =>
    let s := s.setF aPwrTelem lo 16 w
    if cmd = 0x88 then s.vinWord w else s

/-! ## The ceiling (R401 to R405) -/

/-- The operating step that ceiling and cap ask for becomes pending when it is not in force. -/
def State.retarget (s : State) : State :=
  let k := min s.pwr.ceiling s.stepCap
  let s := s.modPwr fun p => { p with pend := if k = p.step then none else some k }
  if s.tut.st = 0 then s.changeStep else s

/-- The slack predicted at step `k` from `sl` read at step `c` (R403). A slack above 1000 ‰ gives a negative load; a table that gives
the present step a zero product states no result (log 1). -/
def State.predicted (s : State) (sl c k : Nat) : Int :=
  let num : Int := (1000 - (sl : Int)) * (s.fmax k * s.dscale k : Nat)
  let den : Int := (s.fmax c * s.dscale c : Nat)
  if den = 0 then 1000 - ((Config.openResult 0x403 sl k).toNat : Int) else 1000 - (num + den - 1) / den

/-- The new ceiling: the highest step, not above the present one, that keeps SLACK_MIN. -/
def State.newCeiling (s : State) (sl : Nat) : Option Nat :=
  ((List.range (s.pwr.ceiling + 1)).reverse).find? fun k => decide ((s.slackMin : Int) ≤ s.predicted sl s.pwr.step k)

/-- One wear-log entry. -/
def State.wearLog (s : State) (old new worst sl ref cause : Nat) : State :=
  let nx := s.regF aPwrWlogPtr 0 6
  let e := word (at_ 32 s.seconds + at_ 29 old + at_ 26 new + at_ 21 worst + at_ 11 (sl % 1024) + at_ 1 (ref % 1024) + cause)
  let s := s.setReg (aPwrWlog + 8 * nx) e
  (s.incF aPwrWlogPtr 32 32 1).setF aPwrWlogPtr 0 6 ((nx + 1) % 64)

/-- A re-plan after slack `sl` of monitor `worst`, with REF before it; the first reading has none and writes no wear-log entry (R402). -/
def State.replan (s : State) (sl worst : Nat) (ref : Option Nat) : State :=
  let old := s.pwr.ceiling
  let new := s.newCeiling sl
  let k := new.getD 0
  let s := if new.isNone then s.logEv evFloor k else s
  let s := s.modPwr fun p => { p with ceiling := k }
  let s := s.logEv evReplan k
  let s := match ref with
    | none => s
    | some r => s.wearLog old k worst sl r (b2n (decide (sl < s.slackMin)))
  s.retarget

/-- MONITOR_READING, when one is due. -/
def State.monitor (s : State) (sl worst : Nat) : State :=
  if !s.pwr.readDue then s
  else
    let ref := s.pwr.ref
    let again := s.pwr.confirm
    let replans := decide (sl < s.slackMin) || (!again && ref.any fun r => decide (sl + 20 ≤ r))
    let ref' := if replans || again then sl else ref.getD sl
    let s := s.modPwr fun p => { p with readDue := false, confirm := false, ref := some ref' }
    let s := s.setReg aPwrSlack (word (at_ 32 s.seconds + at_ 24 worst + at_ 12 ref' + sl))
    if replans then s.replan sl worst ref else s

/-- The bits of PWR_VFk. -/
def vfMask : Word := 0x0000FFFFFF00FFFF#64

/-- pwr_vid follows the table while the clock is stopped (R409). -/
def State.followVid (s : State) : State :=
  if s.pins.fclkReq || s.pins.fclkEn then s else let v := s.vidNow; s.modPins fun p => { p with pwrVid := v }

/-- PWR_VF_WRITE: ignored after the first full load since cold reset. -/
def State.writeVf (s : State) (k : Nat) (v : Word) : State :=
  if s.pwr.vfLocked then s else (s.setReg (aPwrVf + 8 * k) (v &&& vfMask)).followVid

/-- The bits of PWR_CTRL. -/
def pwrCtrlMask : Word := 0x00FFFF0FFFFF01F7#64

/-- A write of PWR_CTRL: CEIL_INIT sets the ceiling before the first full load (R405), STEP_CAP the operating step. -/
def State.writePwrCtrl (s : State) (v : Word) : State :=
  let s := s.setReg aPwrCtrl (v &&& pwrCtrlMask)
  let c := s.regF aPwrCtrl 4 3
  let s := if s.pwr.vfLocked then s else s.modPwr fun p => { p with ceiling := c }
  s.retarget

/-! ## The commands -/

def execRecessEntry (s : State) : Res := .next s.recessEntry
def execFclkEnable (s : State) : Res := .next s.fclkRaised
def execFclkEnLowered (s : State) : Res := .next s.fclkLowered
def execMonitorReading (slack : BitVec 12) (worst : BitVec 5) (s : State) : Res := .next (s.monitor slack.toNat worst.toNat)
def execGovernorWindow (grant est peak : BitVec 16) (s : State) : Res :=
  .next (s.governor grant.toNat est.toNat peak.toNat)
def execDroop (s : State) : Res := .next s.droopOn
def execDroopDeasserted (s : State) : Res := .next (s.modPins fun p => { p with droop := false })
def execDroopRelease (s : State) : Res := .next s.droopRelease
def execTelemetryWord (cmd : BitVec 8) (w : BitVec 16) (s : State) : Res := .next (s.telemetry cmd.toNat w.toNat)
def execPwrVfWrite (k : BitVec 3) (v : Word) (s : State) : Res := .next (s.writeVf k.toNat v)

end Sys2Proof.Machine
end

