-- ==== Sys2Proof/Machine/Stalls.lean ====
section
/-! DEFINITION. Stall causes and stall counters (R207, R219): the cause of each running context now, and the stall cycles that a
hall-clock cycle adds. -/

namespace Sys2Proof.Machine

/-- A request of context `c` waits at the far port, or its read is outstanding there. -/
def State.farBusy (s : State) (c : Nat) : Bool :=
  (s.mem.wait.any fun r => r.who == c && r.port == 2) || s.mem.out.any fun o => o.req.who == c && o.req.port == 2

/-- The cause of the entry that is read or awaited (Table: Stall causes): a unit command's output and an engine satchel are a
DEPENDENCY, a connection and the far port LINK, a memory port MEMORY. -/
def State.readCause (s : State) (c : Nat) : Nat :=
  let x := s.stm c
  if x.fed then 5
  else match epKind x.src with
  | 6 => 5
  | 7 => 1
  | 9 => 1
  | _ => if s.farBusy c then 1 else 3

/-- The stall cause of context `c` now (STM_STATUS.CAUSE): 0 none, 1 LINK, 2 EXPANDER, 3 MEMORY, 4 CREDIT, 5 DEPENDENCY,
6 DECRYPT. An entry on its way to a tier that waits for a slot or a tag counts MEMORY. Data passes the security engine and the
expanders within one command, so 2 and 6 are never seen (log 4). -/
def State.stallCause (s : State) (c : Nat) : Nat :=
  let x := s.stm c
  if x.st ≠ 1 then 0
  else match x.ents.find? (·.stage != 3) with
  | none =>
    if x.ents.isEmpty then
      (if x.cause == 5 && (decide (s.bell (fld x.ctrl 48 16) < x.issued + 1) || s.dstHeld c) then 5 else 0)
    else if s.mem.wait.any fun r => r.who == c && r.wr then 3 else 0
  | some e =>
    if e.stage = 2 then (if s.destReady c then 0 else 4)
    else if e.stage = 0 then 5
    -- a piece that a bench cannot use before its predecessor has come (R130)
    else if epKind x.dst = 4 ∧ x.ents.any (·.stage == 2) then 5
    else s.readCause c

/-- The form-wide counter of a cause; the registers stand in the order LINK, EXPANDER, MEMORY, CREDIT, DEPENDENCY, DECRYPT. -/
def stallReg (cause : Nat) : Nat := aStmStall + 8 * (cause - 1)

/-- Fast-clock cycles that a hall-clock cycle holds at most: 20 at 2.0 GHz. -/
def stallCycles (w : Word) : Nat := w.toNat % 21

/-- The stall cycles of context `c` in one hall-clock cycle: a free number, since the spec gives no cycle counts (log 4). -/
def State.stallCtx (s : State) (c : Nat) : State :=
  let k := s.stallCause c
  if k = 0 then s
  else
    let (w, s) := s.draw
    let n := stallCycles w
    let s := s.modStm c fun x => { x with stall := satAdd (2 ^ 64 - 1) x.stall n }
    s.incF (stallReg k) 0 64 n

/-- One hall-clock cycle of the block. -/
def State.cycle (s : State) : State := (s.tick.stms.map Prod.fst).foldl State.stallCtx s.tick

end Sys2Proof.Machine
end

