-- ==== Sys2Proof/Machine/HostRead.lean ====
section
/-! DEFINITION. The register index (R436, R439, R440) and what a read of each register gives. Registers that hold a plain value
are read from the register table; the others are computed from the state here. -/

namespace Sys2Proof.Machine

/-! ## The register index -/

/-- The single registers of Table: Register index, as first and last form offset of each run. -/
def regSpans : List (Nat × Nat) :=
  [(0, 0x38), (0x10000, 0x10038), (0x18000, 0x1FFF8), (0x20000, 0x200A0), (0x21000, 0x21FF8), (0x30000, 0x30090)
  , (0x31000, 0x311F8), (0x40000, 0x40080), (0x41000, 0x41FF8), (0x100000, 0x100028), (0x100040, 0x1000A0)
  , (0x180000, 0x180088), (0x200000, 0x200030), (0x200040, 0x200090), (0x280000, 0x280078), (0x300000, 0x300078)
  , (0x440000, 0x440040), (0x900000, 0x900080), (0xA90000, 0xA90018), (0xB80000, 0xB80040), (0xC00000, 0xC00088)
  , (0xC01000, 0xC01FF8), (0xD00000, 0xD00068), (0xE00000, 0xE00030)]

/-- The arrays of Table: Register index for a parameter set: first offset, bytes of an entry, entries, registers of an entry. -/
def regArrays (set : Nat) : List (Nat × Nat × Nat × Nat) :=
  [(0x400000, 64, limStreams set, 8), (0x800000, 256, limCouriers set, 10), (0xA00000, 8, limBells set, 1)
  , (0xA80000, 32, limAsms set, 4), (0xB00000, 64, limQueues set, 3), (0xF00000, 64, limSlots set, 4)]

/-- The 8-byte aligned form offset `a` names a register; the others are holes (R436). -/
def State.regAt (s : State) (a : Nat) : Bool :=
  (regSpans.any fun r => decide (r.1 ≤ a ∧ a ≤ r.2))
    || (regArrays s.part.set).any fun r =>
      decide (r.1 ≤ a ∧ a < r.1 + r.2.1 * r.2.2.1 ∧ (a - r.1) % r.2.1 < 8 * r.2.2.2)

/-- A window whose access a full load withholds (R56). -/
def inUnits (a : Nat) : Bool := decide (0x100000 ≤ a)

/-- A window whose writes wake the form (R438): LKR to CMP. -/
def wakes (a : Nat) : Bool := decide (0x100000 ≤ a ∧ a < 0xA00000)

/-! ## OFC, SYL, SEC, PWR -/

/-- OFC_LIMITS. -/
def ofcLimits (set : Nat) : Word :=
  word (at_ 48 (Nat.log2 (limCouriers set)) + at_ 40 (Nat.log2 (limLockers set)) + at_ 32 (Nat.log2 (limSlots set))
    + at_ 24 (Nat.log2 (limAsms set)) + at_ 16 (Nat.log2 (limBells set)) + at_ 8 (Nat.log2 (limQueues set))
    + Nat.log2 (limStreams set))

/-- OFC_COMPAT (R10). -/
def State.ofcCompat (s : State) : Word :=
  word (at_ 4 (b2n (decide (s.part.compat < 2))) + at_ 2 s.part.compat + s.level)

def State.readOfc (s : State) (off : Nat) : Word :=
  match off with
  | 0x00 => ofcId
  | 0x08 => s.ofcConfig
  | 0x10 => ofcLimits s.part.set
  | 0x18 => s.hall
  | 0x28 => s.ofcCompat
  | _ => s.reg off

/-- SYL_STATUS. -/
def State.sylStatus (s : State) : Word :=
  word (at_ 32 s.load.pushed + at_ 4 s.load.phase + at_ 2 (b2n s.load.pend.isSome) + at_ 1 (b2n s.syl.isSome)
    + b2n (s.load.phase != 0))

/-- SYL_PENDING. -/
def State.sylPending (s : State) : Word :=
  match s.load.pend with
  | none => 0
  | some im => word (at_ 32 im.applyStep + im.serial)

def State.readSyl (s : State) (off : Nat) : Word :=
  match off with
  | 0x08 => s.sylStatus
  | 0x20 => s.sylPending
  | _ => s.reg (0x10000 + off)

/-- SEC_STATUS; ENTROPY_OK reads 0 until the first hall-clock cycle (log 55). -/
def State.secStatus (s : State) : Word :=
  word (at_ 7 (b2n s.sec.sessionUp) + at_ 6 (b2n s.exp.isSome) + at_ 5 (b2n s.rst.isSome)
    + at_ 4 (b2n (s.regF aSecCkpt 0 32 != 0)) + at_ 3 (b2n s.sec.domain.isSome) + at_ 2 (b2n (s.sec.entropyOk && s.hall != 0)))

/-- SEC_MBOX. -/
def State.secMbox (s : State) : Word :=
  word (at_ 48 s.sec.mboxRespLen + at_ 32 s.sec.mboxReqLen + at_ 2 (b2n s.sec.mboxReady) + at_ 1 (b2n s.sec.mboxBusy))

/-- The bits of SEC_LINKS for port `p`: keys installed, key index in use. -/
def State.linkKeyed (s : State) (p : Nat) : Nat := b2n ((s.flink p).tx0.isSome || (s.flink p).tx1.isSome)
def State.linkIndex (s : State) (p : Nat) : Nat := (s.flink p).txIndex

/-- SEC_LINKS. -/
def State.secLinks (s : State) : Word :=
  let bits (f : Nat → Nat) (first n : Nat) : Nat := ((List.range n).map fun i => at_ i (f (first + i))).sum
  word (at_ 16 (s.regF aSecLinks 16 16) + at_ 8 (bits s.linkIndex 2 4) + at_ 4 (bits s.linkKeyed 2 4)
    + at_ 2 (bits s.linkIndex 0 2) + bits s.linkKeyed 0 2)

def State.readSec (s : State) (off : Nat) : Word :=
  if 0x10 ≤ off ∧ off < 0x40 then word ((s.sec.identity.toNat >>> (8 * (off - 0x10))) % 2 ^ 64)
  else match off with
  | 0x00 => s.secStatus
  | 0x40 => s.secMbox
  | 0x70 => word (at_ 1 (b2n s.rst.isSome))
  | 0x80 => word (at_ 24 (s.regF aSecExportCtrl 24 18) + at_ 1 (b2n s.exp.isSome))
  | 0x88 => s.secLinks
  | _ => s.reg (0x20000 + off)

/-- PWR_STATUS. -/
def State.pwrStatus (s : State) : Word :=
  word (at_ 16 s.dutyNow + at_ 11 (b2n s.pwr.pend.isSome) + at_ 8 s.pwr.ceiling + at_ 4 s.pwr.step
    + at_ 3 (b2n (s.pins.droop || s.pwr.droopHeld)) + s.pwr.st)

def State.readPwr (s : State) (off : Nat) : Word :=
  if off = 8 then s.pwrStatus else s.reg (0x30000 + off)

/-! ## ERR -/

/-- Courier `k` has a status bit set whose enable in CRS_CTRL is 1 (R367). -/
def Courier.interrupts (x : Courier) : Bool :=
  (x.ctrl.getLsbD 17 && x.bits.testBit 3) || (x.ctrl.getLsbD 18 && x.bits.testBit 4) || (x.ctrl.getLsbD 19 && x.bits.testBit 5)

/-- ERR_CRS_PEND. -/
def State.crsPend (s : State) : Word :=
  word ((s.crs.filter fun x => x.2.interrupts).map fun x => 2 ^ x.1).sum

/-- ERR_STATUS. -/
def State.errStatus (s : State) : Word :=
  word (at_ 8 s.recovRunning + at_ 6 (b2n s.err.warmNeeded) + at_ 5 (b2n s.err.restoreNeeded) + at_ 4 (b2n s.err.held.isSome)
    + s.serviceLevel)

/-- Bit `u` of ERR_INT_STATUS. -/
def State.intUnit (s : State) (u : Nat) : Bool :=
  match evAddr u with
  | some a => s.regF a 0 48 != 0
  | none => u == 10 && s.crsPend != 0

/-- The bits of ERR_INT_STATUS for this form's units. -/
def State.intUnits (s : State) : Nat := ((List.range 16).map fun u => at_ u (b2n (s.intUnit u))).sum

/-- Interrupt bits 17 to 23 that the package's other forms can set. -/
def State.intForms (s : State) : Nat := if s.head then 2 ^ 17 * (2 ^ (s.forms - 1) - 1) else 0

/-- A read of ERR_INT_STATUS. Whether another form has an enabled source is a free value at the head form (log 55). -/
def State.readInt (s : State) : Word × State :=
  if s.intForms = 0 then (word s.intUnits, s)
  else
    let (w, s) := s.draw
    (word (s.intUnits + Nat.land w.toNat s.intForms), s)

def State.readErr (s : State) (off : Nat) : Word :=
  match off with
  | 0x00 => s.errStatus
  | 0x20 => s.crsPend
  | _ => s.reg (0x40000 + off)

/-! ## LKR, PLN, BNC, NUM, MKR -/

def State.readLkr (s : State) (off : Nat) : Word :=
  if 0x40 ≤ off ∧ off < 0x60 then s.lkrFreeReg ((off - 0x40) / 8)
  else if 0x60 ≤ off ∧ off < 0x80 then word (s.tierSlots ((off - 0x60) / 8))
  else if off = 0x80 then word (at_ 32 (s.regF aLkrCount 32 32) + s.lkrInUse)
  else s.reg (0x100000 + off)

/-- PLN_STATUS; PERIOD is the latest period started (log 55). -/
def State.plnStatus (s : State) : Word :=
  word (at_ 32 s.tut.started + at_ 16 s.tut.term + at_ 8 s.plMode + b2n (!s.pln.held.isEmpty))

def State.readPln (s : State) (off : Nat) : Word :=
  match off with
  | 0x00 => s.plnStatus
  | 0x08 => word s.plnNow
  | 0x10 => if s.syl.isNone then 0 else word (at_ 32 s.rdT1 + s.wrT1)
  | 0x18 => if s.syl.isNone then 0 else word (at_ 32 s.rateFar + s.rateFar)
  | 0x88 => word (at_ 32 s.pln.listed.length + s.regF aPlnRecalls 0 32)
  | _ => s.reg (0x180000 + off)

/-- Bits `0` to `3` of a predicate. -/
def bits4 (f : Nat → Bool) : Nat := ((List.range 4).map fun i => at_ i (b2n (f i))).sum

/-- Bench `b` runs a PAIRED command. -/
def State.benchPaired (s : State) (b : Nat) : Bool := s.flights.any fun f => !f.done && cOp f.cmd == 0x21 && uUnit f.cmd == b

/-- BNC_STATUS. -/
def State.bncStatus (s : State) : Word :=
  word (at_ 16 (bits4 fun b => s.unitBusy (b + 4)) + at_ 12 (bits4 s.unitBusy) + at_ 8 (bits4 s.benchPaired)
    + at_ 4 (s.fence % 16) + s.gang)

def State.readBnc (s : State) (off : Nat) : Word :=
  match off with
  | 0x00 => s.bncStatus
  | 0x08 => word (at_ 24 s.nmExpTable + at_ 16 s.nmTables + Nat.log2 s.nmSpill)
  | 0x10 => word s.seed
  | _ => s.reg (0x200000 + off)

def State.readNum (s : State) (off : Nat) : Word :=
  if off = 0 then word (at_ 16 s.nmHists + at_ 8 s.nmWgrad + s.nmHeadroom) else s.reg (0x280000 + off)

def State.readMkr (s : State) (off : Nat) : Word :=
  match off with
  | 0x00 => s.mkrStatus
  | 0x20 => s.mkrStage
  | _ => s.reg (0x300000 + off)

/-! ## STM, CRS, CMP -/

/-- The registers of context `c`. -/
def State.readStmCtx (s : State) (c off : Nat) : Word :=
  let x := s.stm c
  match off with
  | 0x00 => x.ctrl
  | 0x08 => x.index
  | 0x10 => x.src
  | 0x18 => x.dst
  | 0x20 => word x.stall
  | 0x28 => word (at_ 48 x.code + at_ 4 (s.stallCause c) + x.st)
  | 0x30 => word (at_ 32 x.delivered + x.issued)
  | _ => word (at_ 60 x.errKind + x.errEntry)

/-- STM_SPLIT (R203, R204). -/
def State.stmSplit (s : State) : Word :=
  word (at_ 48 (s.classTags 0 .remote) + at_ 36 (s.classTags 0 .write) + at_ 24 (s.classTags 0 .read)
    + at_ 16 s.shareRemote + at_ 8 s.shareWrite + s.shareRead)

/-- The STM window; `off` from its start. -/
def State.readStm (s : State) (off : Nat) : Word :=
  if off < 0x40000 then s.readStmCtx (off / 64) (off % 64)
  else if off = 0x40000 then s.stmSplit
  else s.reg (0x400000 + off)

/-- The registers of courier `k`. -/
def State.readCrs (s : State) (k off : Nat) : Word :=
  let x := s.cr k
  match off with
  | 0x00 => x.src
  | 0x08 => x.dst
  | 0x10 => x.count
  | 0x18 => x.ctrl
  | 0x20 => x.pace
  | 0x28 => word (at_ 48 x.setcnt + at_ 40 x.pendingEv + x.bits + x.st)
  | 0x30 => word (at_ 32 x.passes + x.bytes)
  | 0x38 => word x.crc.toNat
  | 0x40 => x.errAddr
  | _ => x.errInfo

/-- CMP_STATUS.PRESENT: the far port, then the fabric ports. -/
def cmpPresent (set : Nat) : Nat := if set = 0 then 0 else if set = 1 then 3 else 7

/-- CMP_STATUS: a codec has done with its tile when the command that gave it the tile has ended, so ACTIVE reads 0 (log 55). -/
def State.readCmp (s : State) (off : Nat) : Word :=
  if off = 8 then word (at_ 8 (cmpPresent s.part.set)) else s.reg (0x900000 + off)

/-! ## BEL, QUE, FAB, RCL, TTB, RES -/

/-- The registers of assembly `a`. -/
def State.readAsm (s : State) (a off : Nat) : Word :=
  let x := s.asm a
  match off with
  | 0x00 => x.mask
  | 0x08 => word (at_ 32 x.round.toNat + at_ 16 (x.count 1) + at_ 8 (x.count 0) + at_ 2 (b2n (!x.held.isEmpty))
      + at_ 1 (b2n x.drain1) + b2n x.drain0)
  | 0x10 => x.arr0
  | _ => x.arr1

/-- The BEL window; `off` from its start. -/
def State.readBel (s : State) (off : Nat) : Word :=
  if off < 0x80000 then word (s.bell (off / 8))
  else if off < 0x90000 then s.readAsm ((off - 0x80000) / 32) (off % 32)
  else match off with
  | 0x90000 => word s.stepCtr.toNat
  | 0x90008 => word (at_ 32 s.sync.dlRecords + at_ 16 s.sync.dlBlocked + s.sync.dlFirst)
  | _ => s.reg (0xA00000 + off)

/-- The QUE window; the stage, the push and the control registers are write-only. -/
def State.readQue (s : State) (off : Nat) : Word :=
  if 0x80000 ≤ off then 0
  else match off % 64 with
  | 0x00 => s.queStatus (off / 64)
  | 0x10 => s.queWait (off / 64)
  | _ => 0

/-- STATE of fabric port `p` in FAB_STATUS: 0 fenced or absent, and before the first full load. -/
def State.fabState (s : State) (p : Nat) : Nat := if s.portLive p then (s.flink p).st else 0

/-- ROLE of the partner of port `p`, as its HELLO told. -/
def State.fabRole (s : State) (p : Nat) : Nat :=
  match (s.flink p).helloIn with
  | none => 0
  | some b => leAt b 0 1 % 2

/-- FAB_CREDITp. -/
def State.fabCredit (s : State) (p : Nat) : Word :=
  if !s.isUp p then 0
  else
    let l := s.flink p
    let v (i : Nat) : Nat := min 0xFFFF ((l.limit.getD i 0 + 2 ^ 32 - l.sent.getD i 0 % 2 ^ 32) % 2 ^ 32)
    word (at_ 48 (v 3) + at_ 32 (v 2) + at_ 16 (v 1) + v 0)

/-- The fault-injection controls read zero while FAULT_INJECT is 0 (R45). -/
def isFaultReg (a : Nat) : Bool := decide (aFabFiCtrl ≤ a ∧ a ≤ aFabFiRate + 8)

def State.readFab (s : State) (off : Nat) : Word :=
  if isFaultReg (0xC00000 + off) && !s.faultInject then 0
  else match off with
  | 0x08 => word (at_ 9 (s.fabRole 1) + at_ 8 (s.fabRole 0) + at_ 4 (s.fabState 1) + s.fabState 0)
  | 0x10 => word (at_ 16 s.ownCoord + s.ownNode)
  | 0x18 => word (at_ 24 (s.vcWeight 3) + at_ 16 (s.vcWeight 2) + at_ 8 (s.vcWeight 1) + s.vcWeight 0)
  | 0x20 => s.fabCredit 0
  | 0x28 => s.fabCredit 1
  | _ => s.reg (0xC00000 + off)

/-- RCL_CONFIG. -/
def State.rclConfig (s : State) : Word :=
  word (at_ 32 s.clTimeout + at_ 16 s.clHold + at_ 8 s.clMerge + at_ 1 s.clDivAuto + s.clHomework)

/-- RCL_STATUS: collectives that this form has issued and that are in progress (at the head form: log 55). -/
def State.rclStatus (s : State) : Word :=
  let n (b : Bool) : Nat := s.rcl.colls.countP fun c => c.issued && c.bucket == b
  word (at_ 32 (n false % 512) + at_ 16 (n true % 128) + s.rcl.div.stage)

/-- RCL_GRP of the selected group. -/
def State.rclGroup (s : State) : Word :=
  let g := s.regF aRclGrpSel 0 12
  let m := s.collMembers g
  let repl := g == 0xFFF || (decide (g < s.grCount) && s.grReplica g)
  word (at_ 32 (Tab.get s.rcl.seqs g) + at_ 15 m.length + at_ 10 (spanOf m (least m))
    + at_ 9 (b2n repl) + at_ 8 (b2n (m.contains s.ownCoord)))

def State.readRcl (s : State) (off : Nat) : Word :=
  match off with
  | 0x00 => s.rclConfig
  | 0x08 => s.rclStatus
  | 0x18 => s.rclGroup
  | _ => s.reg (0xD00000 + off)

/-- TTB_STATUS; TTB_PERIOD. -/
def State.ttbStatus (s : State) : Word :=
  word (at_ 8 s.tut.term + at_ 7 (b2n s.tut.ckpt) + at_ 6 (b2n s.tut.haltPending) + at_ 3 s.tut.phase + s.tut.st)
def State.ttbPeriod (s : State) : Word :=
  word (at_ 48 s.tut.started + at_ 32 s.tut.drained + at_ 16 s.tut.termSteps + ttPeriods s.ttSect)

def State.readTtb (s : State) (off : Nat) : Word :=
  match off with
  | 0x08 => s.ttbStatus
  | 0x18 => s.ttbPeriod
  | _ => s.reg (0xE00000 + off)

/-! ## A read -/

/-- A read of a result slot's register. -/
def State.readRes (s : State) (slot off : Nat) : Word × State :=
  let r := Tab.get s.slots slot
  match off with
  | 0x00 => (r.copy, s)
  | 0x08 => s.readResStatus slot
  | 0x10 => s.readResTake slot
  | _ => (r.takeWord, s)

/-- The value of a register whose read changes nothing. -/
def State.regValue (s : State) (a : Nat) : Word :=
  if a < 0x10000 then s.readOfc a
  else if a < 0x20000 then s.readSyl (a - 0x10000)
  else if a < 0x30000 then s.readSec (a - 0x20000)
  else if a < 0x40000 then s.readPwr (a - 0x30000)
  else if a < 0x100000 then s.readErr (a - 0x40000)
  else if a < 0x180000 then s.readLkr (a - 0x100000)
  else if a < 0x200000 then s.readPln (a - 0x180000)
  else if a < 0x280000 then s.readBnc (a - 0x200000)
  else if a < 0x300000 then s.readNum (a - 0x280000)
  else if a < 0x400000 then s.readMkr (a - 0x300000)
  else if a < 0x800000 then s.readStm (a - 0x400000)
  else if a < 0x900000 then s.readCrs ((a - 0x800000) / 256) (a % 256)
  else if a < 0xA00000 then s.readCmp (a - 0x900000)
  else if a < 0xB00000 then s.readBel (a - 0xA00000)
  else if a < 0xC00000 then s.readQue (a - 0xB00000)
  else if a < 0xD00000 then s.readFab (a - 0xC00000)
  else if a < 0xE00000 then s.readRcl (a - 0xD00000)
  else s.readTtb (a - 0xE00000)

/-- A read of the register at form offset `a`: its value, and the state with the read's effect (R262, R114, R194, and the view
registers). Holes read zero (R436), as do the units' windows during a full load (R56). A read never wakes the form (R438). -/
def State.regRead (s : State) (a : Nat) : Word × State :=
  if !s.regAt a || (inUnits a && s.fullLoading) then (0, s)
  else if 0xF00000 ≤ a then s.readRes ((a - 0xF00000) / 64) (a % 64)
  else match a with
  | 0x040010 => s.readInt
  | 0x100008 => s.readLkrState
  | 0x180030 => s.readLastIn
  | 0x280010 => s.readHistState
  | 0x300048 => s.readCard
  | _ => (s.regValue a, s)

end Sys2Proof.Machine
end

