-- ==== Sys2Proof/Machine/Issue.lean ====
section
/-! DEFINITION. The tutor's hand on the queues (R253, R258 to R260, R330, R442): issue, the acceptance of bench and row-unit
commands, completion; and the commands COMMAND_ISSUE, COMMAND_COMPLETE, SKIP, FLUSH. -/

namespace Sys2Proof.Machine

/-! ## Issue -/

/-- The bench and row units that a command holds (R442). -/
def cmdHolds (c : Cmd) : List Nat :=
  match cmdUnit c with
  | none => []
  | some u => if cOp c = 0x20 ∧ uDest c = 3 then [u, u + 4] else [u]

/-- A bench or row-unit command at issue: it waits while a unit that it needs holds another one, is refused, or is accepted.
Commands of other units are taken by rows of their own. -/
def State.acceptUnit (s : State) (q : Nat) : State :=
  match s.atIssue q with
  | none => s
  | some (c, tag) =>
    if (cmdUnit c).isNone ∨ (cmdHolds c).any s.unitBusy then s
    else match s.unitRefusal q c (tag.any fun t => t.kind == 2) with
    | some (e, low) =>
      -- a recompute logs no numerics event (R167)
      (if e.unit = 7 ∧ tag.any (fun t => t.kind == 2) then s else s.logEv e low).stopQueue q e.code
    | none => if s.partWaits c then s else (s.acceptCmd q false).dropBuf (uUnit c)

/-- A bench command at HEAD that no refusal meets waits, as for an unmet wait, while its suspended elements have no room in
the partial store (R123). -/
def State.waitsForPart (s : State) (q : Nat) (c : Cmd) (tag : Option EntTag) : Bool :=
  (cmdUnit c).isSome && (s.unitRefusal q c (tag.any fun t => t.kind == 2)).isNone && s.partWaits c

/-- The command of queue `q` waits for room in the partial store. -/
def State.stuck (s : State) (q : Nat) : Bool := (s.curCmd q).any fun c => s.waitsForPart q c.1 c.2

/-- The queues whose commands can pass now, in the round robin after the queue served last (R260). -/
def State.readyQueues (s : State) : List Nat :=
  sortBy (fun q => (q + 8192 - s.sync.lastQ - 1) % 8192) ((s.ques.map Prod.fst).filter fun q =>
    match s.testHead q s.stuck with
    | .pass _ _ _ => !s.stuck q
    | _ => false)

/-- Queue `q` is among the four that the tutor serves in this cycle. -/
def State.servedNow (s : State) (q : Nat) : Bool := (s.readyQueues.take 4).contains q

/-- The command at HEAD would be tested but its words in the ring are uncorrectable (R348). -/
def State.ringBad (s : State) (q : Nat) : Bool :=
  let x := s.que q
  x.run == .going && !x.held && !x.issued && !x.late && !x.haltReq && x.aside.isNone && !s.queEmpty q && s.t0Bad (s.ringAddr q x.head) 64

/-- COMMAND_ISSUE: a command that can pass is issued when the tutor's round robin comes to its queue in this cycle (R260). -/
def State.commandIssue (s : State) (q : Nat) : State :=
  if s.ringBad q then (s.logEv evSramUncorrectable 0).stopQueue q evSramUncorrectable.code
  else if (s.atIssue q).isSome then s.acceptUnit q
  else match s.testHead q s.stuck with
  | .nothing => s
  | .illegal => s.refuseHead q 0
  | .waits => s.beginWait q
  | .pass c tag t =>
    if s.waitsForPart q c tag then s.beginWait q else if s.servedNow q then (t.markIssued q).acceptUnit q else s

/-! ## Completion and the end of entries -/

/-- The run of an entry that a tag names. -/
def EntRun.isOf (r : EntRun) (t : EntTag) : Bool := r.kind == t.kind && r.run == t.run && r.entry == t.entry

/-- A command of an entry has completed, or was dropped (log 56). The last one ends the entry: its DONE_BELL is answered, its
format rungs are cleared; a recompute entry leaves the list (R330, R335). -/
def State.entGone (s : State) (tag : Option EntTag) : Option Nat × State :=
  match tag with
  | none => (none, s)
  | some t =>
    match s.tut.runs.find? (·.isOf t) with
    | none => (none, s)
    | some r =>
      let r' := r.note t.idx
      let fin := !r.ended && decide (s.entLen r ≤ r'.doneCount)
      let put (x : EntRun) : EntRun := if x.isOf t then { r' with ended := r.ended || fin } else x
      let runs := s.tut.runs.map put
      let runs := if fin && r.kind == 2 then runs.filter fun x => !x.isOf t else runs
      let bell := s.entField r 0xC 2
      let key := t.rungKey 0 / 16384
      let s : State := { s with
        tut := { s.tut with runs := runs }
        bnc := { s.bnc with rung := if fin then s.bnc.rung.filter fun e => e.1 / 16384 != key else s.bnc.rung } }
      (if fin && bell != 0xFFFF then some bell else none, s)

/-- The commands with these tags are gone from their entries: the DONE_BELL signals due. -/
def State.entsGone (s : State) : List (Option EntTag) → List (Nat × Nat) × State
  | [] => ([], s)
  | t :: rest =>
    let r := s.entGone t
    let x := r.2.entsGone rest
    (r.1.toList.map (fun b => (b, 1)) ++ x.1, x.2)

/-- A command whose unit has finished with it. -/
def State.flightOver (s : State) (f : Flight) : Bool := !f.dropped && (f.done || (f.ran && s.outputsDone f))

/-- The oldest finished command of queue `q`. -/
def State.oldestOver (s : State) (q : Nat) : Option Flight := s.flights.find? fun f => f.queue == q && s.flightOver f

/-- COMMAND_COMPLETE: the commands complete in one cycle, and their signals are signals of that cycle (R258). Commands of an
abandoned entry leave without a trace (R335). -/
def State.commandComplete (s : State) (qs : List Nat) (closes : List (Nat × Nat)) : State :=
  let fs := qs.filterMap s.oldestOver
  let adds := fs.flatMap s.flightAdds
  let arrivals := fs.flatMap s.flightArrivals
  let s : State := { s with flights := s.flights.filter fun f => !(fs.contains f || (f.dropped && f.done)) }
  let s := fs.foldl (fun s f => s.prodGone f.tag f.cmd true f.amax) s
  let r := s.entsGone (fs.map Flight.tag)
  let s := (r.2.closeRuns closes).arriveAll arrivals
  let s := if (adds ++ r.1).isEmpty then s else s.signalAll (adds ++ r.1)
  let s := qs.foldl State.boundaryHalt s
  s.entriesEnded.settle

/-! ## SKIP and FLUSH -/

/-- The commands from HEAD to TAIL. -/
def State.ringCmds (s : State) (q : Nat) : List (Cmd × Option EntTag) :=
  let x := s.que q
  (List.range (s.queCount q)).map fun i =>
    (cmdOfBytes (s.t0Read (s.ringAddr q (x.head + i)) 64), (x.tags[i]?).join)

/-- Commands that a control action drops: they complete nothing, yet count as gone for their production and their entry
(R159; log 56). -/
def State.cmdsDropped (s : State) (cs : List (Cmd × Option EntTag)) : State :=
  let s := cs.foldl (fun s c => s.prodGone c.2 c.1 false 0) s
  let r := s.entsGone (cs.map Prod.snd)
  let s := if r.1.isEmpty then r.2 else r.2.signalAll r.1
  s.entriesEnded.settle

/-- A write of QUE_CTRL, with what its SKIP or FLUSH drops. -/
def State.queCtrl (s : State) (q v : Nat) : State :=
  let t := s.writeQueCtrl q v
  if v % 32 = 2 ∧ (s.que q).run = .stopped then t.cmdsDropped (s.curCmd q).toList
  else if v % 32 = 16 ∧ (s.que q).run ≠ .going then t.cmdsDropped ((s.que q).aside.toList ++ s.ringCmds q)
  else t

/-- A host write of QUE_CTRL of a queue within the set's limit (R436). -/
def State.hostCtrl (s : State) (q v : Nat) : State :=
  if q < limQueues s.part.set then s.queCtrl q v else s.hostHole

/-! ## The commands -/

def execCommandIssue (q : BitVec 13) (s : State) : Res := .next (s.commandIssue q.toNat)
def execCommandComplete (qs : List (BitVec 13)) (closes : List (BitVec 18 × BitVec 16)) (s : State) : Res :=
  .next (s.commandComplete (qs.map BitVec.toNat) (closes.map fun c => (c.1.toNat, c.2.toNat)))
def execSkip (q : BitVec 13) (s : State) : Res := .next (s.hostWrites (s.hostCtrl q.toNat 2))
def execFlush (q : BitVec 13) (s : State) : Res := .next (s.hostWrites (s.hostCtrl q.toNat 16))

end Sys2Proof.Machine
end

