-- ==== Sys2Proof/Machine/HostWrite.lean ====
section
/-! DEFINITION. What a host write of each register does (R16 to R20, R64, R436 to R440), and a doorbell within the form (R413). -/

namespace Sys2Proof.Machine

/-! ## Fields and event bits -/

/-- The writable bits `m` of the register at `a` take those of `v`. -/
def State.writeBits (s : State) (a : Nat) (m v : Word) : State := s.setReg a ((s.reg a &&& ~~~m) ||| (v &&& m))

/-- W1C (R20): the bits `m` of `cur` after software writes `v` in a cycle in which the block sets `same`. At level 3 a bit set in
the cycle stays set, at level 2 the clear wins. -/
def w1c (level : Nat) (m cur v same : Word) : Word :=
  if level = 3 then (cur &&& m &&& ~~~v) ||| (same &&& m) else ((cur ||| same) &&& m) &&& ~~~v

/-- A bit is cleared and set in one cycle: SETCNT advances by one (R20). -/
def w1cMeets (m v same : Word) : Bool := v &&& m &&& same != 0

/-- A write of the event register at `a` with `n` event bits. -/
def State.writeEvent (s : State) (a n : Nat) (v same : Word) : State :=
  let m := word (2 ^ n - 1)
  let cur := s.reg a
  let s := s.setReg a ((cur &&& ~~~m) ||| w1c s.level m cur v same)
  if w1cMeets m v same then s.incF a 48 16 1 else s

/-- The event registers with the number of their event bits. -/
def eventRegs : List (Nat × Nat) :=
  [(aSylEvent, 4), (aSecEvent, 7), (aPwrEvent, 5), (aErrEvent, 7), (aLkrEvent, 4), (aPlnEvent, 6), (aBncEvent, 4), (aNumEvent, 5)
  , (aMkrEvent, 8), (aStmEvent, 5), (aCmpEvent, 2), (aSynEvent, 10), (aFabEvent, 6), (aRclEvent, 10), (aTtbEvent, 5)]

/-- The number of event bits of the register at `a`, if it is an event register. -/
def eventBits (a : Nat) : Option Nat := (eventRegs.find? fun r => r.1 == a).map Prod.snd

/-! ## OFC, SYL, SEC, PWR, ERR -/

def State.writeOfc (s : State) (off : Nat) (v : Word) : State :=
  match off with
  | 0x20 => s.setReg aOfcScratch v
  | 0x30 => if bitAt v 1 then s.ofcWarm else s
  | _ => s

/-- START of SYL_CTRL; a MODE that is neither full nor partial is refused. -/
def State.sylCtrlStart (s : State) (v : Word) : State :=
  let mode := fld v 4 2
  if mode = 1 ∨ mode = 2 then s.sylStart mode (fld v 2 1) else s.sylRefuse (evSylBusy, 0xFF, 0)

/-- A write of SYL_CTRL; ABORT takes effect before START (log 60). -/
def State.writeSylCtrl (s : State) (v : Word) : State :=
  let s := ((s.setF aSylCtrl 4 2 (fld v 4 2)).setF aSylCtrl 2 1 (fld v 2 1)).wake
  let s := if bitAt v 1 then s.sylAbort else s
  if bitAt v 0 then s.sylCtrlStart v else s

def State.writeSyl (s : State) (off : Nat) (v : Word) : State :=
  if 0x8000 ≤ off then s.sylPush v
  else match off with
  | 0x00 => s.writeSylCtrl v
  | 0x10 => s.setReg aSylSrc (word (at_ 6 (fld v 6 42)))
  | _ => s

/-- A write of SEC_MBOX: REQ_LEN, then GO. -/
def State.writeMbox (s : State) (v : Word) : State :=
  let s := (s.modSec fun x => { x with mboxReqLen := fld v 32 16 }).wake
  if bitAt v 0 then s.mboxGo else s

/-- Address registers whose bits [11:0] are zero. -/
def pageMask : Word := 0xFFFFFFFFFFFFF000#64

def State.writeSec (s : State) (off : Nat) (v : Word) : State :=
  if 0x1000 ≤ off then (if s.sec.mboxBusy then s else s.setReg (0x20000 + off) v)
  else match off with
  | 0x08 => if bitAt v 0 then s.zeroise else s
  | 0x40 => s.writeMbox v
  | 0x68 => s.setReg aSecRestoreAddr (v &&& pageMask)
  | 0x70 => if bitAt v 0 then s.restoreStart.wake else s
  | 0x78 => s.setReg aSecExportAddr (v &&& pageMask)
  | 0x80 => s.exportStart v
  | _ => s

def State.writePwr (s : State) (off : Nat) (v : Word) : State :=
  if off = 0 then s.writePwrCtrl v
  else if 0x40 ≤ off ∧ off < 0x80 then s.writeVf ((off - 0x40) / 8) v
  else s

/-- A write of ERR_CTRL: REARM_FIRST, then ABORT. -/
def State.writeErrCtrl (s : State) (v : Word) : State :=
  let s := if bitAt v 1 then s.rearmFirst else s
  if bitAt v 0 then s.swAbort.abortDue else s

/-- The writable bits of ERR_INT_ENABLE. -/
def intMask : Word := 0xFEFFFF#64

def State.writeErr (s : State) (off : Nat) (v : Word) : State :=
  match off with
  | 0x08 => s.writeErrCtrl v
  | 0x18 => s.setReg aErrIntEnable (v &&& intMask)
  | 0x60 => s.setReg aErrScrub (word (fld v 0 32))
  | _ => s

/-! ## The units -/

/-- BNC, NUM and MKR controls. -/
def State.writeUnits (s : State) (a : Nat) (v : Word) : State :=
  match a with
  | 0x200018 => s.writePhilox false v
  | 0x200020 => s.writePhilox true v
  | 0x280008 => s.writeHistSel v
  | 0x300008 => s.setReg aMkrLr (word (fld v 0 32))
  | 0x300010 => s.setReg aMkrClip (word (fld v 0 32))
  | 0x300028 => s.writeDigSel v
  | 0x300040 => s.writeCardSel v
  | _ => s

/-- A write of STM_CTRL of context `c`: START, ABORT, or the control fields alone. -/
def State.writeStmCtrl (s : State) (c : Nat) (v : Word) : State :=
  if bitAt v 0 then s.hostStmStart c v
  else
    let s := s.modStm c fun x => { x with ctrl := v &&& stmCtrlMask }
    if bitAt v 1 then s.hostStmAbort c else s

/-- The bits of STM_INDEX. -/
def stmIndexMask : Word := 0xFFFFFFFF07FFFFFF#64

def State.writeStm (s : State) (c off : Nat) (v : Word) : State :=
  match off with
  | 0x00 => s.writeStmCtrl c v
  | 0x08 => s.modStm c fun x => { x with index := v &&& stmIndexMask }
  | 0x10 => s.modStm c fun x => { x with src := v }
  | 0x18 => s.modStm c fun x => { x with dst := v }
  | _ => s

/-- The W1C bits of CRS_STATUS. -/
def crsEvMask : Word := 0xF8#64

/-- A write of CRS_STATUS (R20). -/
def State.writeCrsStatus (s : State) (k : Nat) (v same : Word) : State :=
  let n := b2n (w1cMeets crsEvMask v same)
  s.modCr k fun x => { x with
    bits := (w1c s.level crsEvMask (word x.bits) v same).toNat
    setcnt := satAdd 0xFFFF x.setcnt n }

/-- A write of a set-up register: refused unless the courier is IDLE (R211). -/
def State.crsSetup (s : State) (k : Nat) (f : Courier → Courier) : State :=
  if (s.cr k).st = 0 then s.modCr k f else s.crsLog k evCrsBusy 0

def State.writeCrs (s : State) (k off : Nat) (v same : Word) : State :=
  match off with
  | 0x00 => s.crsSetup k fun x => { x with src := v &&& ~~~7#64 }
  | 0x08 => s.crsSetup k fun x => { x with dst := v &&& ~~~7#64 }
  | 0x10 => s.crsSetup k fun x => { x with count := word (fld v 0 32) }
  | 0x18 => s.writeCrsCtrl k v
  | 0x20 => s.crsSetup k fun x => { x with pace := word (fld v 0 32) }
  | 0x28 => s.writeCrsStatus k v same
  | _ => s

/-- The bits of CMP_CTRL of ports that are not fenced (R438). -/
def State.cmpMask (s : State) : Word :=
  word (b2n (!s.farFenced) + at_ 1 (b2n (!s.fabFenced 0)) + at_ 2 (b2n (!s.fabFenced 1)))

/-- The BEL window: signals and masks. -/
def State.writeBel (s : State) (off : Nat) (v : Word) : State :=
  if off < 0x80000 then s.hostSignal (off / 8) (fld v 32 32)
  else if off < 0x90000 ∧ off % 32 = 0 then s.hostMask ((off - 0x80000) / 32) v
  else s

/-- The QUE window: actions, the stage, pushes. -/
def State.writeQue (s : State) (off : Nat) (v : Word) : State :=
  if off = 0x80040 then s.push (fld v 0 13)
  else if 0x80000 ≤ off then
    let i := (off - 0x80000) / 8
    { s with sync := { s.sync with stage := setFld s.sync.stage (64 * i) 64 v.toNat } }
  else if off % 64 = 8 then s.queCtrl (off / 64) (fld v 0 13)
  else s

/-! ## FAB, RCL, TTB -/

/-- Port `p` is newly held in DOWN: it leaves its state, unless it is DETAINED or DOWN (log 61). -/
def State.holdPort (s : State) (held : Bool) (p : Nat) : State :=
  let st := (s.flink p).st
  if !held ∨ st ≤ lsDown ∨ st = lsDetained then s else s.portDown p 0

/-- Ports 0 and 1 that are not fenced, as bits. -/
def State.liveMask (s : State) : Nat := b2n (s.portLive 0) + at_ 1 (b2n (s.portLive 1))

/-- A write of FAB_CTRL; the bits of a fenced port are discarded (R438). -/
def State.writeFabCtrl (s : State) (v : Word) : State :=
  let live := s.liveMask
  let s := s.writeBits aFabCtrl (word live) v
  let s := (s.holdPort (bitAt v 0 && live.testBit 0) 0).holdPort (bitAt v 1 && live.testBit 1) 1
  let s := if bitAt v 4 && live.testBit 0 then s.fabRelease 0 else s
  if bitAt v 5 && live.testBit 1 then s.fabRelease 1 else s

/-- The fault-injection controls ignore writes while FAULT_INJECT is 0 (R45). -/
def State.writeFault (s : State) (a : Nat) (v : Word) : State :=
  if !s.faultInject then s
  else if a = aFabFiCtrl then s.writeBits a (word s.liveMask) v
  else if a = aFabFiRate + 8 then s.setReg a (word (fld v 0 32))
  else s.setReg a v

/-- A write of TTB_CTRL at the head form; both actions in one write are refused (log 60). -/
def State.writeTtbCtrl (s : State) (v : Word) : State :=
  if !s.head ∨ (bitAt v 0 ∧ bitAt v 1) then s.ttbRefused
  else if bitAt v 0 then s.ttbRun.wake.settle
  else if bitAt v 1 then s.ttbHalt.wake
  else s

/-- FAB, RCL and TTB controls. -/
def State.writeCtl (s : State) (a : Nat) (v : Word) : State :=
  if isFaultReg a then s.writeFault a v
  else match a with
  | 0xC00000 => s.writeFabCtrl v
  | 0xD00010 => s.setReg aRclGrpSel (word (fld v 0 12))
  | 0xE00000 => s.writeTtbCtrl v
  | 0xE00010 => if s.head then (s.ttbNext v).wake else s.ttbRefused
  | _ => s

/-! ## A write -/

/-- A write of a register of the units' windows, LKR upwards. -/
def State.writeUnit (s : State) (a : Nat) (v same : Word) : State :=
  if a = aLkrSel then s.writeLkrSel v
  else if a < 0x400000 then s.writeUnits a v
  else if a < 0x440000 then s.writeStm ((a - 0x400000) / 64) (a % 64) v
  else if a < 0x800000 then s
  else if a < 0x900000 then s.writeCrs ((a - 0x800000) / 256) (a % 256) v same
  else if a = aCmpCtrl then s.writeBits a s.cmpMask v
  else if a < 0xA00000 then s
  else if a < 0xB00000 then s.writeBel (a - 0xA00000) v
  else if a < 0xC00000 then s.writeQue (a - 0xB00000) v
  else s.writeCtl a v

/-- A write of a register of the Office's windows, OFC to ERR. -/
def State.writeOffice (s : State) (a : Nat) (v : Word) : State :=
  if a < 0x10000 then s.writeOfc a v
  else if a < 0x20000 then s.writeSyl (a - 0x10000) v
  else if a < 0x30000 then s.writeSec (a - 0x20000) v
  else if a < 0x40000 then s.writePwr (a - 0x30000) v
  else s.writeErr (a - 0x40000) v

/-- A write of the register at form offset `a`, which names one. -/
def State.regWrite (s : State) (a : Nat) (v same : Word) : State :=
  match eventBits a with
  | some n => s.writeEvent a n v same
  | none => if inUnits a then s.writeUnit a v same else s.writeOffice a v

/-- A write inside this form's window: a hole is logged (R436); LKR to CMP wake the form (R438); during a full load the units'
windows discard it (R56). `same`: the event bits that the block sets in the cycle (R20). -/
def State.localWrite (s : State) (a : Nat) (v same : Word) : State :=
  if inUnits a then
    s.hostWrites (if !s.regAt a then s.hostHole else
      let t := s.regWrite a v same
      if wakes a then t.wake else t)
  else if !s.regAt a then s.hostHole
  else s.regWrite a v same

/-- A doorbell of this form: kind 0 pushes, 1 signals (R413). -/
def State.localBell (s : State) (kind idx : Nat) : State :=
  s.hostWrites (if kind = 0 then s.push (idx % 8192) else s.hostSignal idx 1)

end Sys2Proof.Machine
end

