-- ==== Sys2Proof/Machine/HostPort.lean ====
section
/-! DEFINITION. The host control port, the TAP's data register and the forwarding of accesses over the federation links (R410 to
R414, R428, R433, R434): the commands HOST_WRITE, DOORBELL, TAP_DBGACC, FED_HOST. -/

namespace Sys2Proof.Machine

/-- Form and 8-byte aligned form offset of an aperture address (R16). -/
def addrForm (a : Nat) : Nat := a / 2 ^ 24
def addrOff (a : Nat) : Nat := a % 2 ^ 24 / 8 * 8

/-! ## FED_HOST frames (Table: Federation framing) -/

/-- The payload: OP, reserved, TAG, ADDR or doorbell fields, DATA. -/
def fedPay (op tag addr : Nat) (data : Word) : Bytes :=
  leBytes 1 op ++ leBytes 1 0 ++ leBytes 2 tag ++ leBytes 4 addr ++ leBytes 8 data.toNat

/-- Doorbell fields: index, kind, form (log 58). -/
def bellFields (form kind idx : Nat) : Nat := at_ 17 form + at_ 16 kind + idx

/-- A FED_HOST frame sent to form `f`. Without a route the form is lost (R428, R361). -/
def State.sendFed (s : State) (f op tag addr : Nat) (data : Word) : State :=
  match s.sendTo tFed 0 s.ownCoord f 0 (fedPay op tag addr data) with
  | some t => t
  | none => (s.causeAbort evCeMemberLost 0).settle

/-! ## Host writes and doorbells -/

/-- A write of the aperture: refused above the package's forms (R412), done here, or forwarded (R410); a full load in progress
at this form discards it for the units' windows of every form (R56). -/
def State.hostWriteAt (s : State) (addr : Nat) (v same : Word) : State :=
  let n := addrForm addr
  if s.forms ≤ n then s.hostUnmapped
  else if n = s.part.form then s.localWrite (addrOff addr) v same
  else if inUnits (addrOff addr) then s.hostWrites (s.sendFed n 1 0 addr v)
  else s.sendFed n 1 0 addr v

/-- HOST_WRITE: at the head form; a partial write is discarded (R411). -/
def State.hostWrite (s : State) (addr : Nat) (v : Word) (strb : Nat) (same : Word) : State :=
  if !s.head then s
  else if strb ≠ 0xFF then s.logEv evHostPartialWrite 0
  else s.hostWriteAt addr v same

/-- DOORBELL: at the head form. -/
def State.doorbell (s : State) (form kind idx : Nat) : State :=
  if !s.head then s
  else if s.forms ≤ form then s.hostUnmapped
  else if form = s.part.form then s.localBell kind idx
  else s.hostWrites (s.sendFed form 3 0 (bellFields form kind idx) 0)

/-! ## TAP_DBGACC -/

/-- A read through the TAP of another form, whose answer comes in a frame. -/
def State.tapReadFar (s : State) (n addr : Nat) : State :=
  let tag := s.fab.fedTag
  let fab : FabSt := { s.fab with fedTag := (tag + 1) % 2 ^ 16, fedWait := s.fab.fedWait ++ [{ tag := tag, form := n }] }
  ({ s with fab := fab } : State).sendFed n 0 tag addr 0

/-- The access of a DBGACC update, as a host access. -/
def State.tapAccess (s : State) (wr : Bool) (addr : Nat) (v same : Word) : State :=
  let n := addrForm addr
  if s.forms ≤ n then (if wr then s.hostUnmapped else { s.hostUnmapped with tap := 0 })
  else if wr then s.hostWriteAt addr v same
  else if n = s.part.form then
    let r := s.regRead (addrOff addr)
    { r.2 with tap := r.1 }
  else if inUnits (addrOff addr) && s.fullLoading then { s with tap := 0 }
  else s.tapReadFar n addr

/-- TAP_DBGACC: the data of the previous read is captured, then the access is made; while TAP_DEBUG is 0 there is no access and
the capture is zero (R434). -/
def State.tapDbgacc (s : State) (wr : Bool) (addr : Nat) (v same : Word) : State :=
  if !s.tapDebug then s.emit (.tapCapture 0) else (s.emit (.tapCapture s.tap)).tapAccess wr addr v same

/-! ## FED_HOST -/

/-- A read response: for a TAP read, or at the head form for a host read in flight. -/
def State.fedResponse (s : State) (form tag : Nat) (v : Word) : State :=
  let w : FedWait := { tag := tag, form := form }
  if s.fab.fedWait.contains w then
    { s with tap := v, fab := { s.fab with fedWait := s.fab.fedWait.erase w } }
  else if s.head then s.emit (.hostResp v false)
  else s

/-- A forwarded access or its answer, from form `h.sform`; `same`: the event bits that the block sets in the cycle (R20). -/
def State.fedIn (s : State) (p : Nat) (h : WHdr) (pay : Bytes) (same : Word) : State :=
  let s := s.consumed p h
  let tag := leAt pay 2 2
  let addr := leAt pay 4 4
  let v := word (leAt pay 8 8)
  match leAt pay 0 1 with
  | 0 =>
    let r := s.regRead (addrOff addr)
    r.2.sendFed h.sform 2 tag addr r.1
  | 1 => s.localWrite (addrOff addr) v same
  | 2 => s.fedResponse h.sform tag v
  | 3 => s.localBell (fld (word addr) 16 1) (addr % 2 ^ 16)
  | _ => s

def State.fedFrame (s : State) (p : Nat) (fr : Bytes) (bad : Bool) (same : Word) : State :=
  s.onFrame p tFed fr bad fun h pay s => s.fedIn p h pay same

/-! ## The commands -/

def execHostWrite (addr : BitVec 27) (data : Word) (strb : BitVec 8) (same : Word) (s : State) : Res :=
  .next (s.hostWrite addr.toNat data strb.toNat same)
def execDoorbell (form : BitVec 3) (kind : BitVec 1) (index : BitVec 16) (s : State) : Res :=
  .next (s.doorbell form.toNat kind.toNat index.toNat)
def execTapDbgacc (wr : Bool) (addr : BitVec 31) (data : Sys2Proof.TapData) (s : State) : Res :=
  .next (s.tapDbgacc wr addr.toNat data.v data.same)
def execFedHost (port : BitVec 3) (frame : Sys2Proof.FedFrame) (bad : Bool) (s : State) : Res :=
  .next (s.frameRow port.toNat tFed frame.bytes bad (s.fedFrame port.toNat frame.bytes bad frame.same))

end Sys2Proof.Machine
end

