-- ==== Sys2Proof/Machine/MemRows.lean ====
section
/-! DEFINITION. Answers at the memory ports, the far port and the main-engine port (R416 to R424): the jobs that wait for them go
on; and the commands MEM_READ_RESPONSE, MEM_WRITE_COMPLETE, MEM_CREDIT_RETURN, MEM_READ_TIMEOUT, MEM_WRITE_TIMEOUT,
FAR_LINK_DOWN, FAR_LINK_UP, ENGINE_SATCHEL, ENGINE_CREDIT, ENGINE_TIMEOUT. -/

namespace Sys2Proof.Machine

/-! ## What a finished job does -/

/-- A tile read for recovery `id` has come: the refetch of the tile itself, or a master of source 2. -/
def State.recovGot (s : State) (id : Nat) (rd : TileRd) (g : TileGot) : State :=
  match s.recovery id with
  | none => s
  | some r =>
    if rd.tile ≠ r.rd.tile ∨ r.source = 2 then
      match rd.tile with
      | .state_ _ _ t => s.regenGot id t g
      | _ => s
    else s.modRecov id fun r => { r with found := some g }

/-- A tile read for the Marker has come. -/
def State.markerTile (s : State) (p part t : Nat) (rd : TileRd) (g : TileGot) : State :=
  let (lost, s) := s.markerGot p part t rd g
  let s := if lost then s.causeAbort evStateLost 0 else s
  if g.ok && part != 7 then s.divTile p part t g.pay else s

/-- A tile that has been read and judged goes to the one who asked for it. -/
def State.gotTile (s : State) (rd : TileRd) (g : TileGot) : State :=
  match rd.use with
  | .stream c i => s.streamGot c i rd g
  | .mover l p => s.moved l p rd g
  | .recov r => s.recovGot r rd g
  | .marker p part t => s.markerTile p part t rd g
  | .fetch r i => s.fetchGot r i rd g
  | .export_ i => s.exportGot i rd g
  | .idle => s

/-- The job with number `id` leaves the list. -/
def State.dropJob (s : State) (id : Nat) : State :=
  { s with mem := { s.mem with jobs := s.mem.jobs.filter (·.id != id) } }

/-- A tile job without requests left: its next phase, or its tile. A payload of no units is judged at once. -/
def State.tileOver (s : State) (j : Job) (rd : TileRd) : State :=
  match s.endRead j rd with
  | (some g, s) => s.gotTile rd g
  | (none, s) =>
    match (s.job j.id).filter (·.todo == 0) with
    | none => s
    | some x =>
      match (s.dropJob x.id).endRead x { rd with phase := 1 } with
      | (some g, s) => s.gotTile rd g
      | (none, s) => s

/-- Requester of a header write that follows its payload. -/
def WrUse.who : WrUse → Nat
  | .window c _ _ | .chain c _ _ => c
  | _ => 4112

/-- The header of a tile has been written. -/
def State.headWritten (s : State) (use : WrUse) (loc : Loc) : State :=
  match use with
  | .locker l p => s.lockerWrote l p true
  | .window c i slot => s.windowWrote c i slot loc.epoch
  | .chain c form slot => s.chainWrote c form slot loc.epoch
  | .marker _ part _ => s.markerWritten part
  | .recov r => s.writeBackDone r true
  | .restore => s.restoreWrote true
  | .stage _ _ | .plain => s

/-- A tile that a write failed to store, as a reader would find it (R420). -/
def State.failedRd (s : State) (use : WrUse) (loc : Loc) : Option TileRd :=
  match use with
  | .locker l p => some (s.lockerRd l p (s.writeLoc l) .idle false)
  | .window _ _ slot | .chain _ _ slot =>
    some { use := .idle, tile := .window (loc.tier == 1) slot, loc := loc, own := none, fmt := 0, comp := none
           anyEp := false, pass := false, phase := 0 }
  | .stage run t => (s.stageRun run).map fun r => s.stageRd r t .idle
  | .marker _ 6 k => some { s.recordRd k .idle with loc := loc }
  | .marker p part t => some { s.stateRd p part t .idle with loc := loc }
  | .recov _ | .restore | .plain => none

/-- A write of a tile has failed twice, or timed out: the tile fails step 1 of its read checks and is recovered; its
header is not written (R420). -/
def State.writeFailed (s : State) (use : WrUse) (loc : Loc) : State :=
  let s := match s.failedRd use loc with
    | none => s
    | some rd => (s.logTileBad rd .ue false).beginRecovery rd
  match use with
  | .marker _ part _ => s.markerWritten part
  | .recov r => s.writeBackDone r false
  | .restore => s.restoreWrote false
  | _ => s

/-- Every unit of a payload or header has been written, or one has failed. -/
def State.tileWrote (s : State) (ok : Bool) (use : WrUse) (loc : Loc) (hdr : Bool) (head : Bytes) (share : Nat) (far : Bool) :
    State :=
  let s := if hdr || share == 0 then s else s.shareLeaves far share
  if !ok then s.writeFailed use loc
  else if hdr then s.headWritten use loc
  else match use with
  | .locker l p => s.lockerWrote l p false
  | .plain => s
  | _ =>
    let r := s.writeHead use use.who use.cls loc head
    if r.1 then r.2.headWritten use loc else r.2

/-- Byte range of the checkpoint record that recovery `id` reads (source 4). -/
def State.recordAddr (s : State) (id : Nat) : Nat :=
  match s.recovery id with
  | none => 0
  | some r =>
    match r.rd.tile with
    | .state_ p part t => (s.reg aSecCkptAddr).toNat + recordOff (s.recordOf p part t)
    | _ => 0

/-- Byte range that read `tag` of a restore covers. -/
def State.restoreRange (s : State) (tag : Nat) : Nat × Nat :=
  let n := (s.rst.map Restore.records).getD 0
  if tag = 0 then (s.restoreBase, 256)
  else if tag = 1 then (s.restoreBase + recordOff n, 16 * n + 16)
  else (s.restoreBase + recordOff (tag - 2), recordSize)

/-- The bucket whose source is read under `tag`. -/
def State.bucketRange (s : State) (tag : Nat) : Nat × Nat :=
  match s.rcl.colls.find? fun c => c.issued && c.bucket && c.group * 2 ^ 32 + c.seq == tag with
  | none => (0, 0)
  | some c => (bSrcAddr c.cmd, 4 * bCount c.cmd)

/-- An FP32 region read or written for the command of unit `tag / 4`. -/
def State.unitBytes (s : State) (j : Job) (tag : Nat) : State :=
  let u := tag / 4
  if tag % 4 = 2 then { s with bnc := { s.bnc with writing := s.bnc.writing.erase u } }
  else { s with bnc := { s.bnc with buf := Tab.put s.bnc.buf (2 * u + tag % 4) (j.bytes 0 j.got.length) } }

/-- A numbered job of a unit is over. -/
def State.rawOver (s : State) (j : Job) (unit tag : Nat) : State :=
  let ok := j.cause == 0
  let get (r : Nat × Nat) : Option Bytes := if ok then some (j.range 0 r.1 r.2) else none
  match unit with
  | 6 => s.unitBytes j tag
  | 7 => s.ckptRecordGot tag (get (s.recordAddr tag, recordSize))
  | 8 => s.restoreGot tag (get (s.restoreRange tag))
  | 9 => s.exportWrote
  | 10 => s.sealWrote tag ok
  | 14 => s.bucketRead tag ok ((get (s.bucketRange tag)).getD [])
  | _ => s

/-- A job all of whose requests have been answered; it has left the list. -/
def State.jobOver (s : State) (j : Job) : State :=
  let s := match j.kind with
    | .tileRd rd => s.tileOver j rd
    | .tileWr use loc hdr head share far => s.tileWrote (j.cause == 0) use loc hdr head share far
    | .crsRd k => s.crsReadEnd j k
    | .crsWr k => s.crsWriteEnd j k
    | .raw unit tag => s.rawOver j unit tag
  s.sealReads

/-! ## Answers -/

/-- The request outstanding at a port under a tag. -/
def State.outAt (s : State) (port tag : Nat) (wr : Bool) : Option MemOut :=
  s.mem.out.find? fun o => o.req.port == port && o.tag == tag && o.req.wr == wr

/-- The request is no longer outstanding: its tag is free again. -/
def State.dropOut (s : State) (o : MemOut) : State := { s with mem := { s.mem with out := s.mem.out.erase o } }

/-- The late answer of a request that had timed out: discarded, its tag free again (R419). -/
def State.lateAnswer (s : State) (port tag : Nat) : State :=
  ({ s with mem := { s.mem with late := s.mem.late.filter (· != (port, tag)) } } : State).pump

/-- The request timed out: its tag stays out of use (R419). -/
def State.noteLate (s : State) (o : MemOut) : State :=
  { s with mem := { s.mem with late := s.mem.late ++ [(o.req.port, o.tag)] } }

/-- The address, in the courier's space, of unit `idx` of a job; for other jobs their order. -/
def State.unitAddr (s : State) (k : JobKind) (idx : Nat) : Nat :=
  let at_ (w : Word) (n : Nat) (i : Nat) : Nat := (ceAddr w + n) / 256 * 256 + 256 * i
  match k with
  | .crsRd k => let x := s.cr k; if idx < 128 then at_ x.src x.bytes idx else at_ x.dst x.bytes (idx - 128)
  | .crsWr k => let x := s.cr k; at_ x.dst x.bytes idx
  | _ => idx

/-- Data that a failed read of a unit command's FP32 operand leaves: free values (log 1). -/
def State.failData (s : State) (k : JobKind) : Bytes × State :=
  match k with
  | .raw 6 _ => s.drawBytes 256
  | _ => ([], s)

/-- The answer to a request of a job: `cause` 0 good, else a cause of Table: Bus error causes. -/
def State.answerReq (s : State) (o : MemOut) (data : Bytes) (cause : Nat) : State :=
  let s := s.dropOut o
  match s.job o.req.job with
  | none => s
  | some j =>
    let (d, s) := if cause = 0 then (data, s) else s.failData j.kind
    let j := j.note o.req.idx d cause (s.unitAddr j.kind o.req.idx)
    if j.todo = 0 then (s.dropJob j.id).jobOver j
    else { s with mem := { s.mem with jobs := s.mem.jobs.map fun x => if x.id = j.id then j else x } }

/-- What an answer lets go on. -/
def State.goOnMem (s : State) : State := s.pump.stir.settle

/-- MEM_READ_RESPONSE (R417, R419). -/
def State.readAnswer (s : State) (port tag : Nat) (data : Bytes) (poison err : Bool) : State :=
  match s.outAt port tag false with
  | none => s.lateAnswer port tag
  | some o => (s.answerReq o (slice data 0 256) (if poison then 4 else if err then 3 else 0)).goOnMem

/-- MEM_READ_TIMEOUT: MEM_TIMEOUT, and the read counts as poisoned, for a courier with cause TIMEOUT (R419). -/
def State.readTimeout (s : State) (port tag : Nat) : State :=
  match s.outAt port tag false with
  | none => s
  | some o => (((s.logEv evMemTimeout 0).noteLate o).answerReq o [] 5).goOnMem.wake

/-- The request writes for a courier, which has no retry (R217, R420). -/
def State.courierWrite (s : State) (o : MemOut) : Bool :=
  match (s.job o.req.job).map Job.kind with
  | some (.crsWr _) => true
  | _ => false

/-- A failed write is sent once more (R420). -/
def State.retryWrite (s : State) (o : MemOut) : State :=
  let s := s.dropOut o
  if (s.job o.req.job).isNone then s
  else { s with mem := { s.mem with wait := s.mem.wait ++ [{ o.req with idx := o.req.idx + retryMark }] } }

/-- A write that has failed for good. -/
def State.writeLost (s : State) (o : MemOut) (cause : Nat) : State :=
  if s.courierWrite o then s.answerReq o [] cause else (s.logEv evMemWriteFail 0).answerReq o [] cause

/-- MEM_WRITE_COMPLETE (R417, R420). -/
def State.writeAnswer (s : State) (port tag : Nat) (err : Bool) : State :=
  match s.outAt port tag true with
  | none => s.lateAnswer port tag
  | some o =>
    (if !err then s.answerReq o [] 0
    else if o.retried || s.courierWrite o then s.writeLost o 3
    else s.retryWrite o).goOnMem

/-- MEM_WRITE_TIMEOUT (R419, R420). -/
def State.writeTimeout (s : State) (port tag : Nat) : State :=
  match s.outAt port tag true with
  | none => s
  | some o => ((s.noteLate o).writeLost o 5).goOnMem.wake

/-- MEM_CREDIT_RETURN (R416). -/
def State.creditReturn (s : State) (port n : Nat) : State :=
  let m := s.mem
  let m := if port = 0 then { m with credit0 := m.credit0 + n } else { m with credit1 := m.credit1 + n }
  ({ s with mem := m } : State).pump

/-- fp_link_up falls or rises (R422). -/
def State.setFarUp (s : State) (b : Bool) : State := { s with pins := { s.pins with farUp := b } }

/-! ## The main-engine port (R423, R424) -/

/-- The running context whose ENGINE source is channel `ch`. -/
def State.engineSource (s : State) (ch : Nat) : Option Nat :=
  (s.stms.find? fun x => x.2.st == 1 && !x.2.fed && epKind x.2.src == 6 && epChannel x.2.src == ch).map Prod.fst

/-- The running context whose ENGINE destination is channel `ch`. -/
def State.engineDest (s : State) (ch : Nat) : Option Nat :=
  (s.stms.find? fun x => x.2.st == 1 && epKind x.2.dst == 6 && epChannel x.2.dst == ch).map Prod.fst

/-- A satchel from the engines uses up one of the credits granted to its channel. It goes to the context that runs on the
channel; one for no context is discarded. `err`: an error at the endpoint (R209, R424). -/
def State.engineSatchel (s : State) (ch : Nat) (sat : Bytes) (err : Bool) : State :=
  let s : State := { s with eng := { s.eng with granted := Tab.put s.eng.granted ch (Tab.get s.eng.granted ch - 1) } }
  match s.engineSource ch with
  | none => s
  | some c =>
    if err then (s.haltCtx c evStmBusErr 6 (s.failingEntry c 6)).stir
    else ((s.modStm c fun x => { x with supply := x.supply ++ [sat] }).fill c).stir

/-- The engines return a credit. -/
def State.engineCredit (s : State) (ch : Nat) : State :=
  { s with eng := { s.eng with credit := Tab.put s.eng.credit ch (Tab.get s.eng.credit ch + 1) } }

/-- A satchel of channel `ch` incomplete, or waiting for a credit, for 1 ms: an error at the ENGINE endpoint. -/
def State.engineTimeout (s : State) (ch : Nat) : State :=
  let late (c : Nat) : Bool := Tab.get s.eng.credit ch == 0 && (s.stm c).ents.any fun e => e.stage == 2
  match s.engineSource ch, (s.engineDest ch).filter late with
  | _, some c => (s.haltCtx c evStmBusErr 6 (s.failingEntry c 6)).stir
  | some c, none => (s.haltCtx c evStmBusErr 6 (s.failingEntry c 6)).stir
  | none, none => s

/-! ## The commands -/

def execMemReadResponse (port : BitVec 2) (tag : BitVec 10) (data : Bytes) (poison err : Bool) (s : State) : Res :=
  .next (s.readAnswer port.toNat tag.toNat data poison err)
def execMemWriteComplete (port : BitVec 2) (tag : BitVec 10) (err : Bool) (s : State) : Res :=
  .next (s.writeAnswer port.toNat tag.toNat err)
def execMemCreditReturn (port : BitVec 1) (n : BitVec 8) (s : State) : Res := .next (s.creditReturn port.toNat n.toNat)
def execMemReadTimeout (port : BitVec 2) (tag : BitVec 10) (s : State) : Res := .next (s.readTimeout port.toNat tag.toNat)
def execMemWriteTimeout (port : BitVec 2) (tag : BitVec 10) (s : State) : Res := .next (s.writeTimeout port.toNat tag.toNat)
def execFarLinkDown (s : State) : Res := .next (s.setFarUp false)
def execFarLinkUp (s : State) : Res := .next (s.setFarUp true).pump
def execEngineSatchel (ch : BitVec 8) (sat : Bytes) (err : Bool) (s : State) : Res := .next (s.engineSatchel ch.toNat sat err).settle
def execEngineCredit (ch : BitVec 8) (s : State) : Res := .next (s.engineCredit ch.toNat)
def execEngineTimeout (ch : BitVec 8) (s : State) : Res := .next (s.engineTimeout ch.toNat).settle

end Sys2Proof.Machine
end

