-- ==== Sys2Proof/Machine/Dispatch.lean ====
section
/-! DEFINITION. One arm per command: the meaning of each. -/

namespace Sys2Proof.Machine

def exec (i : Instr) (s : State) : Host.Outcome State Fault Refusal :=
  match i with
  | .coldReset straps fuses => Sys2Proof.Machine.execColdReset straps fuses s
  | .warmReset straps => Sys2Proof.Machine.execWarmReset straps s
  | .ofcResetWarm => Sys2Proof.Machine.execOfcResetWarm s
  | .sylStartFull start => Sys2Proof.Machine.execSylStartFull start s
  | .sylStartPartial src => Sys2Proof.Machine.execSylStartPartial src s
  | .sylAbort => Sys2Proof.Machine.execSylAbort s
  | .sylPushData w => Sys2Proof.Machine.execSylPushData w s
  | .sylImageReceived img ok => Sys2Proof.Machine.execSylImageReceived img ok s
  | .fullLoadApply cycles last => Sys2Proof.Machine.execFullLoadApply cycles last s
  | .lkrSelWrite v => Sys2Proof.Machine.execLkrSelWrite v s
  | .lkrStateRead => Sys2Proof.Machine.execLkrStateRead s
  | .lkrOpen q => Sys2Proof.Machine.execLkrOpen q s
  | .lkrMove q => Sys2Proof.Machine.execLkrMove q s
  | .lkrRecall q => Sys2Proof.Machine.execLkrRecall q s
  | .lkrRead q => Sys2Proof.Machine.execLkrRead q s
  | .lkrRelease q => Sys2Proof.Machine.execLkrRelease q s
  | .nop q => Sys2Proof.Machine.execNop q s
  | .post q => Sys2Proof.Machine.execPost q s
  | .fwd u => Sys2Proof.Machine.execFwd u s
  | .dgradW u => Sys2Proof.Machine.execDgradW u s
  | .dgradG u => Sys2Proof.Machine.execDgradG u s
  | .wgrad u => Sys2Proof.Machine.execWgrad u s
  | .paired u => Sys2Proof.Machine.execPaired u s
  | .ropTable u => Sys2Proof.Machine.execRopTable u s
  | .ropTableD u => Sys2Proof.Machine.execRopTableD u s
  | .ropGate u => Sys2Proof.Machine.execRopGate u s
  | .ropGateD u => Sys2Proof.Machine.execRopGateD u s
  | .ropNorm u => Sys2Proof.Machine.execRopNorm u s
  | .ropNormApply u => Sys2Proof.Machine.execRopNormApply u s
  | .ropNormD u => Sys2Proof.Machine.execRopNormD u s
  | .ropSoftmax u => Sys2Proof.Machine.execRopSoftmax u s
  | .ropSoftmaxApply u => Sys2Proof.Machine.execRopSoftmaxApply u s
  | .ropSoftmaxD u => Sys2Proof.Machine.execRopSoftmaxD u s
  | .ropDropout u => Sys2Proof.Machine.execRopDropout u s
  | .stream q => Sys2Proof.Machine.execStream q s
  | .courier q => Sys2Proof.Machine.execCourier q s
  | .rollcall q => Sys2Proof.Machine.execRollcall q s
  | .bucket q => Sys2Proof.Machine.execBucket q s
  | .commandIssue q => Sys2Proof.Machine.execCommandIssue q s
  | .commandComplete qs closes => Sys2Proof.Machine.execCommandComplete qs closes s
  | .quePush q => Sys2Proof.Machine.execQuePush q s
  | .doorbell form kind index => Sys2Proof.Machine.execDoorbell form kind index s
  | .resume q => Sys2Proof.Machine.execResume q s
  | .skip q => Sys2Proof.Machine.execSkip q s
  | .flush q => Sys2Proof.Machine.execFlush q s
  | .halt q => Sys2Proof.Machine.execHalt q s
  | .run q => Sys2Proof.Machine.execRun q s
  | .signal n v => Sys2Proof.Machine.execSignal n v s
  | .asmMaskWrite a m => Sys2Proof.Machine.execAsmMaskWrite a m s
  | .closingAssemblyAct => Sys2Proof.Machine.execClosingAssemblyAct s
  | .resStatusRead slot => Sys2Proof.Machine.execResStatusRead slot s
  | .resTake slot => Sys2Proof.Machine.execResTake slot s
  | .deadlock => Sys2Proof.Machine.execDeadlock s
  | .periodStart => Sys2Proof.Machine.execPeriodStart s
  | .entryCopy kind run entry => Sys2Proof.Machine.execEntryCopy kind run entry s
  | .closingSequenceStart => Sys2Proof.Machine.execClosingSequenceStart s
  | .sweepStart => Sys2Proof.Machine.execSweepStart s
  | .sweepEnd => Sys2Proof.Machine.execSweepEnd s
  | .ttbRun => Sys2Proof.Machine.execTtbRun s
  | .ttbHalt => Sys2Proof.Machine.execTtbHalt s
  | .ttbNextWrite v => Sys2Proof.Machine.execTtbNextWrite v s
  | .termChange => Sys2Proof.Machine.execTermChange s
  | .checkpointEnd => Sys2Proof.Machine.execCheckpointEnd s
  | .stagingRunAlloc piece block tiles => Sys2Proof.Machine.execStagingRunAlloc piece block tiles s
  | .stageTimeout piece block => Sys2Proof.Machine.execStageTimeout piece block s
  | .heldOpenRetry q => Sys2Proof.Machine.execHeldOpenRetry q s
  | .placeTimeout q => Sys2Proof.Machine.execPlaceTimeout q s
  | .plnLastInRead => Sys2Proof.Machine.execPlnLastInRead s
  | .philoxCtrWrite hi v => Sys2Proof.Machine.execPhiloxCtrWrite hi v s
  | .numHistSelWrite v => Sys2Proof.Machine.execNumHistSelWrite v s
  | .numHistStateRead => Sys2Proof.Machine.execNumHistStateRead s
  | .mkrDigSelWrite v => Sys2Proof.Machine.execMkrDigSelWrite v s
  | .digestDone => Sys2Proof.Machine.execDigestDone s
  | .mkrCardSelWrite v => Sys2Proof.Machine.execMkrCardSelWrite v s
  | .mkrCardFlagsRead => Sys2Proof.Machine.execMkrCardFlagsRead s
  | .stmStart c v => Sys2Proof.Machine.execStmStart c v s
  | .stmAbort c => Sys2Proof.Machine.execStmAbort c s
  | .streamEntryIssue c => Sys2Proof.Machine.execStreamEntryIssue c s
  | .streamPassEnd c => Sys2Proof.Machine.execStreamPassEnd c s
  | .satchelReceive m => Sys2Proof.Machine.execSatchelReceive m s
  | .crsStart k v => Sys2Proof.Machine.execCrsStart k v s
  | .crsAbort k => Sys2Proof.Machine.execCrsAbort k s
  | .crsContinue k => Sys2Proof.Machine.execCrsContinue k s
  | .courierBurst => Sys2Proof.Machine.execCourierBurst s
  | .courierBurstDone => Sys2Proof.Machine.execCourierBurstDone s
  | .paceTimer k => Sys2Proof.Machine.execPaceTimer k s
  | .memReadResponse port tag data poison err => Sys2Proof.Machine.execMemReadResponse port tag data poison err s
  | .memWriteComplete port tag err => Sys2Proof.Machine.execMemWriteComplete port tag err s
  | .memCreditReturn port n => Sys2Proof.Machine.execMemCreditReturn port n s
  | .memReadTimeout port tag => Sys2Proof.Machine.execMemReadTimeout port tag s
  | .farLinkDown => Sys2Proof.Machine.execFarLinkDown s
  | .engineSatchel ch sat err => Sys2Proof.Machine.execEngineSatchel ch sat err s
  | .engineCredit ch => Sys2Proof.Machine.execEngineCredit ch s
  | .engineTimeout ch => Sys2Proof.Machine.execEngineTimeout ch s
  | .hostWrite addr data strb same => Sys2Proof.Machine.execHostWrite addr data strb same s
  | .tapDbgacc wr addr data => Sys2Proof.Machine.execTapDbgacc wr addr data s
  | .pcsAlign port => Sys2Proof.Machine.execPcsAlign port s
  | .pcsAlignLoss port => Sys2Proof.Machine.execPcsAlignLoss port s
  | .helloTimer port => Sys2Proof.Machine.execHelloTimer port s
  | .hello port frame bad => Sys2Proof.Machine.execHello port frame bad s
  | .offerTimer port => Sys2Proof.Machine.execOfferTimer port s
  | .key port frame bad => Sys2Proof.Machine.execKey port frame bad s
  | .rosterRetry port => Sys2Proof.Machine.execRosterRetry port s
  | .keyRenewal port => Sys2Proof.Machine.execKeyRenewal port s
  | .keyExhausted port => Sys2Proof.Machine.execKeyExhausted port s
  | .data port frame bad => Sys2Proof.Machine.execData port frame bad s
  | .stateFetch port frame bad => Sys2Proof.Machine.execStateFetch port frame bad s
  | .link port frame bad => Sys2Proof.Machine.execLink port frame bad s
  | .linkAckTimer port => Sys2Proof.Machine.execLinkAckTimer port s
  | .linkFrameTimeout port => Sys2Proof.Machine.execLinkFrameTimeout port s
  | .replayTimeout port => Sys2Proof.Machine.execReplayTimeout port s
  | .frameSend port => Sys2Proof.Machine.execFrameSend port s
  | .fiReorderTimeout port => Sys2Proof.Machine.execFiReorderTimeout port s
  | .violWindow port => Sys2Proof.Machine.execViolWindow port s
  | .fabRelease port => Sys2Proof.Machine.execFabRelease port s
  | .mack port frame bad => Sys2Proof.Machine.execMack port frame bad s
  | .mcastDetach c => Sys2Proof.Machine.execMcastDetach c s
  | .detach port frame bad => Sys2Proof.Machine.execDetach port frame bad s
  | .repairReq port frame bad => Sys2Proof.Machine.execRepairReq port frame bad s
  | .rcExch port frame bad => Sys2Proof.Machine.execRcExch port frame bad s
  | .rcUp port frame bad => Sys2Proof.Machine.execRcUp port frame bad s
  | .rcDown port frame bad => Sys2Proof.Machine.execRcDown port frame bad s
  | .redUp port frame bad => Sys2Proof.Machine.execRedUp port frame bad s
  | .redDown port frame bad => Sys2Proof.Machine.execRedDown port frame bad s
  | .notice port frame bad => Sys2Proof.Machine.execNotice port frame bad s
  | .abort port frame bad => Sys2Proof.Machine.execAbort port frame bad s
  | .fedHost port frame bad => Sys2Proof.Machine.execFedHost port frame bad s
  | .bucketDeadline group seq => Sys2Proof.Machine.execBucketDeadline group seq s
  | .collectiveTimeout group seq => Sys2Proof.Machine.execCollectiveTimeout group seq s
  | .collectiveLostTimeout group seq => Sys2Proof.Machine.execCollectiveLostTimeout group seq s
  | .recoverySourceDone r ok tile => Sys2Proof.Machine.execRecoverySourceDone r ok tile s
  | .scrubRead at_ bits => Sys2Proof.Machine.execScrubRead at_ bits s
  | .swAbort => Sys2Proof.Machine.execSwAbort s
  | .rearmFirst => Sys2Proof.Machine.execRearmFirst s
  | .abortConfirmTimeout => Sys2Proof.Machine.execAbortConfirmTimeout s
  | .ucieLinkDown l => Sys2Proof.Machine.execUcieLinkDown l s
  | .ucieSideband l zero => Sys2Proof.Machine.execUcieSideband l zero s
  | .getVersion msg => Sys2Proof.Machine.execGetVersion msg s
  | .getCapabilities msg => Sys2Proof.Machine.execGetCapabilities msg s
  | .negotiateAlgorithms msg => Sys2Proof.Machine.execNegotiateAlgorithms msg s
  | .getDigests msg => Sys2Proof.Machine.execGetDigests msg s
  | .getCertificate msg => Sys2Proof.Machine.execGetCertificate msg s
  | .setCertificate msg => Sys2Proof.Machine.execSetCertificate msg s
  | .challenge msg => Sys2Proof.Machine.execChallenge msg s
  | .getMeasurements msg => Sys2Proof.Machine.execGetMeasurements msg s
  | .keyExchange msg => Sys2Proof.Machine.execKeyExchange msg s
  | .finish msg => Sys2Proof.Machine.execFinish msg s
  | .endSession msg => Sys2Proof.Machine.execEndSession msg s
  | .domainKeyInstall msg => Sys2Proof.Machine.execDomainKeyInstall msg s
  | .domainKeyErase msg => Sys2Proof.Machine.execDomainKeyErase msg s
  | .secRestoreStart => Sys2Proof.Machine.execSecRestoreStart s
  | .restoreComplete => Sys2Proof.Machine.execRestoreComplete s
  | .secExportStart v => Sys2Proof.Machine.execSecExportStart v s
  | .exportComplete => Sys2Proof.Machine.execExportComplete s
  | .zeroise => Sys2Proof.Machine.execZeroise s
  | .entropyFail => Sys2Proof.Machine.execEntropyFail s
  | .recessEntry => Sys2Proof.Machine.execRecessEntry s
  | .fclkEnable => Sys2Proof.Machine.execFclkEnable s
  | .monitorReading slack worst => Sys2Proof.Machine.execMonitorReading slack worst s
  | .governorWindow grant est peak => Sys2Proof.Machine.execGovernorWindow grant est peak s
  | .droop => Sys2Proof.Machine.execDroop s
  | .droopRelease => Sys2Proof.Machine.execDroopRelease s
  | .telemetryWord cmd w => Sys2Proof.Machine.execTelemetryWord cmd w s
  | .pwrVfWrite k v => Sys2Proof.Machine.execPwrVfWrite k v s
  | .memWriteTimeout port tag => Sys2Proof.Machine.execMemWriteTimeout port tag s
  | .farLinkUp => Sys2Proof.Machine.execFarLinkUp s
  | .ucieLinkTrained l => Sys2Proof.Machine.execUcieLinkTrained l s
  | .droopDeasserted => Sys2Proof.Machine.execDroopDeasserted s
  | .fclkEnLowered => Sys2Proof.Machine.execFclkEnLowered s
  | .unsupportedRequest msg => Sys2Proof.Machine.execUnsupportedRequest msg s

end Sys2Proof.Machine
end

