-- ==== Sys2Proof/Safety.lean ====
section
/-! DEFINITION. The terms in which claims about the block are stated: what it is for a command to be carried out, the legal
states that every step keeps, and the units of state that a command leaves alone. -/

namespace Sys2Proof.Machine

/-- Command `c` is carried out from `s`, and its next state satisfies `P`. -/
def Runs (c : Sys2Proof.Instr) (s : State) (P : State → Prop) : Prop := ∃ t, exec c s = .next t ∧ P t

/-- The cloakroom is in its canonical form: addresses strictly rising, no listed byte equal to zero, what an unlisted address
reads as. -/
def State.memOk (s : State) : Prop := Tab.wf s.t0 = true

/-- The two states agree in everything but the registers of the register table and the error unit's arming: the frame of
an event that is logged. -/
def State.sameButLog (s t : State) : Prop :=
  t = { s with regs := t.regs, err := { s.err with armed := t.err.armed } }

/-- The two states agree in everything but the registers of the register table. -/
def State.sameButRegs (s t : State) : Prop := t = { s with regs := t.regs }

/-- The two states agree in everything but the registers of the register table and the request pin fclk_req, which a host
access may raise (R394). -/
def State.sameButRegsPin (s t : State) : Prop :=
  t = { s with regs := t.regs, pins := { s.pins with fclkReq := t.pins.fclkReq } }

/-- The two states agree in everything but the register table, the port trace and the count of free values: the frame of a read
of a view register. -/
def State.sameButView (s t : State) : Prop := t = { s with regs := t.regs, out := t.out, free := t.free }

/-- The two states agree in everything but the registers, the security unit's state and the count of free values: the frame of
an SPDM request. -/
def State.sameButMbox (s t : State) : Prop := t = { s with regs := t.regs, sec := t.sec, free := t.free }

/-- No timetable runs, no common abort is due and no frame waits for a combining state: what a command makes possible for the
sequencer is nothing. -/
def State.calm (s : State) : Prop :=
  s.tut.st = 0 ∧ s.tut.phase = 0 ∧ s.tut.closing = .idle ∧ s.tut.started = s.tut.drained ∧ s.err.due = none ∧ s.rcl.wait = []

/-- The command `c` of queue `q`, from `tag`, as its unit holds it once it has accepted it; `done`: its work is over. -/
def accepted (q : Nat) (c : Cmd) (tag : Option EntTag) (done : Bool) : Flight :=
  { queue := q, cmd := c, tag := tag, done := done, dropped := false, amax := 0, ran := false, bound := false }

/-- What an OPEN of a stored placement leaves (Table: Locker transitions): the locker is OPEN with the command's fields, the next GEN, and
a run at slot `f` of `tier` that takes one epoch; the command is with its unit and over. -/
def Opened (q : Nat) (c : Cmd) (tier f : Nat) (s t : State) : Prop :=
  let e := (t.lkr (cLocker c)).e
  e.st = lkOpen ∧ e.tier = tier ∧ e.first = f ∧ e.len = cLength c ∧ e.fmt = cFormat c ∧ e.cls = cClass c ∧ e.prov = cProv c
    ∧ e.reads = cReads c ∧ e.need = cNeed c ∧ e.ticket = cTicket c ∧ e.done = 0 ∧ e.gen = ((s.lkr (cLocker c)).e.gen + 1) % 65536
    ∧ e.epoch = (s.reg aLkrEpoch).toNat ∧ t.reg aLkrEpoch = s.reg aLkrEpoch + 1
    ∧ t.flights = s.flights ++ [accepted q c none true] ∧ t.t0 = s.t0

/-- The row of locker command `op` (0x11 MOVE, 0x12 RECALL, 0x13 READ, 0x14 RELEASE) of queue `q`. -/
def lockerRow (op : Nat) (q : BitVec 13) : Sys2Proof.Instr :=
  if op = 0x11 then .lkrMove q else if op = 0x12 then .lkrRecall q else if op = 0x13 then .lkrRead q else .lkrRelease q

/-- The row of the product with operation `op` (0 FWD, 1 DGRAD_W, 2 DGRAD_G, 3 WGRAD) at unit `u`. -/
def productRow (op : Nat) (u : BitVec 3) : Sys2Proof.Instr :=
  if op = 0 then .fwd u else if op = 1 then .dgradW u else if op = 2 then .dgradG u else .wgrad u

/-- The row of row operation `op` (Table: Row-unit operations) at unit `u`. -/
def rowopRow (op : Nat) (u : BitVec 3) : Sys2Proof.Instr :=
  match op with
  | 0 => .ropTable u | 1 => .ropTableD u | 2 => .ropGate u | 3 => .ropGateD u | 4 => .ropNorm u | 5 => .ropNormApply u
  | 6 => .ropNormD u | 7 => .ropSoftmax u | 8 => .ropSoftmaxApply u | 9 => .ropSoftmaxD u | _ => .ropDropout u

/-- Operand `i` of a unit's command from the tiles that have come for it. -/
def operandAt (ts : List (Nat × List Bytes)) (i n : Nat) (rows : Bool) : Option Opd := (ts[i]?).bind fun t => mkOpd t.2 n rows

/-- What a warm reset from `s` leaves in `t` (Table: Reset kinds; log 3): the tile keys, the key epoch, the error log, the wear
log and TORN as they were; no syllabus in force, an empty cloakroom, no queue, locker, context, courier or command in work. -/
def WarmKept (s t : State) : Prop :=
  t.sec.k1 = s.sec.k1 ∧ t.sec.k2 = s.sec.k2 ∧ t.sec.km = s.sec.km ∧ t.sec.session = none
    ∧ (∀ a ∈ warmKept, a ≠ aOfcResetCause → t.reg a = s.reg a)
    ∧ t.mkr = { MkrSt.reset with torn := s.mkr.torn } ∧ t.t0 = [] ∧ t.syl = none ∧ t.ques = [] ∧ t.lkrs = [] ∧ t.stms = []
    ∧ t.crs = [] ∧ t.flights = [] ∧ t.bells = [] ∧ t.asms = [] ∧ t.stepCtr = 0 ∧ t.hall = s.hall ∧ t.free = s.free
    ∧ t.pending = s.pending

end Sys2Proof.Machine
end

