-- ==== Sys2Proof/Certificates/Slice0/Obligations.lean ====
section
/-! DEFINITION. The statements for the provers: what each command does, what it leaves alone, and what every step keeps. -/

open Sys2Proof Sys2Proof.Machine

/-- A step with a command waiting carries out the command at the front on the state with the queue's rest. -/
def Obligations.StepRunsFrontCommand : Prop :=
  ∀ (c : Instr) (rest : List Instr) (s : State),
    step { s with pending := c :: rest } = exec c { s with pending := rest }

/-- With no command waiting, one hall-clock cycle passes: OFC_UPTIME and the planner's clock advance by one, and only the
clocks, the Philox output registers, the stall counters and the count of free values change (the model's choice, log 4). -/
def Obligations.IdleStepIsOneCycle : Prop :=
  ∀ s : State, s.pending = [] →
    ∃ t, step s = .next t ∧ t.hall = s.hall + 1 ∧ t.pln.clock = s.pln.clock.map (· + 1)
      ∧ t = { s with hall := t.hall, pln := { s.pln with clock := t.pln.clock }, regs := t.regs, stms := t.stms
                     free := t.free, bnc := { s.bnc with philoxDue := t.bnc.philoxDue } }

/-- Every command is carried out in every state, with a next state, and leaves the queue of waiting commands alone. -/
def Obligations.CommandsLeaveQueueAlone : Prop :=
  ∀ (c : Instr) (s : State), Runs c s fun t => t.pending = s.pending

/-- Every step keeps the cloakroom's canonical form, from every state that has it. -/
def Obligations.StepKeepsMemoryCanonical : Prop :=
  ∀ s t : State, s.memOk → step s = .next t → t.memOk

/-- The reset state: the memory is canonical, no command waits, the clock and the step counter are 0; LKR_EPOCH, MKR_CLIP, the scrub
interval, PWR_CTRL, the Philox outputs, OFC_RESET_CAUSE and MKR_REC_EPOCH have the reset values of their tables; no syllabus is in
force, ERR_FIRST is armed and the tutor is HALTED. -/
def Obligations.ResetHasSpecValues : Prop :=
  State.reset.memOk ∧ State.reset.pending = [] ∧ State.reset.hall = 0 ∧ State.reset.stepCtr = 0
    ∧ State.reset.reg aLkrEpoch = 1 ∧ State.reset.reg aMkrClip = 0x3F800000 ∧ State.reset.reg aErrScrub = 0x3C
    ∧ State.reset.reg aPwrCtrl = 0x00320A04003201F7 ∧ State.reset.reg aBncOutLo = 0xE169C58D6627E8D5
    ∧ State.reset.reg aBncOutHi = 0x9B00DBD8BC57AC4C ∧ State.reset.reg aOfcResetCause = 0 ∧ State.reset.reg aMkrRecEpoch = 0
    ∧ State.reset.syl = none ∧ State.reset.err.armed = true ∧ State.reset.tut.st = 0

/-- coldReset completes from every state: the straps and fuses are sampled, the security unit starts afresh, the clocks,
the cloakroom, the syllabus, lockers, queues, bells, contexts, couriers, memory ports, fabric, tutor, Marker and error
unit are as reset leaves them, LKR_EPOCH is 1 and MKR_REC_EPOCH 0, the cause is 0; the sixteen fuse words are asked
for; the waiting commands go on. warmReset completes from every state, and ofcResetWarm at the head form: the tile
keys, LKR_EPOCH, MKR_REC_EPOCH, the error log and TORN are kept, the cloakroom reads zero, no syllabus is in force,
the queues, lockers and contexts are empty, and OFC_RESET_CAUSE.LAST says which kind it was. -/
def Obligations.ResetsByKind : Prop :=
  (∀ (st : Straps) (fuses : List Word) (s : State),
     Runs (.coldReset st fuses) s fun t =>
       t.part = strapPart st fuses ∧ t.level = strapLevel st.compat.toNat ∧ t.hall = 0 ∧ t.stepCtr = 0 ∧ t.t0 = []
         ∧ t.syl = none ∧ t.load = Loader.reset ∧ t.lkrs = [] ∧ t.ques = [] ∧ t.bells = [] ∧ t.stms = [] ∧ t.crs = []
         ∧ t.mem = MemSt.reset ∧ t.fab = FabSt.reset ∧ t.tut = Tutor.reset ∧ t.mkr = MkrSt.reset ∧ t.err = ErrSt.reset
         ∧ t.reg aLkrEpoch = 1 ∧ t.reg aMkrRecEpoch = 0 ∧ t.regF aOfcResetCause 0 2 = 0
         ∧ t.sec = SecSt.reset st.form.toNat fuses s.free ∧ t.pending = s.pending
         ∧ t.out = s.out ++ (List.range 16).map PortOut.fuseReq) ∧
  ((∀ (st : Straps) (s : State), Runs (.warmReset st) s fun t =>
       t.part = { strapPart st s.part.fuses with set := s.part.set } ∧ t.regF aOfcResetCause 0 2 = 1 ∧ WarmKept s t) ∧
   (∀ s : State, s.part.form = 0 → Runs .ofcResetWarm s fun t =>
       t.part = s.part ∧ t.regF aOfcResetCause 0 2 = 2 ∧ WarmKept s t))

/-- SYL_CTRL.START completes. At a form where the START is not refused as busy, with a push, or with a source range that
leaves the own half of the syllabus store alone, sylStartFull (host) and sylStartPartial enter the fetch phase for
their kind and source with nothing received; a full load's START discards a pending partial image; the syllabus in
force stays. At another form the head's START (relay) discards the pending partial image. A START that is refused as
busy writes MODE and SOURCE and logs SYL_BUSY; beyond that only fclk_req may rise. sylAbort completes: SYL_CTRL.ABORT
ends a push whose last byte has not come, logs SYL_SOURCE and drops what has been received; in any other state it
leaves the loader alone. -/
def Obligations.LoaderCommands : Prop :=
  ((∀ (src : BitVec 1) (halted : Bool) (s : State), s.sylBusy 1 (src == 1) halted = false →
     src = 1 ∨ meets s.sylSrc (2 ^ 26) (s.secondHalf s.part.form) (2 ^ 26) = false →
     Runs (.sylStartFull (.host src halted)) s fun t =>
       t.load = { s.load with phase := 1, kind := 1, push := src == 1, recv := [], pushed := 0, verified := none, pend := none }
         ∧ t.syl = s.syl ∧ t.t0 = s.t0) ∧
   (∀ (src : BitVec 1) (s : State), s.sylBusy 2 (src == 1) = false →
     src = 1 ∨ meets s.sylSrc (2 ^ 26) (s.secondHalf s.part.form) (2 ^ 26) = false →
     Runs (.sylStartPartial src) s fun t =>
       t.load = { s.load with phase := 1, kind := 2, push := src == 1, recv := [], pushed := 0, verified := none }
         ∧ t.syl = s.syl ∧ t.t0 = s.t0) ∧
   (∀ s : State, s.head = false →
     exec (.sylStartFull .relay) s = .next { s with load := { s.load with pend := none } })) ∧
  (∀ (src : BitVec 1) (halted : Bool) (s : State),
     (s.sylBusy 1 (src == 1) halted = true → exec (.sylStartFull (.host src halted)) s =
       .next (((s.setF aSylCtrl 4 2 1).setF aSylCtrl 2 1 src.toNat).wake.logEv evSylBusy (at_ 40 0xFF))) ∧
     (s.sylBusy 2 (src == 1) = true → exec (.sylStartPartial src) s =
       .next (((s.setF aSylCtrl 4 2 2).setF aSylCtrl 2 1 src.toNat).wake.logEv evSylBusy (at_ 40 0xFF)))) ∧
  (∀ s : State,
     (s.pushing = true → exec .sylAbort s = .next
       (({ s.wake with load := { s.load with phase := 0, recv := [], verified := none } } : State).logEv evSylSource (at_ 40 0xFF))) ∧
     (s.pushing = false → exec .sylAbort s = .next s.wake))

/-- sylPushData completes: during a push the eight bytes, lowest first, are appended to the image and stored; with byte 64 come, a
LENGTH below 64 or above 2^26 ends the push with SYL_SOURCE; outside a push the write is logged and changes nothing else. -/
def Obligations.PushDataAppendsBytes : Prop :=
  ∀ (w : Word) (s : State),
    (s.pushing = false → exec (.sylPushData w) s = .next (s.logEv evHostAccessViolation 0)) ∧
    (s.pushing = true →
      let u : State := { s with load := { s.load with recv := s.load.recv ++ leBytes 8 w.toNat, pushed := s.load.pushed + 8 }
                                out := s.out ++ [.store true (s.secondHalf s.part.form + s.load.pushed) 8] }
      let n := leAt u.load.recv 8 4
      (s.load.pushed + 8 ≠ 64 ∨ (64 ≤ n ∧ n ≤ 2 ^ 26) → exec (.sylPushData w) s = .next u) ∧
      (s.load.pushed + 8 = 64 → n < 64 ∨ 2 ^ 26 < n → exec (.sylPushData w) s = .next
        (({ u with load := { u.load with phase := 0, recv := [], verified := none } } : State).logEv evSylSource (at_ 40 0xFF + 8))))

/-- sylImageReceived completes. At the head form, in the fetch phase of a load from the stack, with a whole minimum service set and
a fetch without a failing read, the image is stored and verified. One that passes every check goes in sections to the other
forms; a full one waits in phase 3 for its application, and a pending partial image is discarded; a partial one becomes
the pending image. The syllabus in force and the cloakroom stay. One that fails a check ends the load with the first failing
check's event. A fetch with a failing read ends the load with SYL_SOURCE. -/
def Obligations.ImageIsVerifiedOrRefused : Prop :=
  ∀ (img : Bytes) (s : State), s.head = true → s.part.whole = true → s.load.phase = 1 → s.load.push = false →
    let u := s.emit (.store true (s.secondHalf s.part.form) img.length)
    let im := imgOf img s.part.form
    (u.verify s.load.kind img = none → im.kind = 1 → Runs (.sylImageReceived img true) s fun t =>
      t.load = { s.load with phase := 3, kind := 1, verified := some im, pend := none, recv := [] }
        ∧ t.out = u.out ++ (List.range (s.forms - 1)).map (fun i => .sections (i + 1) (formSects im.all (i + 1)))
        ∧ t = { s with load := t.load, out := t.out }) ∧
    (u.verify s.load.kind img = none → im.kind ≠ 1 → Runs (.sylImageReceived img true) s fun t =>
      t.load = { s.load with phase := 0, pend := some im, recv := [] } ∧ t.syl = s.syl ∧ t.t0 = s.t0
        ∧ t.out = u.out ++ (List.range (s.forms - 1)).map (fun i => .sections (i + 1) (formSects im.all (i + 1)))) ∧
    (∀ e : SylBad, u.verify s.load.kind img = some e → exec (.sylImageReceived img true) s = .next
      (({ u with load := { s.load with phase := 0, recv := [], verified := none } } : State).logEv e.1
        (at_ 40 (e.2.1 % 256) + e.2.2 % 2 ^ 26))) ∧
    exec (.sylImageReceived img false) s = .next
      (({ s with load := { s.load with phase := 0, recv := [], verified := none } } : State).logEv evSylSource (at_ 40 0xFF))

/-- fullLoadApply completes: the verified image is the syllabus in force, the step counter is zero, the effective level is the
greater of strap and image at the head form and the image's elsewhere, queues, lockers, contexts and couriers are empty,
the loader is idle. A fault at this form, or at another, leaves no syllabus in force and no image waiting. With no
verified image and no fault elsewhere nothing happens. -/
def Obligations.FullLoadInstallsImage : Prop :=
  (∀ (cycles : BitVec 32) (im : Image) (s : State), s.load.verified = some im →
    Runs (.fullLoadApply cycles .done) s fun t =>
      t.syl = some im ∧ t.stepCtr = 0 ∧ t.load.phase = 0 ∧ t.load.verified = none ∧ t.load.pend = none
        ∧ t.level = (if s.part.form = 0 then max (strapLevel s.part.compat) im.level else im.level)
        ∧ t.ques = [] ∧ t.flights = [] ∧ t.lkrs = [] ∧ t.stms = [] ∧ t.crs = [] ∧ t.bells = [] ∧ t.slots = [] ∧ t.t0 = []
        ∧ t.pwr.vfLocked = true) ∧
  (∀ (cycles : BitVec 32) (last : Sys2Proof.ApplyEnd) (im : Image) (s : State), s.load.verified = some im → last ≠ .done →
    Runs (.fullLoadApply cycles last) s fun t =>
      t.syl = none ∧ t.load.phase = 0 ∧ t.load.verified = none ∧ t.load.pend = none) ∧
  (∀ (cycles : BitVec 32) (s : State), s.load.verified = none →
    (∀ last : Sys2Proof.ApplyEnd, last ≠ .peer → exec (.fullLoadApply cycles last) s = .next s) ∧
    Runs (.fullLoadApply cycles .peer) s fun t => t.syl = none ∧ t.load.phase = 0 ∧ t.load.pend = none)

/-- signal completes: a host write of BEL_n signals the bell by the value in bits [63:32]: an ordinary bell takes the exact sum, held
at 0xFFFF_FFFF at level 3 and modulo 2^32 at level 2; a flag bell takes 1 when the value is not 0 and stays when it is.
Nothing but the bells, the registers, the log's arming and fclk_req changes, and of the bells only this one. -/
def Obligations.SignalAddsToBell : Prop :=
  ∀ (n : BitVec 16) (v : Word) (s : State), s.fullLoading = false → n.toNat < limBells s.part.set → s.level = 2 ∨ s.level = 3 →
    Tab.wf s.bells = true →
    Runs (.signal n v) s fun t =>
      (s.isFlag n.toNat = false → t.bell n.toNat =
        (if s.level = 3 then min (2 ^ 32 - 1) (s.bell n.toNat + fld v 32 32) else (s.bell n.toNat + fld v 32 32) % 2 ^ 32))
      ∧ (s.isFlag n.toNat = true → t.bell n.toNat = if fld v 32 32 = 0 then s.bell n.toNat else 1)
      ∧ t = { s with bells := t.bells, regs := t.regs, err := { s.err with armed := t.err.armed }
                     pins := { s.pins with fclkReq := t.pins.fclkReq } }
      ∧ ∀ m, m ≠ n.toNat → t.bell m = s.bell m

/-- asmMaskWrite completes: a host write of ASM_MASK at an assembly that the timetable does not own takes effect while
both counts are 0, and logs SYN_BUSY otherwise; the timetable's assemblies ignore it. A round completes when the slot
of the current parity has COUNT equal to the number of set mask bits: ROUND increases by 1 and that slot starts to
drain; an open slot that is not full stays as it is. An arrival of a participant outside the mask is refused with
ASM_NOT_MEMBER and does not change the assembly; one with its bit set again is refused with ASM_REENTRY; into a
draining slot it is held; else its bit is set in the slot of its sense. -/
def Obligations.AssemblyMaskAndArrival : Prop :=
  (∀ (a : BitVec 10) (m : Word) (s : State), s.fullLoading = false → a.toNat < limAsms s.part.set →
     exec (.asmMaskWrite a m) s = .next (
       if a.toNat < s.objAsms then s
       else if (s.asm a.toNat).count 0 ≠ 0 ∨ (s.asm a.toNat).count 1 ≠ 0 then s.logEv evSynBusy (synErr a.toNat 0)
       else { s with asms := Tab.put s.asms a.toNat { s.asm a.toNat with mask := m } })) ∧
  (∀ a : Asm, (a.mask ≠ 0 ∧ a.drain a.parity = false ∧ a.count a.parity = popcount a.mask →
       a.complete.round = a.round + 1 ∧ a.complete.drain a.parity = true ∧ a.complete.mask = a.mask
         ∧ a.complete.arr0 = a.arr0 ∧ a.complete.arr1 = a.arr1 ∧ a.complete.held = a.held) ∧
     (¬ (a.mask ≠ 0 ∧ a.drain a.parity = false ∧ a.count a.parity = popcount a.mask) → a.complete = a)) ∧
  (∀ (n p sn q : Nat) (s : State), p < 64 → sn < 2 →
     (((s.asm n).mask.getLsbD p = false → s.arrive n p sn q = (s.logEv evNotMember (synErr n q), false)) ∧
      ((s.asm n).mask.getLsbD p = true → (s.asm n).drain sn = true →
        s.arrive n p sn q = (s.setAsm n { s.asm n with held := (s.asm n).held ++ [⟨p, sn, q⟩] }, true)) ∧
      ((s.asm n).mask.getLsbD p = true → (s.asm n).drain sn = false → ((s.asm n).arr sn).getLsbD p = true →
        s.arrive n p sn q = (s.logEv evReentry (synErr n q), false)) ∧
      ((s.asm n).mask.getLsbD p = true → (s.asm n).drain sn = false → ((s.asm n).arr sn).getLsbD p = false →
        ∃ a', s.arrive n p sn q = (s.setAsm n a', false) ∧ (a'.arr sn).getLsbD p = true ∧ a'.mask = (s.asm n).mask
          ∧ a'.round = (s.asm n).round ∧ a'.count sn = (s.asm n).count sn + 1)))

/-- The rebase subtracts the lesser value of a bell pair from both; the difference of the two is kept, and one of them is 0. -/
def Obligations.RebaseKeepsDifference : Prop :=
  ∀ (a b : Nat) (s : State), a ≠ b → Tab.wf s.bells = true →
    ((s.rebasePair (a, b)).bell a = s.bell a - min (s.bell a) (s.bell b))
    ∧ ((s.rebasePair (a, b)).bell b = s.bell b - min (s.bell a) (s.bell b))
    ∧ (∀ m, m ≠ a → m ≠ b → (s.rebasePair (a, b)).bell m = s.bell m)
    ∧ (s.rebasePair (a, b)) = { s with bells := (s.rebasePair (a, b)).bells }

/-- quePush completes: at a queue that exists and is no timetable queue, with room, the staged command's 64 bytes go to the ring slot at
TAIL and TAIL advances modulo 2 × RING_DEPTH; a full queue logs QUE_FULL, any other QUE_ILLEGAL, and neither changes
anything else. -/
def Obligations.PushAppendsStagedCommand : Prop :=
  ∀ (v : Word) (s : State), s.fullLoading = false →
    (s.queExists (fld v 0 13) = true → s.isTtQueue (fld v 0 13) = false → s.queFull (fld v 0 13) = false →
      Runs (.quePush v) s fun t =>
        t.t0 = Tab.putBytes s.t0 (s.ringAddr (fld v 0 13) (s.que (fld v 0 13)).tail) (cmdBytes s.sync.stage)
        ∧ t.que (fld v 0 13) = { s.que (fld v 0 13) with
            tail := ((s.que (fld v 0 13)).tail + 1) % (2 * s.ringDepth), tags := (s.que (fld v 0 13)).tags ++ [none] }
        ∧ t = { s with t0 := t.t0, t0Poison := t.t0Poison, ques := t.ques, pins := t.pins }) ∧
    (s.queExists (fld v 0 13) = true → s.isTtQueue (fld v 0 13) = false → s.queFull (fld v 0 13) = true →
      exec (.quePush v) s = .next (s.logEv evQueFull (synErr 0 (fld v 0 13)))) ∧
    (s.queExists (fld v 0 13) = false ∨ s.isTtQueue (fld v 0 13) = true →
      exec (.quePush v) s = .next (s.logEv evQueIllegal (synErr 0 (fld v 0 13))))

/-- resume, run and halt complete, on a queue within the set's limit: RESUME lets a STOPPED queue go on, RUN a HALTED one;
HALT of a going queue stops it at once when it holds no issued or accepted command, and else at the next command
boundary; in any other state the write logs QUE_ILLEGAL and changes nothing else. skip and flush complete: SKIP of a
STOPPED queue lets it go on past the stopping command, and FLUSH of a STOPPED or HALTED queue sets HEAD to TAIL; the
dropped commands are gone for their entries and productions (log 56). In the other states both log QUE_ILLEGAL. -/
def Obligations.QueueControl : Prop :=
  (∀ (q : BitVec 13) (s : State), s.fullLoading = false → q.toNat < limQueues s.part.set →
     exec (.resume q) s = .next (if (s.que q.toNat).run = .stopped then s.modQue q.toNat fun x => { x with run := .going }
       else s.logEv evQueIllegal (synErr 0 q.toNat)) ∧
     exec (.run q) s = .next (if (s.que q.toNat).run = .halted then s.modQue q.toNat fun x => { x with run := .going }
       else s.logEv evQueIllegal (synErr 0 q.toNat)) ∧
     ((s.que q.toNat).run = .going → Runs (.halt q) s fun t =>
       t.que q.toNat = (if s.queBusy q.toNat = true then { s.que q.toNat with haltReq := true }
           else { s.que q.toNat with haltReq := false, run := .halted, waiting := false })
         ∧ t = { s with ques := t.ques, sync := { s.sync with waiters := s.sync.waiters.filter (· != q.toNat) } }) ∧
     ((s.que q.toNat).run ≠ .going → exec (.halt q) s = .next (s.logEv evQueIllegal (synErr 0 q.toNat)))) ∧
  (∀ (q : BitVec 13) (s : State), s.fullLoading = false → q.toNat < limQueues s.part.set →
     ((s.que q.toNat).run ≠ .stopped → exec (.skip q) s = .next (s.logEv evQueIllegal (synErr 0 q.toNat))) ∧
     ((s.que q.toNat).run = .stopped → exec (.skip q) s = .next
       (((if (s.que q.toNat).aside.isSome || s.queEmpty q.toNat then s else s.advance q.toNat).modQue q.toNat fun x =>
         { x with run := .going, aside := none, taken := x.aside.isSome && x.headTaken, headTaken := false }).cmdsDropped
         (s.curCmd q.toNat).toList)) ∧
     ((s.que q.toNat).run = .going → exec (.flush q) s = .next (s.logEv evQueIllegal (synErr 0 q.toNat))) ∧
     ((s.que q.toNat).run ≠ .going → exec (.flush q) s = .next ((s.modQue q.toNat fun x => { x with
         run := if x.run = .stopped then .going else .halted, aside := none, taken := false, late := false, headTaken := false
         head := x.tail, tags := [] }).cmdsDropped
         ((s.que q.toNat).aside.toList ++ s.ringCmds q.toNat))))

/-- nop and post complete, for a command that its queue has issued: it is accepted and its work is over; POST writes VALUE
to its slot, sets VALID and adds 1 to SEQ modulo 2^32; a slot that was VALID becomes OVERWRITTEN and RES_OVERWRITE is
logged; SEQ is 0 after a full load. resStatusRead and resTake complete, at a slot within the set's limit: a read of
RES_STATUS copies the slot's value, a read of RES_TAKE consumes a VALID value and empties the slot, or answers with
the empty marker; the read answers at the host port and changes nothing else. -/
def Obligations.ResultSlots : Prop :=
  ((∀ (q : BitVec 13) (c : Cmd) (tag : Option EntTag) (s : State), s.issuedTo q.toNat 0x00 = some (c, tag) →
     exec (.nop q) s = .next (s.acceptCmd q.toNat true)) ∧
   (∀ (q : BitVec 13) (c : Cmd) (tag : Option EntTag) (s : State), s.issuedTo q.toNat 0x01 = some (c, tag) →
     let r := Tab.get s.slots (cSlot c)
     let u : State := { s with slots := Tab.put s.slots (cSlot c) { r with
       value := word (cValue c), valid := true, overw := r.overw || r.valid, seq := r.seq + 1 } }
     exec (.post q) s = .next ((if r.valid = true then u.logEv evResOverwrite (synErr (cSlot c) q.toNat) else u).acceptCmd q.toNat true)
       ∧ Tab.get u.slots (cSlot c) = { r with
           value := word (cValue c), valid := true, overw := r.overw || r.valid, seq := r.seq + 1 }) ∧
   (∀ (cycles : BitVec 32) (im : Image) (s : State), s.load.verified = some im →
     Runs (.fullLoadApply cycles .done) s fun t => ∀ i, (Tab.get t.slots i).seq = 0)) ∧
  (∀ (slot : BitVec 12) (s : State), s.fullLoading = false → slot.toNat < limSlots s.part.set →
     exec (.resStatusRead slot) s = .next { s with
       slots := Tab.put s.slots slot.toNat { Tab.get s.slots slot.toNat with copy := (Tab.get s.slots slot.toNat).value }
       out := s.out ++ [.hostResp (Tab.get s.slots slot.toNat).status false] } ∧
     ((Tab.get s.slots slot.toNat).valid = true → exec (.resTake slot) s = .next { s with
       slots := Tab.put s.slots slot.toNat { Tab.get s.slots slot.toNat with
         valid := false, overw := false, takeSeq := (Tab.get s.slots slot.toNat).seq, takeEmpty := false }
       out := s.out ++ [.hostResp (Tab.get s.slots slot.toNat).value false] }) ∧
     ((Tab.get s.slots slot.toNat).valid = false → exec (.resTake slot) s = .next { s with
       slots := Tab.put s.slots slot.toNat { Tab.get s.slots slot.toNat with
         takeSeq := (Tab.get s.slots slot.toNat).seq, takeEmpty := true }
       out := s.out ++ [.hostResp 0xE000000000000000 false] }))

/-- commandIssue completes. The head command of a going queue with nothing at issue, whose words are readable, that is legal, waits for
nothing, needs no bench and no row unit, and whose queue the tutor serves in this cycle, is issued. In general, when the
head command's waits pass, a command of a queue served now is issued with its waits taken, and a bench or row-unit
command is then offered to its unit; a command whose waits do not hold, or that has no room in the partial store, joins the
waiters; an illegal one stops the queue with QUE_ILLEGAL; with nothing to test nothing happens. -/
def Obligations.IssueTestsHead : Prop :=
  (∀ (q : BitVec 13) (c : Cmd) (s : State), (s.que q.toNat).run = .going → (s.que q.toNat).held = false →
    (s.que q.toNat).issued = false → (s.que q.toNat).late = false → (s.que q.toNat).haltReq = false →
    (s.que q.toNat).aside = none → (s.que q.toNat).taken = false → s.queEmpty q.toNat = false → s.headOf q.toNat = (c, none) →
    s.t0Bad (s.ringAddr q.toNat (s.que q.toNat).head) 64 = false → cSerial c = false → s.illegalCmd (!s.isTtQueue q.toNat) c = false →
    cmdAt c 2 1 % 16 = 0 → cmdUnit c = none → s.servedNow q.toNat = true →
    exec (.commandIssue q) s = .next (s.markIssued q.toNat)) ∧
  (∀ (q : BitVec 13) (s : State), s.ringBad q.toNat = false → s.atIssue q.toNat = none →
    (∀ (c : Cmd) (tag : Option EntTag) (u : State), s.testHead q.toNat s.stuck = .pass c tag u →
      (s.waitsForPart q.toNat c tag = false → s.servedNow q.toNat = true →
        exec (.commandIssue q) s = .next ((u.markIssued q.toNat).acceptUnit q.toNat)) ∧
      (s.waitsForPart q.toNat c tag = false → s.servedNow q.toNat = false → exec (.commandIssue q) s = .next s) ∧
      (s.waitsForPart q.toNat c tag = true → exec (.commandIssue q) s = .next (s.beginWait q.toNat))) ∧
    (s.testHead q.toNat s.stuck = .waits → exec (.commandIssue q) s = .next (s.beginWait q.toNat)) ∧
    (s.testHead q.toNat s.stuck = .illegal → exec (.commandIssue q) s = .next (s.refuseHead q.toNat 0)) ∧
    (s.testHead q.toNat s.stuck = .nothing → exec (.commandIssue q) s = .next s))

/-- lkrSelWrite, numHistSelWrite, mkrCardSelWrite and philoxCtrWrite complete. A write of LKR_SEL, NUM_HIST_SEL or
MKR_CARD_SEL selects, and clears the view registers behind it, each of them named here; a write of a PHILOX counter
register marks the outputs for the next cycle. Beyond that only fclk_req may rise. lkrStateRead, numHistStateRead,
mkrCardFlagsRead and plnLastInRead complete. A read of the latching register answers at the host port with the
selected object's word and loads that register and its view: of LKR_STATE the run, destination, need and epoch of the
selected locker; of NUM_HIST_STATE the sixteen amax entries of the history; of MKR_CARD_FLAGS the three numbers of a
report card that exists; of PLN_LAST_IN the record of the last live evaluation. Nothing else changes. -/
def Obligations.ViewRegisters : Prop :=
  (∀ (v : Word) (s : State), s.fullLoading = false →
     exec (.lkrSelWrite v) s = .next (((((s.setReg aLkrSel (word (fld v 0 18))).setReg aLkrRun 0).setReg aLkrDest 0).setReg
       aLkrNeed 0).setReg aLkrEntryEpoch 0).wake ∧
     (Tab.wf s.regs = true → Runs (.numHistSelWrite v) s fun t => s.sameButRegsPin t ∧ t.reg aNumHistSel = word (fld v 0 14)
       ∧ (∀ i, i < 8 → t.reg (aNumHistAmax + 8 * i) = 0)
       ∧ ∀ a, a ≠ aNumHistSel → (∀ i, i < 8 → a ≠ aNumHistAmax + 8 * i) → t.reg a = s.reg a) ∧
     exec (.mkrCardSelWrite v) s = .next ((((s.setReg aMkrCardSel (word (fld v 0 10))).setReg aMkrCardWn 0).setReg
       aMkrCardGn 0).setReg aMkrCardRatio 0).wake ∧
     (∀ hi : BitVec 1, exec (.philoxCtrWrite hi v) s = .next
       ({ s.setReg (if hi = 1 then aBncPhiloxHi else aBncPhiloxLo) v with bnc := { s.bnc with philoxDue := true } } : State).wake)) ∧
  (∀ s : State, s.fullLoading = false →
     (let e := (s.lkr (s.regF aLkrSel 0 18)).e
      exec .lkrStateRead s = .next ((((((s.setReg aLkrRun (word (at_ 32 e.first + e.len))).setReg aLkrDest
        (word (at_ 32 e.dslot + e.done))).setReg aLkrNeed (word (at_ 32 e.need + at_ 16 e.ticket))).setReg aLkrEntryEpoch
        (word e.epoch)).setReg aLkrState e.stateWord).emit (.hostResp e.stateWord false))) ∧
     (Tab.wf s.regs = true → Runs .numHistStateRead s fun t =>
       let h := s.regF aNumHistSel 0 14
       t.out = s.out ++ [.hostResp (s.histWord h) false] ∧ t.reg aNumHistState = s.histWord h
         ∧ (∀ i, i < 8 → t.reg (aNumHistAmax + 8 * i) =
             if s.nmHists ≤ h then 0 else word (at_ 32 (s.amax h (2 * i + 1)) + s.amax h (2 * i)))
         ∧ t = { s with regs := t.regs, out := t.out }) ∧
     (s.regF aMkrCardSel 0 10 < s.mkLayers →
       let k := Tab.get s.mkr.cards (s.regF aMkrCardSel 0 10)
       exec .mkrCardFlagsRead s = .next (((((s.setReg aMkrCardFlags (word k.flags)).setReg aMkrCardWn k.wn).setReg aMkrCardGn
         k.gn).setReg aMkrCardRatio k.ratio).emit (.hostResp (word k.flags) false))) ∧
     (Tab.wf s.regs = true → Runs .plnLastInRead s fun t =>
       t.out = s.out ++ [.hostResp (s.pln.live.getD 0 0) false] ∧ t.reg aPlnLastIn = s.pln.live.getD 0 0
         ∧ (∀ i, i < 5 → t.reg (aPlnLastW + 8 * i) = s.pln.live.getD (i + 1) 0) ∧ t = { s with regs := t.regs, out := t.out }))

/-- mkrDigSelWrite and digestDone complete. MKR_DIG_SEL with a piece that exists and no tile selected: the piece's digest is ready at
once. With a tile of the piece selected that exists, the tile is fetched and no digest is ready. The completion of a ready digest
loads MKR_DIG, sets the ready bit and changes nothing else. -/
def Obligations.DigestSelectAndDone : Prop :=
  (∀ (v : Word) (s : State), s.fullLoading = false →
    let u := (s.setReg aMkrDigSel (v &&& 0x000003FFFF01FFFF#64)).setReg aMkrDig 0
    u.digPiece < s.mkPieces →
    (u.digKind = false → exec (.mkrDigSelWrite v) s = .next ({ u with
      mkr := { s.mkr with digReady := true, digVal := (Tab.get s.mkr.recs u.digPiece).digest } } : State).wake) ∧
    (u.digKind = true → u.digTile < u.pcNw u.digPiece → exec (.mkrDigSelWrite v) s = .next
      (({ u with mkr := { s.mkr with digReady := false } } : State).fetchTile
        (({ u with mkr := { s.mkr with digReady := false } } : State).stateRd u.digPiece 0 u.digTile
          (.marker u.digPiece 0 u.digTile))).wake)) ∧
  (∀ s : State, s.mkr.digReady = true → bitAt (s.reg aMkrDigSel) 63 = false →
    exec .digestDone s = .next { (s.setReg aMkrDig s.mkr.digVal).setF aMkrDigSel 63 1 1 with mkr := { s.mkr with digReady := false } })

/-- lkrOpen and heldOpenRetry complete. An OPEN that a host queue has issued, that nothing refuses, with PLACEMENT 1 or 2 and room for
it in T0 or T1, leaves the locker OPEN at the slot that the allocation gives, with the command's fields and one epoch; a
held OPEN that is evaluated again and now has room is placed in the same way and is held no longer. In general both go by the
planner's placement. An OPEN that is refused stops its queue with the refusal's code and leaves HEAD, the lockers, the
commands with units and the cloakroom as they were. -/
def Obligations.OpenPlacesOrHolds : Prop :=
  (∀ (q : BitVec 13) (c : Cmd) (f : Nat) (s : State), s.issuedTo q.toNat 0x10 = some (c, none) →
    (s.reg aLkrEpoch).toNat + 1 < 2 ^ 64 →
    ((cPlace c = 1 ∧ cLength c + s.plT0Reserve ≤ s.largestFree 0 (cLocker c)) ∨
      (cPlace c = 2 ∧ cLength c ≤ s.largestFree 1 (cLocker c))) →
    (s.openEntry c none (cFormat c) (cLength c)).fit (cPlace c - 1) (cLocker c) (cLength c) = some f →
    (s.pln.held.any (·.queue == q.toNat) = false → s.openRefusal c = none →
      Runs (.lkrOpen q) s (Opened q.toNat c (cPlace c - 1) f s)) ∧
    (s.pln.held.any (·.queue == q.toNat) = true → Runs (.heldOpenRetry q) s fun t =>
      Opened q.toNat c (cPlace c - 1) f s t ∧ t.pln.held.any (·.queue == q.toNat) = false)) ∧
  (∀ (q : BitVec 13) (c : Cmd) (tag : Option EntTag) (s : State), s.issuedTo q.toNat 0x10 = some (c, tag) →
    (s.pln.held.any (·.queue == q.toNat) = false → s.openRefusal c = none →
      exec (.lkrOpen q) s = .next (s.tryOpen q.toNat c tag false)) ∧
    (s.pln.held.any (·.queue == q.toNat) = true → exec (.heldOpenRetry q) s = .next (s.tryOpen q.toNat c tag true))) ∧
  (∀ (q : BitVec 13) (c : Cmd) (tag : Option EntTag) (e : Ev) (s : State), s.issuedTo q.toNat 0x10 = some (c, tag) →
    (s.que q.toNat).late = false → s.pln.held.any (·.queue == q.toNat) = false → s.openRefusal c = some e →
    Runs (.lkrOpen q) s fun t => (t.que q.toNat).run = .stopped ∧ (t.que q.toNat).code = e.code
      ∧ (t.que q.toNat).head = (s.que q.toNat).head ∧ t.lkrs = s.lkrs ∧ t.flights = s.flights ∧ t.t0 = s.t0)

/-- lkrMove and lkrRecall complete, for an issued command that passes the locker checks. A MOVE of a PLACED locker to
another tier with room, and a RECALL of one in T2 or T3, leave it MOVING towards the slot found, with one fresh epoch
for its destination; a RECALL of a PLACED locker in T0 or T1 makes it RECALLED and signals its TICKET. Each is
accepted and over. lkrRead and lkrRelease complete, for an issued command that passes the locker checks. READ of a
locker that may be read is accepted and bound to the pass that reads it, at once when it does not consume or the run
stands in T0 or T1. RELEASE of a locker that is not FREE is accepted, over, and releases it. A MOVE, RECALL, READ or
RELEASE that a locker check refuses stops its queue with the check's code and leaves HEAD and the lockers as they
were. -/
def Obligations.LockerCommands : Prop :=
  (∀ (q : BitVec 13) (c : Cmd) (tag : Option EntTag) (s : State), s.lkrCheck c = none →
     (s.lkr (cLocker c)).e.st = lkPlaced → (s.lkr (cLocker c)).rel = false → s.tierPresent (cPlace c) = true →
     (∀ f : Nat, s.fit (cPlace c) (cLocker c) (s.lkr (cLocker c)).e.len = some f →
       let moved (isRecall : Bool) (t : State) : Prop :=
         (t.lkr (cLocker c)).e = { (s.lkr (cLocker c)).e with
             st := lkMoving, src := (s.lkr (cLocker c)).e.tier, dest := cPlace c, isRecall := isRecall, dslot := f, done := 0
             depoch := (s.reg aLkrEpoch).toNat }
           ∧ t.regs = (s.setReg aLkrEpoch (s.reg aLkrEpoch + 1)).regs ∧ t.flights = s.flights ++ [accepted q.toNat c tag true]
           ∧ t.t0 = s.t0
       (s.issuedTo q.toNat 0x11 = some (c, tag) → cPlace c < 4 → (s.lkr (cLocker c)).e.tier ≠ cPlace c →
         Runs (.lkrMove q) s (moved false)) ∧
       (s.issuedTo q.toNat 0x12 = some (c, tag) → cPlace c < 2 → 2 ≤ (s.lkr (cLocker c)).e.tier →
         Runs (.lkrRecall q) s (moved true))) ∧
     (s.issuedTo q.toNat 0x12 = some (c, tag) → cPlace c < 2 → (s.lkr (cLocker c)).e.tier < 2 →
       exec (.lkrRecall q) s = .next ((s.enterRecalled (cLocker c)).acceptCmd q.toNat true))) ∧
  (∀ (q : BitVec 13) (c : Cmd) (tag : Option EntTag) (s : State),
     (s.issuedTo q.toNat 0x13 = some (c, tag) → s.lkrCheck c = none → (s.lkr (cLocker c)).readIllegal (cConsume c) = false →
       ¬ (cConsume c = true ∧ (((s.lkr (cLocker c)).e.st = lkPlaced ∧ 2 ≤ (s.lkr (cLocker c)).e.tier)
         ∨ (s.lkr (cLocker c)).e.st = lkDropped)) →
       exec (.lkrRead q) s = .next ((s.acceptCmd q.toNat false).bindRead q.toNat (cLocker c) (cStream c) (cConsume c))) ∧
     (s.issuedTo q.toNat 0x14 = some (c, tag) → s.lkrCheck c = none → (s.lkr (cLocker c)).e.st ≠ lkFree →
       exec (.lkrRelease q) s = .next ((s.acceptCmd q.toNat true).releaseLkr (cLocker c))) ∧
     (∀ (op : Nat) (e : Ev), 0x11 ≤ op → op ≤ 0x14 → s.issuedTo q.toNat op = some (c, tag) → s.lkrCheck c = some e →
       (s.que q.toNat).late = false →
       Runs (lockerRow op q) s fun t => (t.que q.toNat).run = .stopped ∧ (t.que q.toNat).code = e.code
         ∧ (t.que q.toNat).head = (s.que q.toNat).head ∧ t.lkrs = s.lkrs))

/-- fwd, dgradW, dgradG and wgrad complete: the row of a PRODUCT that bench `u` holds, with its operands there, an allowed pair of formats,
a readable mask and, for a suspended block, the same output. The masked product of the stationary and the streamed
operand, which goes on from what the partial store holds of the block, is sent on quantised as O_CTX (destination 0), written
(1) or added (2) at FDST, or given to the chained row operation (3); the bench counts cycles and tiles when no element
met an illegal code. Operands that are shorter than the reduction's rest suspend the block. -/
def Obligations.ProductRunsOnOperands : Prop :=
  ∀ (op : Nat) (u : BitVec 3) (f : Flight) (ts : List (Nat × List Bytes)) (s : State), op < 4 →
    s.unitFlight u.toNat = some f → cOp f.cmd = 0x20 → uProd f.cmd = op → s.blockInputs f = some ts →
    let n := s.stepsLeft f.cmd
    (operandAt ts 0 n (prodByRows op) = none ∨ operandAt ts 1 n (op == 3) = none →
      exec (productRow op u) s = .next (s.suspend f ts op n).stir) ∧
    (∀ sv a : Opd, operandAt ts 0 n (prodByRows op) = some sv → operandAt ts 1 n (op == 3) = some a →
    pairOk sv.fmt a.fmt = true → s.maskBad f.cmd (prodVecs op sv a).1.length (prodVecs op sv a).2.length = none →
    let mr := (prodVecs op sv a).1.length
    let nc := (prodVecs op sv a).2.length
    ((s.suspOf f.cmd).any fun p => p.m != mr || p.n != nc) = false →
    let es := s.maskEntries f.cmd mr nc
    let y := match s.suspOf f.cmd with
      | none => prodMat s.nmSpill es (prodVecs op sv a).1 (prodVecs op sv a).2
      | some p => prodMatFrom s.nmSpill es p (prodVecs op sv a).1 (prodVecs op sv a).2
    let live := liveBlocks es mr nc
    let tiles := prodTiles op (shapeOf sv.fmt).rows (shapeOf sv.fmt).cols n mr nc live
    let leave (t : State) : State := if (s.suspOf f.cmd).isNone = true then t else
      { t with bnc := { t.bnc with parts := t.bnc.parts.filter fun x => x.key != suspKey f.cmd } }
    let count (t : State) : State := if matWhole y = false then leave t else
      (leave t).countBench u.toNat (pairCycles sv.fmt a.fmt n * subBlocks s.part.set * gangPasses s.gangShape live)
        (if op = 3 then tiles else 0) (if op = 3 then 0 else tiles)
    (uDest f.cmd = 0 → exec (productRow op u) s =
      .next ((count s).emitOut f ts (matBad y) (tilesFor (uOctx f.cmd) (s.outFmt f) nc y)).stir) ∧
    (uDest f.cmd = 1 ∨ uDest f.cmd = 2 → exec (productRow op u) s =
      .next (s.storeOut f (uDest f.cmd == 2) mr nc y fun s' all => (count s').endPlain f ts (matBad y) all).stir) ∧
    (uDest f.cmd = 3 → rowShapes (uChain f.cmd) nc mr (operandAt ts 2 nc false) none = true →
      let t := s.runRow f ts (uChain f.cmd) nc y (((operandAt ts 2 nc false).map rowMat).getD []) [] (matBad y)
      t.flights.any (· == f) = false → t.flights.any (fun g => g.queue == f.queue && g.cmd == f.cmd && g.ran) = true →
      exec (productRow op u) s = .next (count t).stir))

/-- The elements of a product: masked elements are +0, any other is the dot product of the row and the column, added up in the
order of the reduction with partial sums spilled as SPILL says. -/
def Obligations.ProductElementIsDot : Prop :=
  ∀ (spill : Nat) (es : List Bytes) (l r : List (List (Option Fp))) (i j : Nat) (x y : List (Option Fp)),
    l[i]? = some x → r[j]? = some y →
    ∃ row, (prodMat spill es l r)[i]? = some row
      ∧ row[j]? = some (if isMasked es r.length i j then some .zero else dotF spill x y)

/-- ropTable, ropTableD, ropGate, ropGateD, ropNorm, ropNormApply, ropNormD, ropSoftmax, ropSoftmaxApply, ropSoftmaxD and ropDropout
complete: the row of a ROWOP that row unit `u` holds, with its operands there in agreeing shapes, carries out its operation
on the input's rows, with the second and third input where it has them. On elements that are no illegal codes TABLE
gives the table at x, TABLE_D dy times the table at x, GATE the table at the first input times the second. -/
def Obligations.RowOperationRuns : Prop :=
  (∀ (op : Nat) (u : BitVec 3) (f : Flight) (ts : List (Nat × List Bytes)) (x : Opd) (s : State), op < 11 →
    s.unitFlight u.toNat = some f → cOp f.cmd = 0x22 → uRow f.cmd = op → s.inputsOf f = some ts →
    operandAt ts 0 (uSteps f.cmd) false = some x →
    rowShapes op (uSteps f.cmd) x.rows (operandAt ts 1 (uSteps f.cmd) false) (operandAt ts 2 (uSteps f.cmd) false) = true →
    exec (rowopRow op u) s = .next (s.runRow f ts op (uSteps f.cmd) (rowMat x)
      (((operandAt ts 1 (uSteps f.cmd) false).map rowMat).getD [])
      (((operandAt ts 2 (uSteps f.cmd) false).map rowMat).getD []) false).stir) ∧
  (∀ (a : RowArg) (x b c : Mat) (i j : Nat) (v w : Fp) (xr br : List (Option Fp)),
    x[i]? = some xr → xr[j]? = some (some v) → b[i]? = some br → br[j]? = some (some w) →
    let el (op : Nat) : Option (Option Fp) := ((rowOp a op x b c).y[i]?).bind fun r => r[j]?
    el 0 = some (some (tableF a.tT v)) ∧ el 1 = some (some (mul32 w (tableF a.tD v)))
      ∧ el 2 = some (some (mul32 (tableF a.tT v) w)))

/-- paired completes: a PAIRED command that bench `u` holds, with its inputs there in the counts that W and D ask for, allowed pairs of
formats and, when W is not 0, a readable mask. Its weight-gradient items are added at FDST, its gradients of the input
sent on quantised, and, when every item was formed, the bench counts cycles and tiles. -/
def Obligations.PairedAccumulates : Prop :=
  ∀ (u : BitVec 3) (f : Flight) (ts : List (Nat × List Bytes)) (s : State),
    s.unitFlight u.toNat = some f → cOp f.cmd = 0x21 → s.inputsOf f = some ts →
    let p := (pairedOf f.cmd ts).1
    let g := (pairedOf f.cmd ts).2
    p.ok = true → p.w = 0 ∨ s.maskBad f.cmd p.wRows (p.wCols g) = none →
    let es := if p.w = 0 then [] else s.maskEntries f.cmd p.wRows (p.wCols g)
    let vw := p.wVals s.nmSpill es g
    let yg := p.gBlocks s.nmSpill g
    p.done.length = p.ss.length * (p.w + p.d) →
    let bad := vw.any (fun v => !(v32 v.2).isFin) || yg.any matBad
    let count (t : State) : State := t.countBench u.toNat (p.cycles es g * subBlocks s.part.set) (p.wTiles es g) (p.ss.length * p.d)
    let sent (t : State) : State := (count t).emitOut f ts bad
      (yg.flatMap fun y => tilesFor (uOctx f.cmd) (s.outFmt f) ((y.map List.length).headD 0) y)
    (p.w ≠ 0 → p.d = 0 → exec (.paired u) s =
      .next (s.storeItems f p.wRows (p.wCols g) vw fun t => (count t).endPlain f ts bad true).stir) ∧
    (p.w ≠ 0 → p.d ≠ 0 → exec (.paired u) s = .next (s.storeItems f p.wRows (p.wCols g) vw sent).stir) ∧
    (p.w = 0 → p.d ≠ 0 → exec (.paired u) s = .next (sent s).stir)

/-- commandComplete completes, for a queue whose oldest command is over: the command leaves its unit and its entry, and in the same cycle
its arrivals reach their assemblies and its ADD signals, with its entry's DONE_BELL, their bells; a HALT that waits for the boundary takes
effect, and what the entry's end makes possible follows. Where no timetable runs, a command of no entry and without arrivals has no effect but its
ADD signals' and the HALT's. With no command over nothing completes. -/
def Obligations.CompletionAppliesSignals : Prop :=
  (∀ (q : BitVec 13) (f : Flight) (s : State), s.oldestOver q.toNat = some f →
    let u : State := { s with flights := s.flights.filter fun g => !(g == f || (g.dropped && g.done)) }
    let r := (u.prodGone f.tag f.cmd true f.amax).entGone f.tag
    let v := r.2.arriveAll (s.flightArrivals f)
    let adds := s.flightAdds f ++ r.1.toList.map fun b => (b, 1)
    exec (.commandComplete [q] []) s =
      .next ((if adds.isEmpty then v else v.signalAll adds).boundaryHalt q.toNat).entriesEnded.settle) ∧
  (∀ (q : BitVec 13) (f : Flight) (s : State), s.calm → s.oldestOver q.toNat = some f → f.tag = none → cmdArrivals f.cmd = [] →
    let u : State := { s with flights := s.flights.filter fun g => !(g == f || (g.dropped && g.done)) }
    exec (.commandComplete [q] []) s =
      .next ((if (cmdAdds f.cmd).isEmpty then u else u.signalAll (cmdAdds f.cmd)).boundaryHalt q.toNat)) ∧
  (∀ (q : BitVec 13) (s : State), s.oldestOver q.toNat = none → exec (.commandComplete [q] []) s = .next
    ((({ s with flights := s.flights.filter fun f => !(f.dropped && f.done) } : State).boundaryHalt q.toNat).entriesEnded.settle))

/-- closingAssemblyAct completes. With no completed round of the closing assembly nothing happens. A completed round is
taken, one at a time. Outside the closing sequence of a step the actions of R250 run, which increase the step counter
by one. In the closing sequence, participant 0 leaves the round first, and the step ends with the actions that follow
it: an abort held for the boundary, a checkpoint that is due, and the items between steps. closingSequenceStart
completes: when every period of a step has drained, the closing sequence of a learning step starts at the gate, and in
any other term the form arrives at the closing assembly; before that nothing starts. -/
def Obligations.ClosingOfStep : Prop :=
  (∀ s : State,
     let u : State := { s with tut := { s.tut with boundary := decide (s.tut.extra ≠ 0), extra := s.tut.extra - 1 } }
     (s.tut.boundary = false → exec .closingAssemblyAct s = .next s) ∧
     (s.tut.boundary = true → s.tut.phase ≠ 2 ∨ s.tut.closing ≠ .arrive ∨ s.tut.st = 0 →
       exec .closingAssemblyAct s = .next u.boundaryActs.settle.changeStep) ∧
     (s.tut.boundary = true → s.tut.phase = 2 → s.tut.closing = .arrive → s.tut.st ≠ 0 →
       let v := u.closeRelease.boundaryActs
       let w := ({ v with tut := { v.tut with
         phase := 0, closing := .idle, termSteps := min 0xFFFF (v.tut.termSteps + 1), between := [1, 2, 3, 4]
         runs := v.tut.runs.filter fun r => r.kind != 0 } } : State).applyHeld
       (w.tut.st = 0 → exec .closingAssemblyAct s = .next w.settle.changeStep) ∧
       (w.tut.st ≠ 0 → exec .closingAssemblyAct s = .next
         ((if w.ckptDue 1 = true then w.startCkpt else w).goOn.entriesEnded).settle.changeStep)) ∧
     s.boundaryActs.stepCtr = s.stepCtr + 1) ∧
  (∀ s : State,
     let ended := s.tut.phase = 1 ∧ s.tut.st = 1 ∧ s.tut.drained = ttPeriods s.ttSect ∧ s.tut.drained ≠ 0
     let u : State := { s with tut := { s.tut with phase := 2, started := 0, drained := 0 } }
     (ended → exec .closingSequenceStart s = .next (if s.tut.term = 1 then (u.setClosing .gate).settle else u.closeArrive.settle)) ∧
     (¬ ended → exec .closingSequenceStart s = .next s.settle))

/-- deadlock completes: a stalled form with a detector that has not reported since a queue advanced logs DEADLOCK with the lowest
blocked queue, writes the records of the blocked queues, at most the snapshot's number, to the snapshot in SCRATCH, and sets the
counts of SYN_DL; nothing else changes, and a second report does nothing. A form that is not stalled, or has reported,
does nothing. -/
def Obligations.DeadlockReportsOnce : Prop :=
  ∀ s : State,
    let blocked := (s.ques.map Prod.fst).filter fun q => s.queState q == 2 || s.queState q == 4 || s.queState q == 5
    let bytes := (blocked.take s.snapMax).flatMap (s.logEv evDeadlock (synErr 0 (blocked.headD 0))).snapRecord
    (s.isStalled = true → s.deadlockUs ≠ 0 → s.sync.dlLogged = false → Runs .deadlock s fun t =>
      t.sync = { s.sync with dlLogged := true, dlRecords := (blocked.take s.snapMax).length, dlBlocked := blocked.length
                             dlFirst := blocked.headD 0 }
        ∧ t.t0 = Tab.putBytes s.t0 (s.t0Scratch + s.snapOffset) bytes
        ∧ t.regs = (s.logEv evDeadlock (synErr 0 (blocked.headD 0))).regs
        ∧ t = { s with regs := t.regs, err := { s.err with armed := t.err.armed }, t0 := t.t0, t0Poison := t.t0Poison, sync := t.sync }
        ∧ exec .deadlock t = .next t) ∧
    (s.isStalled = false ∨ s.deadlockUs = 0 ∨ s.sync.dlLogged = true → exec .deadlock s = .next s)

/-- periodStart completes: when every command of the last period started has been copied and the period's bell has its
value, the next period starts, and what its drained entries make possible follows; otherwise no period starts.
entryCopy completes: the entry that its queue takes next copies its commands into the ring, in order, while the ring
has room: with one command left and room for it, that command is fetched from the image, stands at the ring's TAIL
with its tag, and counts as copied; with a full ring nothing happens. -/
def Obligations.PeriodsAndEntries : Prop :=
  (∀ s : State,
     let p := s.tut.started + 1
     let bell := ttPer s.ttSect p 6 2
     let ready := (s.tut.phase = 1 ∨ s.tut.phase = 3) ∧ s.tut.st ≠ 0 ∧ s.tut.started ≠ 0 ∧ p ≤ ttPeriods s.ttSect
       ∧ s.perCopied s.tut.started = true ∧ (bell = 0xFFFF ∨ ttPer s.ttSect p 8 4 ≤ s.bell bell)
     (ready → exec .periodStart s = .next (s.startPeriod p).entriesEnded.wake.settle) ∧
     (¬ ready → exec .periodStart s = .next s.wake.settle)) ∧
  (∀ (kind : BitVec 2) (run : BitVec 18) (entry : BitVec 16) (r : EntRun) (s : State),
     s.tut.runs.find? (fun r => r.kind == kind.toNat && r.run == run.toNat && r.entry == entry.toNat) = some r →
     s.nextEntry (s.entQue r) = some r →
     exec (.entryCopy kind run entry) s = .next (copyLoop (s.entLen r - r.copied) s r (s.entQue r)) ∧
     (s.queFull (s.entQue r) = true → exec (.entryCopy kind run entry) s = .next s) ∧
     (s.queFull (s.entQue r) = false → s.entLen r = r.copied + 1 →
       let u := (s.emit (.fetch (s.runType r.kind) (s.entOff r r.copied) 64)).append (s.entQue r) (s.entCmd r r.copied)
         (some ⟨r.kind, r.run, r.entry, r.copied⟩)
       exec (.entryCopy kind run entry) s = .next { u with tut := { u.tut with runs := u.tut.runs.map fun x =>
         if x.kind = r.kind ∧ x.run = r.run ∧ x.entry = r.entry then { x with copied := x.copied + 1 } else x } }))

/-- sweepStart and sweepEnd complete. SWEEP_START once the gate is done, with its clipping bell taken where there is one: of a skipped
step it latches the clipping scale and goes to the digest, taking no epoch; of an applied step, with every record there and no
checkpoint or export running, it takes one epoch from LKR_EPOCH and visits the blocks. SWEEP_END with every block and record
written gives MKR_REC_EPOCH the sweep's epoch and MKR_STEP_DIGEST the step's digest, and goes to the digest. -/
def Obligations.SweepTakesOneEpoch : Prop :=
  (∀ s v : State, s.tut.closing = .clip → s.mkr.gateDone = true →
    (if s.mkClipEn then s.tryWait 1 s.mkClipBell 1 else some s) = some v →
    (s.mkr.skip = true → exec .sweepStart s = .next ({ v.latchClip with
      mkr := { v.latchClip.mkr with phase := 0 }, tut := { v.latchClip.tut with closing := .digest } } : State).settle) ∧
    (s.mkr.skip = false → s.recordsComing = false → s.ckptRuns = false → s.exp = none → (s.reg aLkrEpoch).toNat + 1 < 2 ^ 64 →
      ∃ u : State, exec .sweepStart s = .next (State.sweepLoop 4 u).settle ∧ u.tut.closing = .sweep ∧ u.mkr.phase = 3
        ∧ u.mkr.epoch = (s.reg aLkrEpoch).toNat ∧ u.reg aLkrEpoch = s.reg aLkrEpoch + 1 ∧ u.mkr.wrote = [] ∧ u.t0 = s.t0)) ∧
  (∀ s : State, s.mkr.phase = 4 → s.mkr.recWrites = 0 → Tab.wf s.regs = true →
    ∃ u : State, exec .sweepEnd s = .next u.settle ∧ u.reg aMkrRecEpoch = word s.mkr.epoch
      ∧ u.reg aMkrStepDigest = s.stepDigest ∧ u.mkr.phase = 0 ∧ u.tut.closing = .digest ∧ u.t0 = s.t0 ∧ u.lkrs = s.lkrs)

/-- ttbRun, ttbHalt and ttbNextWrite complete. TTB_CTRL.RUN where it is allowed, with every form at L1 or above, takes the pending
request and starts the term, or first the change to it; with no term to run, or where it is not allowed, as with
a form below L1, it logs TTB_REFUSED. HALT of a RUNNING tutor waits for the closing assembly; otherwise it logs TTB_REFUSED. A
write of TTB_NEXT that names a step that has not passed is stored; otherwise it logs TTB_REFUSED. -/
def Obligations.TimetableControl : Prop :=
  ∀ s : State, s.fullLoading = false →
    (s.runAllowed = true → s.runTerm ≠ 0 → exec .ttbRun s = .next (s.takeRequest.runIn s.runTerm).wake.settle) ∧
    (s.runAllowed = true → s.runTerm = 0 → exec .ttbRun s = .next (s.takeRequest.logEv evTtbRefused 0).wake.settle) ∧
    (s.runAllowed = false →
      exec .ttbRun s = .next (s.logEv evTtbRefused 0).wake.settle) ∧
    (s.tut.st = 1 → exec .ttbHalt s = .next ({ s with tut := { s.tut with haltPending := true } } : State).wake) ∧
    (s.tut.st ≠ 1 → exec .ttbHalt s = .next (s.logEv evTtbRefused 0).wake) ∧
    (∀ v : Word, (fld v 32 32 + 2 ^ 32 - s.stepCtr.toNat) % 2 ^ 32 < 2 ^ 31 → exec (.ttbNextWrite v) s =
      .next (s.setReg aTtbNext (word (at_ 32 (fld v 32 32) + at_ 8 (b2n (fld v 0 8 != 0)) + fld v 0 8))).wake) ∧
    (∀ v : Word, 2 ^ 31 ≤ (fld v 32 32 + 2 ^ 32 - s.stepCtr.toNat) % 2 ^ 32 →
      exec (.ttbNextWrite v) s = .next (s.logEv evTtbRefused 0).wake)

/-- termChange and checkpointEnd complete. TERM_CHANGE, once the timetable has drained: the lockers that do not carry over are
released, homework that no step will join is dropped, the sync unit is reset, the incoming term's limits are
installed, TTB_TERM_CHANGED is logged and counted; the phase ends, and what waits between steps follows. Before that
nothing happens. CHECKPOINT_END of a checkpoint whose contexts have ended: without a destination of its own the checkpoint is
over; with one, the index is written behind the far port, or index and head sent over the connection. -/
def Obligations.TermAndCheckpointEnd : Prop :=
  (∀ s : State, s.tut.phase = 5 → s.drainedAll = true →
    let ls := (s.lkrs.filter fun x => x.2.e.st != lkFree).map Prod.fst
    let v := ls.foldl (fun s' l => s'.changeLkr (s.sect (termSect s.tut.toTerm)) l) s
    let w := ((((v.dropHomework s.tut.toTerm).resetSync.installTerm s.tut.toTerm).logEv evTermChanged 0).incF aTtbCount 32 32 1)
    let u : State := { w with tut := { w.tut with phase := 0 } }
    exec .termChange s = .next (u.applyHeld.goOn.entriesEnded).settle ∧ u.tut.term = s.tut.toTerm ∧ u.tut.termSteps = 0) ∧
  (∀ s : State, s.tut.phase ≠ 5 ∨ s.drainedAll = false → exec .termChange s = .next s.settle) ∧
  (∀ (k : Ckpt) (s : State), s.ckp = some k → s.tut.ckpt = true → k.phase = 0 → k.writes = 0 → s.ckptStreamed = true →
    let idx := gcmSeal k.key s.ckptRecords [] k.indexBytes
    (k.base = none → exec .checkpointEnd s = .next (s.ckptFinish true).settle) ∧
    (∀ w : Word, k.base = some w → sealFab w = false →
      exec .checkpointEnd s = .next (s.sealWrite 1 (recordOff s.ckptRecords) w idx).settle) ∧
    (∀ w : Word, k.base = some w → sealFab w = true →
      exec .checkpointEnd s = .next (s.sealOver w [idx, s.sealHead k.key]).settle))

/-- stagingRunAlloc completes: a run within its piece's blocks and BUCKET_TILES that meets no other run of the step is
made for the step, where there is none, and placed, in T1 first, when there is room, with the results that waited for
it; one beyond the piece or the limit, or that meets another run, is not made. placeTimeout and stageTimeout complete.
PLACE_TIMEOUT of a held OPEN: in a step it is a cause of a common abort, PLN_NO_PLACE; while no timetable runs the
OPEN is no longer held, PLN_NO_PLACE is logged and the queue stops with that code. STAGE_TIMEOUT of a staging run that
waits for room is a cause of a common abort, MKR_NO_STAGE. -/
def Obligations.RoomAndTimeouts : Prop :=
  (∀ (piece : BitVec 18) (block : BitVec 16) (tiles : BitVec 12) (s : State),
     let p := piece.toNat
     let b := block.toNat
     let n := ((List.range (s.pcNm p - b)).find? fun n => decide (tiles.toNat ≤ (s.runTiles p b (n + 1)).length)).getD 0 + 1
     let made := p < s.mkPieces ∧ b < s.pcNm p ∧ tiles.toNat ≤ s.mkBucketTiles ∧ s.runMeets p b n s.stageStep = false
     (¬ made → exec (.stagingRunAlloc piece block tiles) s = .next s.bucketsDue.settle) ∧
     (made →
       let o := s.openRun p b n s.stageStep
       exec (.stagingRunAlloc piece block tiles) s = .next (o.2.placeRun o.1).bucketsDue.settle
         ∧ (∃ r ∈ o.2.mkr.runs, r.id = o.1 ∧ r.piece = p ∧ r.first = b ∧ r.step = s.stageStep))) ∧
  ((∀ (q : BitVec 13) (h : HeldOpen) (s : State), s.pln.held.find? (·.queue == q.toNat) = some h →
     (s.tut.st ≠ 0 → exec (.placeTimeout q) s = .next (s.causeAbort evPlnNoPlace (at_ 18 (cLocker h.cmd))).wake.settle) ∧
     (s.calm → (s.que q.toNat).late = false → Runs (.placeTimeout q) s fun t =>
       (t.que q.toNat).run = .stopped ∧ (t.que q.toNat).code = evPlnNoPlace.code
         ∧ t.pln.held = s.pln.held.filter (·.queue != q.toNat) ∧ t.lkrs = s.lkrs ∧ t.t0 = s.t0)) ∧
   (∀ (piece : BitVec 18) (block : BitVec 16) (r : StageRun) (s : State),
     (s.mkr.runs.find? fun r => r.piece == piece.toNat && r.first == block.toNat && r.place.isNone) = some r →
     exec (.stageTimeout piece block) s = .next (s.causeAbort evNoStage (mkrErr piece.toNat 7 0)).wake.settle))

/-- stmStart completes. STM_CTRL.START of a context that is IDLE or ARMED, with a set-up that START accepts, begins the
pass with the written control fields; one that START does not accept logs STM_ILLEGAL and leaves the context's state;
a LOCKER endpoint whose GEN is stale halts the context with STM_ILLEGAL. START of a RUNNING or HALTED context logs
STM_BUSY and START with ABORT logs STM_ILLEGAL. stream completes: the STREAM command of a queue writes the context's
registers and starts its pass, which the command then owns. A context that is RUNNING or HALTED stops the queue with
STM_BUSY; a set-up that START does not accept, or a stale GEN, stops it with STM_ILLEGAL. -/
def Obligations.StreamStarts : Prop :=
  (∀ (c : BitVec 12) (v : Word) (s : State), s.fullLoading = false → c.toNat < limStreams s.part.set →
     let u := s.modStm c.toNat fun x => { x with ctrl := v &&& stmCtrlMask }
     let x := u.stm c.toNat
     let code (t : State) (e : Ev) : State := (t.logEv e (at_ 32 c.toNat)).modStm c.toNat fun x => { x with code := e.code }
     (bitAt v 1 = true → exec (.stmStart c v) s = .next (code s evStmIllegal).wake) ∧
     (bitAt v 1 = false → x.st = 0 ∨ x.st = 2 → u.startBad x false = false → u.genStale x.src = false → u.dstStale x.dst = false →
       exec (.stmStart c v) s = .next (u.beginPass c.toNat false).stir.wake) ∧
     (bitAt v 1 = false → x.st = 0 ∨ x.st = 2 → u.startBad x false = false → u.genStale x.src = true ∨ u.dstStale x.dst = true →
       let l := epLocker (if u.genStale x.src = true then x.src else x.dst)
       exec (.stmStart c v) s = .next ((((u.logEv evLkrStale (lkrErr l 0 0)).incF aLkrStats 16 16 1).haltCtx c.toNat evStmIllegal 1 0).stir.wake)) ∧
     (bitAt v 1 = false → x.st = 1 ∨ x.st = 3 → exec (.stmStart c v) s = .next (code u evStmBusy).stir.wake) ∧
     (bitAt v 1 = false → x.st = 0 ∨ x.st = 2 → u.startBad x false = true →
       exec (.stmStart c v) s = .next (code u evStmIllegal).stir.wake)) ∧
  (∀ (q : BitVec 13) (cmd : Cmd) (tag : Option EntTag) (s : State), Tab.wf s.stms = true →
     s.issuedTo q.toNat 0x30 = some (cmd, tag) → s.ckptCmd q.toNat = false →
     let c := sCtx cmd
     let r := s.streamRegs cmd
     let u := s.modStm c fun x => { x with ctrl := r.1, index := r.2.1, src := r.2.2.1, dst := r.2.2.2 }
     ((s.stm c).st = 1 ∨ (s.stm c).st = 3 → exec (.stream q) s = .next (((s.logEv evStmBusy (at_ 32 c)).modStm c
       fun x => { x with code := evStmBusy.code }).stopQueue q.toNat evStmBusy.code)) ∧
     ((s.stm c).st ≠ 1 → (s.stm c).st ≠ 3 →
       u.startBad (u.stm c) false = true ∨ u.genStale (u.stm c).src = true ∨ u.dstStale (u.stm c).dst = true →
       exec (.stream q) s = .next ((u.startCtx c false).2.stopQueue q.toNat evStmIllegal.code)) ∧
     ((s.stm c).st ≠ 1 → (s.stm c).st ≠ 3 → u.startBad (u.stm c) false = false → u.genStale (u.stm c).src = false →
       u.dstStale (u.stm c).dst = false → exec (.stream q) s =
         .next (((u.acceptCmd q.toNat false).modStm c fun x => { x with runBy := some q.toNat }).beginPass c false).stir))

/-- streamEntryIssue completes, for a context whose source is no state record: the next index entry of a RUNNING context
with room for it waits for its bell or a held OPEN, halts the context where its bytes hold an uncorrectable error,
ends the list when it is all ones, halts the context with STM_INDEX_RANGE when it lies outside an endpoint, and is
otherwise issued: read from a numbered source, or filled from what the source has supplied. satchelReceive completes.
Of the block's own work it delivers the context's next satchel in index order when that passes its check and halts the
context with STM_SATCHEL_BAD otherwise; with no satchel ready, or a destination that cannot take it, nothing is
delivered. From the chain, a form's word that it has committed a satchel is counted, and its word that one failed
halts the context. stmAbort and streamPassEnd complete. STM_CTRL.ABORT of a context that no command runs makes it IDLE
and stops its work; beyond the set's limit the access is a hole. STREAM_PASS_END ends a pass that is over; of a
context that no command runs, without PERSIST and multicast, it closes the connections and leaves the context IDLE.
While the pass is not over, nothing happens. -/
def Obligations.StreamEntriesAndEnd : Prop :=
  (∀ (c : BitVec 12) (s : State), s.isCkptCtx c.toNat = false →
     let x := s.stm c.toNat
     let e := leNat (s.t0Read (x.addr + 4 * x.issued) 4)
     let src := if x.idxSide = true then x.issued else e
     let dst := if x.idxSide = true then e else x.issued
     let hold := (bitAt x.ctrl 16 = true ∧ s.bell (fld x.ctrl 48 16) < x.issued + 1) ∨ s.dstHeld c.toNat = true
     let room := x.st = 1 ∧ x.issued < x.passEnd ∧ x.ents.length < 16
     let sound := s.t0Bad (x.addr + 4 * x.issued) 4 = false
     let srcOk := x.fed = true ∨ s.itemOk c.toNat x.src false src = true
     let dstOk := s.itemOk c.toNat x.dst true dst = true
     (¬ room → exec (.streamEntryIssue c) s = .next s.stir) ∧
     (room → hold → exec (.streamEntryIssue c) s = .next (s.modStm c.toNat fun x => { x with cause := 5 }).stir) ∧
     (room → ¬ hold → ¬ sound → exec (.streamEntryIssue c) s = .next ((s.logEv evSramUncorrectable 0).haltWith c.toNat
       evSramUncorrectable.code (epKind x.src) x.issued).stir) ∧
     (room → ¬ hold → sound → e = 0xFFFFFFFF → exec (.streamEntryIssue c) s =
       .next (s.modStm c.toNat fun x => { x with stop := some x.issued }).stir) ∧
     (room → ¬ hold → sound → e ≠ 0xFFFFFFFF → ¬ srcOk → exec (.streamEntryIssue c) s =
       .next (s.haltCtx c.toNat evIndexRange (epKind x.src) x.issued).stir) ∧
     (room → ¬ hold → sound → e ≠ 0xFFFFFFFF → srcOk → ¬ dstOk → exec (.streamEntryIssue c) s =
       .next (s.haltCtx c.toNat evIndexRange (epKind x.dst) x.issued).stir) ∧
     (room → ¬ hold → sound → e ≠ 0xFFFFFFFF → srcOk → dstOk →
       let ent (stage : Nat) : SEnt := { i := x.issued, src := src, dst := dst, stage := stage
                                         consuming := (x.bound.map Prod.snd).getD false, sat := [] }
       let u (stage : Nat) : State := s.modStm c.toNat fun x => { x with issued := x.issued + 1, cause := 0, ents := x.ents ++ [ent stage] }
       (x.fed = false → epKind x.src ≤ 3 → exec (.streamEntryIssue c) s = .next ((u 0).readEntry c.toNat (ent 0)).stir) ∧
       (x.fed = true ∨ 3 < epKind x.src → exec (.streamEntryIssue c) s = .next ((u 1).fill c.toNat).stir))) ∧
  (∀ (c : BitVec 12) (s : State),
     (∀ ent : SEnt, s.isCkptCtx c.toNat = false → s.nextReady c.toNat = some ent → satOk ent.sat (s.destFmt c.toNat) = true →
       exec (.satchelReceive (.own c)) s = .next (s.deliver c.toNat ent).stir) ∧
     (∀ ent : SEnt, s.isCkptCtx c.toNat = false → s.nextReady c.toNat = some ent → satOk ent.sat (s.destFmt c.toNat) = false →
       exec (.satchelReceive (.own c)) s =
         .next (s.haltCtx c.toNat evSatchelBad (epKind (s.stm c.toNat).dst) ent.i s.part.form).stir) ∧
     (s.nextReady c.toNat = none → exec (.satchelReceive (.own c)) s = .next s.stir) ∧
     (∀ form : BitVec 3, (s.stm c.toNat).running = true → epKind (s.stm c.toNat).dst = 8 →
       let n := Tab.get s.fab.chainDone (8 * c.toNat + form.toNat)
       exec (.satchelReceive (.committed c form)) s = .next ({ s with fab := { s.fab with
         chainDone := Tab.put s.fab.chainDone (8 * c.toNat + form.toNat) (n + 1) } } : State).stir
       ∧ exec (.satchelReceive (.failed c form)) s = .next (s.haltCtx c.toNat evSatchelBad 8 n form.toNat).stir)) ∧
  (∀ (c : BitVec 12) (s : State), Tab.wf s.stms = true →
     (s.fullLoading = false → c.toNat < limStreams s.part.set → (s.stm c.toNat).runBy = none → (s.stm c.toNat).bound = none →
       exec (.stmAbort c) s = .next (s.idleCtx c.toNat).stir.wake ∧ ((s.idleCtx c.toNat).stm c.toNat).st = 0) ∧
     (s.fullLoading = false → limStreams s.part.set ≤ c.toNat → exec (.stmAbort c) s = .next (s.logEv evHostHole 0).wake) ∧
     (s.passOver c.toNat = true → exec (.streamPassEnd c) s = .next (s.endPass c.toNat).stir) ∧
     (s.passOver c.toNat = true → (s.stm c.toNat).runBy = none → (s.stm c.toNat).bound = none → (s.stm c.toNat).pers = false →
       s.mc c.toNat = none → exec (.streamPassEnd c) s = .next ((s.closeConns c.toNat).modStm c.toNat fun x => { x with
         st := 0, cause := 0, runBy := none, bound := none, fed := false }).stir) ∧
     (s.passOver c.toNat = false → exec (.streamPassEnd c) s = .next s))

/-- START of a courier is refused with CRS_ILLEGAL exactly when SRC, DST or COUNT is no multiple of 8, COUNT is 0, a space is reserved
or the set lacks its port, the courier paces itself, PACE_SRC is reserved, or CIRCULAR goes with a COUNT that is no multiple of
8,192 or with CRC_EN; PACE_CRS counts when PACE_SRC names a courier (log 30). -/
def Obligations.CourierStartChecks : Prop :=
  ∀ (k : Nat) (x : Courier) (s : State), s.crsBad k x = true ↔
    (ceAddr x.src % 8 ≠ 0 ∨ ceAddr x.dst % 8 ≠ 0 ∨ x.cnt % 8 ≠ 0 ∨ x.cnt = 0
      ∨ 2 < ceSpace x.src ∨ 2 < ceSpace x.dst ∨ ((ceSpace x.src = 2 ∨ ceSpace x.dst = 2) ∧ farLanes s.part.set = 0)
      ∨ x.paceSrc = 3 ∨ (x.paceSrc = 2 ∧ x.paceCrs = k) ∨ (x.circular = true ∧ (x.cnt % 8192 ≠ 0 ∨ x.crcEn = true)))

/-- crsStart and courier complete. CRS_START of an IDLE courier with a legal set-up runs it from offset 0 with its CRC and
pacing events cleared; with an illegal one it logs CRS_ILLEGAL; START while it is RUNNING or HALTED logs CRS_BUSY, and
START with another action CRS_ILLEGAL. A COURIER command starts an IDLE courier from its operands and is accepted,
over at once for a circular pass; on a busy courier it stops its queue with CRS_BUSY. crsAbort, crsContinue and
paceTimer complete. CRS_ABORT makes a courier IDLE, at once when the engine does not serve it and else when its burst
ends; the COURIER command that runs it ends first, with CRS_ABORTED. CRS_CONTINUE lets a HALTED one run again. A
pacing event of PACE_TIMER is counted up to 255, and a further one is lost and logs CRS_PACE_OVERRUN. -/
def Obligations.CourierStartAndControl : Prop :=
  ((∀ (k : BitVec 6) (v : Word) (s : State), s.fullLoading = false → k.toNat < limCouriers s.part.set →
     let one := bitAt v 1 = false ∧ bitAt v 2 = false
     let u := s.modCr k.toNat fun x => { x with ctrl := (v ||| 1) &&& crsCtrlMask }
     (one → (s.cr k.toNat).st = 0 → u.crsBad k.toNat (u.cr k.toNat) = false → exec (.crsStart k v) s =
       .next (u.modCr k.toNat fun x => { x with st := 1, bytes := 0, crc := 0, pendingEv := 0, runBy := none }).wake) ∧
     (one → (s.cr k.toNat).st = 0 → u.crsBad k.toNat (u.cr k.toNat) = true →
       exec (.crsStart k v) s = .next (u.crsLog k.toNat evCrsIllegal 0).wake) ∧
     (one → (s.cr k.toNat).st ≠ 0 → exec (.crsStart k v) s = .next (s.crsLog k.toNat evCrsBusy 0).wake) ∧
     (¬ one → exec (.crsStart k v) s = .next (s.crsLog k.toNat evCrsIllegal 0).wake)) ∧
   (∀ (q : BitVec 13) (c : Cmd) (tag : Option EntTag) (s : State), s.issuedTo q.toNat 0x31 = some (c, tag) →
     (s.cr (kCourier c)).runBy ≠ some q.toNat →
     let k := kCourier c
     let u := s.modCr k fun x => { x with
       src := word (kSrc c) &&& ~~~7#64, dst := word (kDst c) &&& ~~~7#64, count := word (kCount c)
       ctrl := word (kCtrl c) &&& crsCtrlMask, pace := word (kPeriod c) }
     ((s.cr k).st = 0 → kSrc c % 8 = 0 → kDst c % 8 = 0 → u.crsBad k (u.cr k) = false →
       let t := u.crsRun k (some q.toNat)
       exec (.courier q) s = .next (t.acceptCmd q.toNat (t.cr k).circular)) ∧
     ((s.cr k).st = 0 → kSrc c % 8 ≠ 0 ∨ kDst c % 8 ≠ 0 ∨ u.crsBad k (u.cr k) = true →
       exec (.courier q) s = .next ((u.crsLog k evCrsIllegal 0).stopQueue q.toNat evCrsIllegal.code)) ∧
     ((s.cr k).st ≠ 0 → exec (.courier q) s = .next ((s.crsLog k evCrsBusy 0).stopQueue q.toNat evCrsBusy.code)))) ∧
  (∀ (k : BitVec 6) (s : State),
     (s.fullLoading = false → k.toNat < limCouriers s.part.set →
       let held := (s.flights.any fun f => (s.cr k.toNat).runBy == some f.queue && cOp f.cmd == 0x31 && kCourier f.cmd == k.toNat) = true
       let w := if held ∧ (s.cr k.toNat).st = 1 then (s.crsLog k.toNat evCrsAborted 0).failCrFlight k.toNat evCrsAborted.code else s
       (w.crsEng.busy = some k.toNat → exec (.crsAbort k) s = .next ({ w with crsEng := { w.crsEng with abortReq := true } } : State).wake) ∧
       (w.crsEng.busy ≠ some k.toNat →
         exec (.crsAbort k) s = .next (w.modCr k.toNat fun x => { x with st := 0, runBy := none }).wake) ∧
       ((s.cr k.toNat).st = 2 → exec (.crsContinue k) s = .next (s.modCr k.toNat fun x => { x with st := 1 }).wake) ∧
       ((s.cr k.toNat).st ≠ 2 → exec (.crsContinue k) s = .next s.wake)) ∧
     ((s.cr k.toNat).paceSrc = 1 → (s.cr k.toNat).st ≠ 0 → (s.cr k.toNat).pendingEv < 255 →
       exec (.paceTimer k) s = .next (s.modCr k.toNat fun x => { x with pendingEv := x.pendingEv + 1 }).wake) ∧
     ((s.cr k.toNat).paceSrc = 1 → (s.cr k.toNat).st ≠ 0 → 255 ≤ (s.cr k.toNat).pendingEv →
       exec (.paceTimer k) s = .next (s.crsLog k.toNat evPaceOverrun csOverrun).wake) ∧
     ((s.cr k.toNat).paceSrc = 1 → (s.cr k.toNat).st = 0 → exec (.paceTimer k) s = .next s.wake) ∧
     ((s.cr k.toNat).paceSrc ≠ 1 → exec (.paceTimer k) s = .next s))

/-- The engine chooses a courier that is ready (started, not halted, and paced if pacing is set) of the highest priority
level that has one, and within the level the first one after the courier last served there, in ascending number,
wrapping; it chooses one whenever one is ready, never pre-empts a burst in service, and remembers whom it served.
courierBurst and courierBurstDone complete. COURIER_BURST grants a burst to the courier whose turn it is: from
cloakroom to cloakroom, in ranges that exist and hold no uncorrectable error, what the burst writes stands at the
destination and the burst is over. COURIER_BURST_DONE of a burst that is over accounts for it, as failed or as done,
and frees the engine; a courier with an ABORT waiting becomes IDLE. A burst that did not fail and is not the last
advances BYTES by its length and sets HALF when it reaches half of COUNT. -/
def Obligations.CourierBursts : Prop :=
  ((∀ x : Courier, x.ready = true ↔ x.st = 1 ∧ (x.paceSrc = 0 ∨ 0 < x.pendingEv)) ∧
   (∀ (k : Nat) (s : State), s.nextCourier = some k →
     let n := limCouriers s.part.set
     let turn (j : Nat) : Nat := (j + n - s.crsEng.from_ (s.cr k).prio % n) % n
     k < n ∧ (s.cr k).ready = true
       ∧ ∀ j, j < n → (s.cr j).ready = true → (s.cr j).prio ≤ (s.cr k).prio ∧ ((s.cr j).prio = (s.cr k).prio → turn k ≤ turn j)) ∧
   (∀ (j : Nat) (s : State), j < limCouriers s.part.set → (s.cr j).ready = true → s.nextCourier ≠ none) ∧
   (∀ s : State, s.crsEng.phase ≠ 0 → exec .courierBurst s = .next s) ∧
   (∀ (k : Nat) (s : State), s.crsEng.phase = 0 → s.nextCourier = some k →
     Runs .courierBurst s fun t => t.crsEng.busy = some k ∧ t.crsEng.from_ (s.cr k).prio = k + 1)) ∧
  ((∀ (k : Nat) (s : State), Tab.wf s.crs = true → s.crsEng.phase = 0 → s.nextCourier = some k →
     let x := s.cr k
     let a := ceAddr x.src + x.bytes
     let da := ceAddr x.dst + x.bytes
     let out := x.outBytes (s.t0Read a x.rdLen)
     ceSpace x.src = 0 → ceSpace x.dst = 0 → s.crsFirstBad 0 false a x.rdLen = none → s.t0FirstBad a x.rdLen = none →
     s.crsFirstBad 0 true da out.length = none →
     Runs .courierBurst s fun t => t.crsEng.busy = some k ∧ t.crsEng.phase = 3 ∧ t.crsEng.fail = s.crsEng.fail
       ∧ t.crsEng.data = s.t0Read a x.rdLen ∧ t.t0 = Tab.putBytes s.t0 da out) ∧
   (∀ (k : Nat) (s : State), s.crsEng.busy = some k → s.crsEng.phase = 3 →
     let idle (t : State) : State := { t with crsEng := { t.crsEng with busy := none, phase := 0, data := [], fail := none, abortReq := false } }
     let v := idle (match s.crsEng.fail with
       | some (space, addr, wr, cause) => s.crsHalt k space addr wr cause
       | none => s.crsAdvance k s.crsEng.data)
     exec .courierBurstDone s = .next (if s.crsEng.abortReq = true then v.modCr k fun x => { x with st := 0, runBy := none } else v)) ∧
   (∀ (k : Nat) (s : State), Tab.wf s.crs = true → s.crsEng.busy = some k → s.crsEng.phase = 3 → s.crsEng.fail = none →
     s.crsEng.abortReq = false → (s.cr k).bytes + 4096 < (s.cr k).cnt →
     Runs .courierBurstDone s fun t => (t.cr k).bytes = (s.cr k).bytes + (s.cr k).burst ∧ (t.cr k).st = (s.cr k).st
       ∧ t.crsEng.busy = none ∧ t.crsEng.phase = 0 ∧ t.t0 = s.t0
       ∧ ((s.cr k).bytes < (s.cr k).cnt / 2 → (s.cr k).cnt / 2 ≤ (s.cr k).bytes + (s.cr k).burst →
           (t.cr k).bits = Nat.lor (s.cr k).bits csHalf)) ∧
   (∀ s : State, s.crsEng.busy = none ∨ s.crsEng.phase ≠ 3 → exec .courierBurstDone s = .next s))

/-- memReadResponse and memWriteComplete complete. A read response answers its outstanding request, poisoned data with
cause 4 and an error with cause 3, and the block goes on. A completed write answers its request; one that failed is
sent again the first time, unless it is a courier's, and else is lost with cause 3. A response for a tag that is not
outstanding frees a tag that awaited a late response. Answering takes exactly that request out of the outstanding
ones. memReadTimeout and memWriteTimeout complete. A read that times out logs MEM_TIMEOUT, its tag stays out of use
until a late response, and its request ends with cause 5; so does a write, which logs MEM_WRITE_FAIL unless it is a
courier's. A timeout for a tag that is not outstanding does nothing. -/
def Obligations.MemoryResponses : Prop :=
  (∀ (port : BitVec 2) (tag : BitVec 10) (s : State),
     (∀ (o : MemOut) (data : Bytes) (poison err : Bool), s.outAt port.toNat tag.toNat false = some o →
       exec (.memReadResponse port tag data poison err) s =
         .next (s.answerReq o (slice data 0 256) (if poison then 4 else if err then 3 else 0)).goOnMem) ∧
     (∀ o : MemOut, s.outAt port.toNat tag.toNat true = some o →
       exec (.memWriteComplete port tag false) s = .next (s.answerReq o [] 0).goOnMem) ∧
     (∀ o : MemOut, s.outAt port.toNat tag.toNat true = some o → o.retried = false → s.courierWrite o = false →
       exec (.memWriteComplete port tag true) s = .next (s.retryWrite o).goOnMem) ∧
     (∀ o : MemOut, s.outAt port.toNat tag.toNat true = some o → o.retried = true ∨ s.courierWrite o = true →
       exec (.memWriteComplete port tag true) s = .next (s.writeLost o 3).goOnMem) ∧
     (∀ (data : Bytes) (poison err : Bool), s.outAt port.toNat tag.toNat false = none →
       exec (.memReadResponse port tag data poison err) s = .next (s.lateAnswer port.toNat tag.toNat)) ∧
     (∀ err : Bool, s.outAt port.toNat tag.toNat true = none →
       exec (.memWriteComplete port tag err) s = .next (s.lateAnswer port.toNat tag.toNat)) ∧
     (∀ o ∈ s.mem.out, (s.dropOut o).mem.out.length + 1 = s.mem.out.length)) ∧
  (∀ (port : BitVec 2) (tag : BitVec 10) (s : State),
     (∀ o : MemOut, s.outAt port.toNat tag.toNat false = some o → exec (.memReadTimeout port tag) s =
       .next ((((s.logEv evMemTimeout 0).noteLate o).answerReq o [] 5).goOnMem.wake)) ∧
     (∀ o : MemOut, s.outAt port.toNat tag.toNat true = some o → (s.noteLate o).courierWrite o = true →
       exec (.memWriteTimeout port tag) s = .next (((s.noteLate o).answerReq o [] 5).goOnMem.wake)) ∧
     (∀ o : MemOut, s.outAt port.toNat tag.toNat true = some o → (s.noteLate o).courierWrite o = false →
       exec (.memWriteTimeout port tag) s = .next ((((s.noteLate o).logEv evMemWriteFail 0).answerReq o [] 5).goOnMem.wake)) ∧
     (s.outAt port.toNat tag.toNat false = none → exec (.memReadTimeout port tag) s = .next s) ∧
     (s.outAt port.toNat tag.toNat true = none → exec (.memWriteTimeout port tag) s = .next s))

/-- The tag of a request sent is the lowest that is neither outstanding at the port nor awaiting a late response. Sending
waiting requests keeps the outstanding tags of every port distinct. -/
def Obligations.OutstandingTags : Prop :=
  (∀ (port : Nat) (s : State),
     (∀ t, s.freeTag port = some t → t < s.tagsOf port ∧ t ∉ s.usedTags port ∧ ∀ u, u < t → u ∈ s.usedTags port) ∧
     ((s.usedTags port).length < s.tagsOf port → ∃ t, s.freeTag port = some t)) ∧
  (∀ s : State, (∀ port, (s.usedTags port).Nodup) → ∀ port, (s.pump.usedTags port).Nodup)

/-- memCreditReturn, farLinkUp and farLinkDown complete. Credits returned at a memory port are added to the port's, and a
far link that comes up is up; each lets waiting requests go. A far link that goes down stops new far requests; a port
without a credit or link takes no request. engineSatchel, engineCredit and engineTimeout complete. A satchel from the
engines uses up a credit granted to its channel and goes to the context that runs on it; one with an error halts that
context, and one for no context is discarded. A returned credit is added. A timeout halts the context that waits to
send on the channel without a credit, else the one that waits for a satchel on it, and else does nothing. -/
def Obligations.CreditsAndChannels : Prop :=
  (∀ (n : BitVec 8) (s : State),
     (exec (.memCreditReturn 0 n) s = .next ({ s with mem := { s.mem with credit0 := s.mem.credit0 + n.toNat } } : State).pump) ∧
     (exec (.memCreditReturn 1 n) s = .next ({ s with mem := { s.mem with credit1 := s.mem.credit1 + n.toNat } } : State).pump) ∧
     exec .farLinkDown s = .next { s with pins := { s.pins with farUp := false } } ∧
     exec .farLinkUp s = .next ({ s with pins := { s.pins with farUp := true } } : State).pump ∧
     (s.mem.wait = [] → s.pump = s) ∧
     (∀ c : Cls, s.pins.farUp = false → s.portOpen 2 c = false) ∧
     (∀ (port : Nat) (c : Cls), port < 2 → s.credits port = 0 → s.portOpen port c = false)) ∧
  (∀ (ch : BitVec 8) (s : State),
     let u : State := { s with eng := { s.eng with granted := Tab.put s.eng.granted ch.toNat (Tab.get s.eng.granted ch.toNat - 1) } }
     let stuck (c : Nat) : Bool := Tab.get s.eng.credit ch.toNat == 0 && (s.stm c).ents.any fun e => e.stage == 2
     let halt (t : State) (c : Nat) : State := (t.haltCtx c evStmBusErr 6 (t.failingEntry c 6)).stir.settle
     (∀ (sat : Bytes) (c : Nat), u.engineSource ch.toNat = some c → exec (.engineSatchel ch sat false) s =
       .next (((u.modStm c fun x => { x with supply := x.supply ++ [sat] }).fill c).stir).settle) ∧
     (∀ (sat : Bytes) (c : Nat), u.engineSource ch.toNat = some c → exec (.engineSatchel ch sat true) s = .next (halt u c)) ∧
     (∀ (sat : Bytes) (err : Bool), u.engineSource ch.toNat = none → exec (.engineSatchel ch sat err) s = .next u.settle) ∧
     (exec (.engineCredit ch) s = .next { s with
       eng := { s.eng with credit := Tab.put s.eng.credit ch.toNat (Tab.get s.eng.credit ch.toNat + 1) } }) ∧
     (∀ c : Nat, s.engineDest ch.toNat = some c → stuck c = true → exec (.engineTimeout ch) s = .next (halt s c)) ∧
     (∀ c : Nat, (∀ d, s.engineDest ch.toNat = some d → stuck d = false) → s.engineSource ch.toNat = some c →
       exec (.engineTimeout ch) s = .next (halt s c)) ∧
     ((∀ d, s.engineDest ch.toNat = some d → stuck d = false) → s.engineSource ch.toNat = none →
       exec (.engineTimeout ch) s = .next s.settle))

/-- hostWrite completes. At the head form, a write with a strobe missing is discarded and logs HOST_PARTIAL_WRITE; a write
beyond the package's forms is discarded and logs HOST_UNMAPPED; one to the head's own window acts on its register; one
to another form's window is forwarded, or, to a unit's window during a full load, discarded and logged. Away from the
head form there is no host control port. tapDbgacc and doorbell complete. TAP_DBGACC captures the data of the previous
read, and zero without any access while TAP_DEBUG is 0; a read of the own form holds its data for the next update, a
write acts on its register, and an address beyond the package's forms logs HOST_UNMAPPED. DOORBELL at the head form
signals a bell by 1, or pushes a queue, of that form; for another form it is forwarded; for a form that the package
lacks it is discarded and logs HOST_UNMAPPED; during a full load it is discarded. -/
def Obligations.HostAndDebugAccess : Prop :=
  (∀ (addr : BitVec 27) (data same : Word) (strb : BitVec 8) (s : State),
     let n := addrForm addr.toNat
     let off := addrOff addr.toNat
     (s.part.form = 0 → strb ≠ 0xFF → exec (.hostWrite addr data strb same) s = .next (s.logEv evHostPartialWrite 0)) ∧
     (s.part.form = 0 → strb = 0xFF → s.forms ≤ n →
       exec (.hostWrite addr data strb same) s = .next (s.logEv evHostUnmapped 0)) ∧
     (s.part.form = 0 → strb = 0xFF → n = 0 →
       exec (.hostWrite addr data strb same) s = .next (s.localWrite off data same)) ∧
     (s.part.form = 0 → strb = 0xFF → n ≠ 0 → n < s.forms → inUnits off = false ∨ s.fullLoading = false →
       exec (.hostWrite addr data strb same) s = .next (s.sendFed n 1 0 addr.toNat data)) ∧
     (s.part.form = 0 → strb = 0xFF → n ≠ 0 → n < s.forms → inUnits off = true → s.fullLoading = true →
       exec (.hostWrite addr data strb same) s = .next (s.logEv evHostAccessViolation 0)) ∧
     (s.part.form ≠ 0 → exec (.hostWrite addr data strb same) s = .next s)) ∧
  ((∀ (wr : Bool) (addr : BitVec 31) (data same : Word) (s : State), s.tapDebug = false →
     exec (.tapDbgacc wr addr ⟨data, same⟩) s = .next { s with out := s.out ++ [.tapCapture 0] }) ∧
   (∀ (wr : Bool) (addr : BitVec 31) (data same : Word) (s : State), s.tapDebug = true →
     let u : State := { s with out := s.out ++ [.tapCapture s.tap] }
     let off := addrOff addr.toNat
     (addrForm addr.toNat = s.part.form → addrForm addr.toNat < s.forms → exec (.tapDbgacc wr addr ⟨data, same⟩) s =
       .next (if wr = true then u.localWrite off data same else { (u.regRead off).2 with tap := (u.regRead off).1 })) ∧
     (s.forms ≤ addrForm addr.toNat → exec (.tapDbgacc wr addr ⟨data, same⟩) s =
       .next (if wr = true then u.logEv evHostUnmapped 0 else { u.logEv evHostUnmapped 0 with tap := 0 }))) ∧
   (∀ (kind : BitVec 1) (form : BitVec 3) (index : BitVec 16) (s : State), s.part.form = 0 →
     (s.fullLoading = false → form = 0 → kind = 1 → index.toNat < limBells s.part.set →
       exec (.doorbell form kind index) s = .next (s.signalAll [(index.toNat, 1)])) ∧
     (s.fullLoading = false → form = 0 → kind = 0 →
       exec (.doorbell form kind index) s = .next (s.push (index.toNat % 8192))) ∧
     (s.fullLoading = false → form ≠ 0 → form.toNat < s.forms → exec (.doorbell form kind index) s =
       .next (s.sendFed form.toNat 3 0 (bellFields form.toNat kind.toNat index.toNat) 0)) ∧
     (s.fullLoading = true → form.toNat < s.forms →
       exec (.doorbell form kind index) s = .next (s.logEv evHostAccessViolation 0)) ∧
     (s.forms ≤ form.toNat → exec (.doorbell form kind index) s = .next (s.logEv evHostUnmapped 0))) ∧
   (∀ (kind : BitVec 1) (form : BitVec 3) (index : BitVec 16) (s : State), s.part.form ≠ 0 →
     exec (.doorbell form kind index) s = .next s))

/-- A logged event: the next entry of the error log holds the hall clock, the code, the form and the unit, the log's pointer advances
modulo 256, ERR_FIRST takes the entry when it is armed and is then no longer armed, and nothing but registers changes. -/
def Obligations.LoggedEventSetsBitAndEntry : Prop :=
  ∀ (e : Ev) (low a : Nat) (s : State), Tab.wf s.regs = true → errAddr e.unit = some a → e.code < 2 ^ 16 → s.part.form < 8 → e.unit < 32 →
    let t := s.logEv e low
    let nx := s.regF aErrLogPtr 0 8
    s.sameButLog t
      ∧ t.reg (aErrLog + 16 * nx) = word (at_ 32 (s.hall.toNat % 2 ^ 32) + at_ 16 e.code + at_ 13 s.part.form + at_ 8 e.unit)
      ∧ t.regF aErrLogPtr 0 8 = (nx + 1) % 256
      ∧ t.err.armed = false
      ∧ (s.err.armed = true → t.reg aErrFirstA =
          word (at_ 32 (s.hall.toNat % 2 ^ 32) + at_ 16 e.code + at_ 13 s.part.form + at_ 8 e.unit))
      ∧ (s.err.armed = false → t.reg aErrFirstA = s.reg aErrFirstA)

/-- pcsAlign, pcsAlignLoss and ucieLinkTrained complete. A fabric port that aligns is aligned, and one that is DOWN, live
and not held back enters HELLO. Loss of alignment takes the alignment away, and a port in HELLO or beyond, but a
DETAINED one, goes DOWN with cause 1. A federation link has no PCS; one that is live and DOWN enters KEYING when it
trains. ucieLinkDown completes: a trained link goes DOWN, which is a cause of a common abort; a link that is not
trained stays as it is. fiReorderTimeout, violWindow and fabRelease complete. The reorder fault lets the held frames
go, in their order; a window boundary empties the port's window of violations; FAB_CTRL.RELEASE lets a DETAINED live
fabric port go DOWN, and leaves any other port as it is. -/
def Obligations.PortStates : Prop :=
  (∀ (p : BitVec 3) (s : State),
     (p.toNat < 2 → s.portLive p.toNat = true → (s.flink p.toNat).st = lsDown → s.heldDown p.toNat = false →
       (s.flink p.toNat).retryWait = false →
       Runs (.pcsAlign p) s fun t => (t.flink p.toNat).st = lsHello ∧ (t.flink p.toNat).aligned = true
         ∧ t = { s with fab := { s.fab with links := t.fab.links } }) ∧
     (p.toNat < 2 → ¬ (s.portLive p.toNat = true ∧ (s.flink p.toNat).st = lsDown ∧ s.heldDown p.toNat = false
         ∧ (s.flink p.toNat).retryWait = false) →
       exec (.pcsAlign p) s = .next (s.modFlink p.toNat fun l => { l with aligned := true })) ∧
     (p.toNat < 2 → (s.flink p.toNat).st ≤ lsDown ∨ (s.flink p.toNat).st = lsDetained → exec (.pcsAlignLoss p) s =
       .next (s.modFlink p.toNat fun l => { l with aligned := false })) ∧
     (p.toNat < 2 → lsDown < (s.flink p.toNat).st → (s.flink p.toNat).st ≠ lsDetained → exec (.pcsAlignLoss p) s =
       .next ((s.modFlink p.toNat fun l => { l with aligned := false }).portDown p.toNat 1)) ∧
     (2 ≤ p.toNat → exec (.pcsAlign p) s = .next s ∧ exec (.pcsAlignLoss p) s = .next s) ∧
     (∀ l : BitVec 2, s.portLive (2 + l.toNat) = true → (s.flink (2 + l.toNat)).st ≤ lsDown →
       Runs (.ucieLinkTrained l) s fun t => (t.flink (2 + l.toNat)).st = lsKeying ∧ (t.flink (2 + l.toNat)).aligned = true
         ∧ t = { s with fab := { s.fab with links := t.fab.links } }) ∧
     (∀ l : BitVec 2, s.portLive (2 + l.toNat) = false ∨ lsDown < (s.flink (2 + l.toNat)).st →
       exec (.ucieLinkTrained l) s = .next s)) ∧
  (∀ (l : BitVec 2) (s : State),
     ((s.flink (2 + l.toNat)).aligned = false → exec (.ucieLinkDown l) s = .next s) ∧
     ((s.flink (2 + l.toNat)).aligned = true → exec (.ucieLinkDown l) s = .next
       (((s.afterPort ((s.leaveUp (2 + l.toNat) lsDown 0).modFlink (2 + l.toNat) fun x => { x with aligned := false })
         (2 + l.toNat)).causeAbort evCeMemberLost 0).settle))) ∧
  (∀ (p : BitVec 3) (s : State),
     (∀ (f : Bytes) (fs : List Bytes), (s.flink p.toNat).held = f :: fs → exec (.fiReorderTimeout p) s =
       .next ((fs.foldl (fun t f => { t with out := t.out ++ [.frame p.toNat f] })
         ({ s with out := s.out ++ [.frame p.toNat f] } : State)).modFlink p.toNat fun l => { l with held := [] })) ∧
     ((s.flink p.toNat).held = [] → exec (.fiReorderTimeout p) s = .next s) ∧
     (exec (.violWindow p) s = .next ((if 2 ≤ p.toNat then s else s.setF (aFabViol + 8 * p.toNat) 16 16 0).modFlink p.toNat
       fun l => { l with window := 0 })) ∧
     (s.fullLoading = false → p.toNat < 2 → s.portLive p.toNat = true → (s.flink p.toNat).st = lsDetained →
       exec (.fabRelease p) s =
         .next ((s.setF (aFabViol + 8 * p.toNat) 16 16 0).modFlink p.toNat fun l => { l with st := lsDown, window := 0 })) ∧
     (s.fullLoading = false → 2 ≤ p.toNat ∨ s.portLive p.toNat = false ∨ (s.flink p.toNat).st ≠ lsDetained →
       exec (.fabRelease p) s = .next s))

/-- helloTimer, offerTimer, rosterRetry, keyRenewal and linkAckTimer complete. HELLO is sent in HELLO; the OFFER, made
where there is none, while the partner's is missing in KEYING or in a renewal; an OFFER of the other key index when a
counter of an UP link reaches 2^47 with no renewal under way; a LINK frame on a link that is UP; a live port whose
roster check failed keys again after its second. Otherwise each does nothing. keyExhausted, linkFrameTimeout and
replayTimeout complete. A link that is UP goes DOWN when its key counters are exhausted (cause 5) and when no LINK
frame has come (cause 2); a replay timeout sends every frame that is not acknowledged again, and takes the link DOWN
(cause 3) at the last replay. Otherwise each does nothing. -/
def Obligations.LinkTimersAndFailures : Prop :=
  (∀ (p : BitVec 3) (s : State),
     let l := s.flink p.toNat
     let offers := (l.st = lsKeying ∨ (l.st = lsUp ∧ l.renewing = true)) ∧ l.offerIn = none
     let renews := l.st = lsUp ∧ l.renewing = false ∧ (2 ^ 47 ≤ l.txLsn ∨ 2 ^ 47 ≤ l.rxLsn ∨ 2 ^ 47 ≤ l.txLink ∨ 2 ^ 47 ≤ l.rxLink)
     let again := l.retryWait = true ∧ l.st ≤ lsDown ∧ s.portLive p.toNat = true
     let made := s.makeOffer p.toNat l.index
     let new := (s.makeOffer p.toNat (1 - l.txIndex)).modFlink p.toNat fun l => { l with renewing := true, offerIn := none }
     (l.st = lsHello → exec (.helloTimer p) s =
       .next (s.sendPlain p.toNat tHello (List.replicate 6 0) (s.helloPay p.toNat l.helloIn.isSome))) ∧
     (l.st ≠ lsHello → exec (.helloTimer p) s = .next s) ∧
     (offers → l.offer.isSome = true → exec (.offerTimer p) s = .next (s.sendPlain p.toNat tKey l.partnerSA (l.offer.getD []))) ∧
     (offers → l.offer = none → exec (.offerTimer p) s =
       .next (made.sendPlain p.toNat tKey l.partnerSA ((made.flink p.toNat).offer.getD []))) ∧
     (¬ offers → exec (.offerTimer p) s = .next s) ∧
     (again → exec (.rosterRetry p) s =
       .next (s.modFlink p.toNat fun l => { l with retryWait := false, st := if 2 ≤ p.toNat then lsKeying else lsHello })) ∧
     (¬ again → exec (.rosterRetry p) s = .next s) ∧
     (renews → exec (.keyRenewal p) s = .next (new.sendPlain p.toNat tKey l.partnerSA ((new.flink p.toNat).offer.getD []))) ∧
     (¬ renews → exec (.keyRenewal p) s = .next s) ∧
     (s.isUp p.toNat = true → exec (.linkAckTimer p) s = .next (s.sendLink p.toNat)) ∧
     (s.isUp p.toNat = false → exec (.linkAckTimer p) s = .next s)) ∧
  (∀ (p : BitVec 3) (s : State),
     (s.isUp p.toNat = true → (s.flink p.toNat).exhausted = true → exec (.keyExhausted p) s = .next (s.portDown p.toNat 5)) ∧
     (s.isUp p.toNat = false ∨ (s.flink p.toNat).exhausted = false → exec (.keyExhausted p) s = .next s) ∧
     (s.isUp p.toNat = true → exec (.linkFrameTimeout p) s = .next (s.portDown p.toNat 2)) ∧
     (s.isUp p.toNat = false → exec (.linkFrameTimeout p) s = .next s) ∧
     (s.isUp p.toNat = true → (s.flink p.toNat).replay ≠ [] → exec (.replayTimeout p) s =
       .next (if (s.replayFrom p.toNat 0).2 then (s.replayFrom p.toNat 0).1.portDown p.toNat 3 else (s.replayFrom p.toNat 0).1)) ∧
     (s.isUp p.toNat = false ∨ (s.flink p.toNat).replay = [] → exec (.replayTimeout p) s = .next s))

/-- frameSend completes. An UP link takes the frame that the deficit round robin gives, protects it under the next LSN, and keeps it for
replay: the link's next LSN advances by one. With nothing that may go, or no room for the replay, no frame is sent. -/
def Obligations.FrameSendTakesNextLsn : Prop :=
  ∀ (p : BitVec 3) (s : State),
    let l := s.flink p.toNat
    (l.st ≠ lsUp → exec (.frameSend p) s = .next s) ∧
    (l.st = lsUp → drr s p.toNat 4096 l = none → exec (.frameSend p) s =
      .next (s.setFlink p.toNat { l with deficit := l.deficit.zipIdx.map fun d => if (l.headOf d.2).isSome then d.1 else 0 })) ∧
    (∀ (f : QFrame) (l' : FLink), l.st = lsUp → drr s p.toNat 4096 l = some (f, l') →
      let bytes := s.protect p.toNat { WHdr.read f.head with lsn := l.txLsn, key := l.txIndex } f.pay
      replayRoom p.toNat l bytes.length = true →
      exec (.frameSend p) s = .next ((s.setFlink p.toNat { l' with
        txLsn := l.txLsn + 1
        sent := l'.sent.set f.vc ((l'.sent.getD f.vc 0 + cellsOf f.pay.length) % 2 ^ 32)
        replay := l'.replay ++ [{ lsn := l.txLsn, bytes := bytes, tries := 1, pay := f.pay }] }).transmit p.toNat l.txLsn 0 f.pay.length
          bytes)) ∧
    (∀ (f : QFrame) (l' : FLink), l.st = lsUp → drr s p.toNat 4096 l = some (f, l') →
      replayRoom p.toNat l (s.protect p.toNat { WHdr.read f.head with lsn := l.txLsn, key := l.txIndex } f.pay).length = false →
      exec (.frameSend p) s = .next s)

/-- hello, key, link, data, stateFetch, mack, detach, repairReq and fedHost complete: a received frame that passes the
checks of R287 is given to the rules of its type, the form wakes, and what the frame has made possible follows; a port
that leaves UP takes its collectives with it. A frame that the checks drop has no other effect than theirs.
mcastDetach completes. Of a sender whose window is shut and whose next satchel is at hand, every attached child that
blocks is detached, told, logged and counted; a context without a multicast pass, with an open window or with no
satchel at hand detaches none. -/
def Obligations.FrameTypes : Prop :=
  (∀ (p : BitVec 3) (fr : Bytes) (bad : Bool) (same : Word) (s : State),
     (∀ (h : WHdr) (pay : Bytes) (u : State), s.receive p.toNat fr bad = .got h pay u →
       let fin (t : State) : State := (s.afterPort t.wake p.toNat).settle
       (h.typ = tHello → exec (.hello p fr bad) s = .next (fin (u.helloIn p.toNat (slice fr 6 6) pay))) ∧
       (h.typ = tKey → exec (.key p fr bad) s = .next (fin (u.keyIn p.toNat pay))) ∧
       (h.typ = tLink → exec (.link p fr bad) s = .next (fin (if (u.applyLink p.toNat pay).2
         then (u.applyLink p.toNat pay).1.leaveUp p.toNat lsDown 3 else (u.applyLink p.toNat pay).1.bucketsDone))) ∧
       (h.typ = tData → h.ep ≠ 0xE400 → exec (.data p fr bad) s = .next (fin (s.dataIn p.toNat h pay u))) ∧
       (h.typ = tData → h.ep = 0xE400 → u.serviceLevel ≠ 0 → exec (.stateFetch p fr bad) s = .next (fin (u.fetchIn p.toNat h pay))) ∧
       (h.typ = tMack → exec (.mack p fr bad) s = .next (fin (u.mackIn p.toNat h pay))) ∧
       (h.typ = tDetach → exec (.detach p fr bad) s = .next (fin (u.detachIn p.toNat h pay))) ∧
       (h.typ = tRepair → exec (.repairReq p fr bad) s = .next (fin (u.repairIn p.toNat h pay))) ∧
       (h.typ = tFed → exec (.fedHost p ⟨fr, same⟩ bad) s = .next (fin (u.fedIn p.toNat h pay same)))) ∧
     (∀ u : State, s.receive p.toNat fr bad = .drop u → ∃ t : State, (t = (s.afterPort u p.toNat).settle ∨ t = (s.afterPort u.wake p.toNat).settle) ∧
       exec (.hello p fr bad) s = .next t ∧ exec (.key p fr bad) s = .next t ∧ exec (.link p fr bad) s = .next t
       ∧ exec (.data p fr bad) s = .next t ∧ exec (.mack p fr bad) s = .next t)) ∧
  (∀ (c : BitVec 12) (s : State),
     (s.mc c.toNat = none → exec (.mcastDetach c) s = .next s.wake.settle) ∧
     (∀ m : Mcast, s.mc c.toNat = some m → m.window = true ∨ s.treeReady c.toNat = false →
       exec (.mcastDetach c) s = .next s.wake.settle) ∧
     (∀ m : Mcast, s.mc c.toNat = some m → m.window = false → s.treeReady c.toNat = true →
       let stuck (x : McChild) : Bool := x.attached && decide (x.acked + 8 ≤ m.issued)
       let cut (x : McChild) : McChild := if stuck x then { x with attached := false } else x
       let u := (m.children.filter stuck).foldl (fun t x =>
         ((t.logEv evMcastDetach (fabErr 0 0 x.coord m.group)).incF aFabMcast 32 32 1).sendLossy tDetach 0 x.coord m.form (0xE000 + m.group)
           (mcastPay m.group x.sent)) s
       exec (.mcastDetach c) s = .next (State.relayLoop 16 (u.setMc c.toNat { m with children := m.children.map cut }) c.toNat).wake.settle))

/-- rollcall and bucket complete. With a group, operands and sources that pass, and room for one more collective or the key in progress
already, the command is accepted and its contribution enters the combining tree; with no room it stays at the head of its queue.
A command whose group is refused stops its queue with RCL_ILLEGAL or RCL_NOT_MEMBER, one with illegal operands with
RCL_ILLEGAL, and where no timetable runs leaves every bell, assembly, result slot and the cloakroom as it was. -/
def Obligations.CollectivesStartOrRefuse : Prop :=
  ∀ (q : BitVec 13) (c : Cmd) (tag : Option EntTag) (s : State),
    let root := (s.coordOfNode (bRoot c)).getD 0
    (s.issuedTo q.toNat 0x40 = some (c, tag) → s.groupRefusal c = none → s.rollIllegal c = false →
      s.t0Bad (s.t0Scratch + rSrc c) 64 = false →
      (s.rollsFull c = false → exec (.rollcall q) s = .next ((s.acceptCmd q.toNat false).startRoll (some q.toNat) c
        ((List.range 8).map fun i => word (leAt (s.t0Read (s.t0Scratch + rSrc c) 64) (8 * i) 8))).settle) ∧
      (s.rollsFull c = true → exec (.rollcall q) s = .next s.settle)) ∧
    (s.issuedTo q.toNat 0x41 = some (c, tag) → s.groupRefusal c = none → s.bucketIllegal c = false →
      (bSrcT1 c = true ∨ s.t0Bad (s.t0Staging + bSrcAddr c) (4 * bCount c) = false) →
      (s.collsOf true < 64 ∨ s.keyHeld c root (bRootForm c) = true →
        exec (.bucket q) s = .next ((s.acceptCmd q.toNat false).startBucket q.toNat c root).settle) ∧
      (64 ≤ s.collsOf true → s.keyHeld c root (bRootForm c) = false → exec (.bucket q) s = .next s.settle)) ∧
    (∀ (e : Ev) (row : Sys2Proof.Instr),
      (row = .rollcall q ∧ s.issuedTo q.toNat 0x40 = some (c, tag)
          ∧ (s.groupRefusal c = some e ∨ (s.groupRefusal c = none ∧ s.rollIllegal c = true ∧ e = evRclIllegal))) ∨
        (row = .bucket q ∧ s.issuedTo q.toNat 0x41 = some (c, tag)
          ∧ (s.groupRefusal c = some e ∨ (s.groupRefusal c = none ∧ s.bucketIllegal c = true ∧ e = evRclIllegal))) →
      exec row s = .next (s.refuseColl q.toNat e c).settle ∧
      (s.calm → (s.que q.toNat).late = false → Runs row s fun t => (t.que q.toNat).run = .stopped
        ∧ (t.que q.toNat).code = e.code ∧ t.bells = s.bells ∧ t.asms = s.asms ∧ t.slots = s.slots ∧ t.t0 = s.t0))

/-- The combined slots of a roll call: a slot that the operations leave unused is 0; an added slot is the sum of the contributions
modulo 2^64; the order of the contributions does not matter for a sum. -/
def Obligations.RollCallAddsSlots : Prop :=
  ∀ (ops i : Nat) (parts : List (Nat × List Word)), i < 8 → (∀ p ∈ parts, p.2.length = 8) →
    (slotCode ops i = 0 → (combineAll ops parts).getD i 0 = 0) ∧
    (slotCode ops i = 1 → (combineAll ops parts).getD i 0 = (parts.map fun p => p.2.getD i 0).sum)

/-- rcExch, rcUp, rcDown, redUp, redDown, notice and abort complete: a frame of a collective that passes the link's checks and those of
its row, for a group with members and with a combining state for it, is given to the rule of its type once its cells are freed;
one that fails the row's checks is refused with the reason of the violation. -/
def Obligations.CollectiveFramesAct : Prop :=
  ∀ (p : BitVec 3) (fr : Bytes) (bad : Bool) (h : WHdr) (pay : Bytes) (s u : State),
    s.receive p.toNat fr bad = .got h pay u →
    let c := CHdr.read pay
    let k : CKey := (c.root, c.rform, h.ep - 0xF000, c.seq)
    let v := u.consumed p.toNat h
    let fin (t : State) : State := (s.afterPort t.wake p.toNat).settle
    let acts (t : State) (row : Sys2Proof.Instr) : Prop :=
      (u.collBad h c pay = none → (u.collMembers k.2.2.1).isEmpty = false → u.noState h c k = false → exec row s = .next (fin t)) ∧
      (∀ r : Nat, u.collBad h c pay = some r → exec row s = .next (fin (u.refuseFrame p.toNat r h)))
    (h.typ = tRcExch → acts (v.rcExch h c k pay) (.rcExch p fr bad)) ∧
    (h.typ = tRcUp → acts (v.rcUp h c k pay) (.rcUp p fr bad)) ∧
    (h.typ = tRcDown → acts (v.rcDown c k pay) (.rcDown p fr bad)) ∧
    (h.typ = tRedUp → acts (v.redUp h c k pay) (.redUp p fr bad)) ∧
    (h.typ = tRedDown → acts (v.redDown h c k pay) (.redDown p fr bad)) ∧
    (h.typ = tNotice → acts (v.noticeIn h c k pay) (.notice p fr bad)) ∧
    (h.typ = tAbort → acts (v.abortFrame h c k pay) (.abort p fr bad))

/-- collectiveTimeout, collectiveLostTimeout and bucketDeadline complete. TIMEOUT_US after the issue of a collective that has not told
so yet ends it with CE_TIMEOUT below level 3, and at level 3 is told to the root, which aborts it. 2 x TIMEOUT_US after its issue
a collective without a result ends with CE_MEMBER_LOST. The deadline of a bucket closes the tray level at the head form of its leader:
the tray's packages that have not been admitted are excluded and told, and what is then whole goes up. For a collective that is
not under way each does nothing of its own. -/
def Obligations.CollectiveTimersEnd : Prop :=
  ∀ (g : BitVec 12) (q : BitVec 32) (s : State),
    let mine (c : Coll) : Bool := c.issued && c.group == g.toNat && c.seq == q.toNat
    let rec_ (e : Ev) : AbortRec := { code := e.code, off := s.draw16.1, form := 0, switch := false, det := s.ownCoord }
    let d : State := s.draw16.2
    (∀ c : Coll, (s.rcl.colls.find? fun c => mine c && !c.timerSent) = some c →
      (s.level ≠ 3 → exec (.collectiveTimeout g q) s = .next (d.collAborted c (rec_ evCeTimeout) false).wake.settle) ∧
      (s.level = 3 →
        let u := d.modColl c.key fun c => { c with timerSent := true }
        exec (.collectiveTimeout g q) s = .next (if u.isRootHead c.key then u.rootAbort c.key c.sig (rec_ evCeTimeout)
          else u.sendColl c tNotice c.root 0 (default : CHdr) (leBytes 1 2 ++ leBytes 7 0)).wake.settle)) ∧
    (∀ c : Coll, (s.rcl.colls.find? fun c => mine c && !c.noticed && !c.written) = some c →
      exec (.collectiveLostTimeout g q) s = .next (d.collAborted c (rec_ evCeMemberLost) false).wake.settle) ∧
    (∀ c : Coll, (s.rcl.colls.find? fun c => c.bucket && c.issued && c.group == g.toNat && c.seq == q.toNat
        && bDeadline c.cmd != 0 && (c.lev 1).started && !(c.lev 1).closed
        && trayLeader (s.collMembers c.group) c.root s.ownCoord == s.ownCoord) = some c → s.head = true →
      let gone := ((s.collMembers c.group).filter fun x => x / 8 == s.ownCoord / 8).filter fun d => !(c.lev 1).admitted.contains (d % 8)
      let u := s.modColl c.key fun c' => c'.setLev { c.lev 1 with closed := true, excluded := gone.map (· % 8) }
      let n := ({ u with mkr := { u.mkr with gate2 := u.mkr.gate2 + 1 } } : State).incF aRclLate 48 16 1
      (gone = [] → exec (.bucketDeadline g q) s = .next u.wake.settle) ∧
      (gone ≠ [] → exec (.bucketDeadline g q) s = .next ((gone.foldl (fun t d =>
        if d = s.ownCoord then t.lateNotice c.key c.sig
        else t.sendColl c tNotice d 0 (default : CHdr) (leBytes 1 1 ++ leBytes 7 0)) n).chunksUp c.key 1).wake.settle)) ∧
    ((∀ c ∈ s.rcl.colls, mine c = false) → exec (.collectiveTimeout g q) s = .next s.wake.settle
      ∧ exec (.collectiveLostTimeout g q) s = .next s.wake.settle ∧ exec (.bucketDeadline g q) s = .next s.wake.settle)

/-- recoverySourceDone completes. What the attempt of a recovery returned ends a stopped recovery, is given to a repair's
fetch when the source is one, is delivered to every waiter when it is a fit tile, and else the next source is tried.
An attempt that has not ended, and a recovery that is unknown, has no source or is being written back, does nothing by
itself. scrubRead completes. The scrub's read of a word of the cloakroom: two or more bits in error are counted in
ERR_SRAM, logged as SRAM_UNCORRECTABLE and leave the word unreadable; one bit is counted as corrected; no error, a
period of 0 or a word beyond the cloakroom changes nothing. The bytes stay. Any other read of an array that finds one
bit in error has it counted as corrected too, and one that finds more loses the word to what holds it. Word from
another form that it has lost control state is kept, and RUN is no longer allowed (R351). -/
def Obligations.RecoveryAndScrub : Prop :=
  (∀ (i : BitVec 16) (ok : Bool) (tile : Bytes) (s : State),
     (s.recovery i.toNat = none → exec (.recoverySourceDone i ok tile) s = .next s.stir.settle) ∧
     (∀ r : Recovery, s.recovery i.toNat = some r → r.source = 0 ∨ r.writing = true →
       exec (.recoverySourceDone i ok tile) s = .next s.stir.settle) ∧
     (∀ (r : Recovery) (u : State), s.recovery i.toNat = some r → r.source ≠ 0 → r.writing = false →
       s.sourceResult r ok tile = (none, u) → exec (.recoverySourceDone i ok tile) s = .next u.stir.settle) ∧
     (∀ (r : Recovery) (g : TileGot) (u : State), s.recovery i.toNat = some r → r.source ≠ 0 → r.writing = false →
       s.sourceResult r ok tile = (some g, u) →
       let fin (t : State) : Prop := exec (.recoverySourceDone i ok tile) s = .next t.stir.settle
       (r.stopped = true → fin (match r.rd.tile with
         | .locker l _ => (u.dropRecov r.id).settleLkr l
         | _ => u.dropRecov r.id)) ∧
       (r.stopped = false → r.source = 6 → fin (u.repairFetched r g)) ∧
       (r.stopped = false → r.source ≠ 6 → State.recovFits r.rd g = true → fin (u.recovered r g)) ∧
       (r.stopped = false → r.source ≠ 6 → State.recovFits r.rd g = false → fin (u.nextSource r)))) ∧
  (∀ (w : BitVec 24) (bits : BitVec 2) (s : State),
     (s.reg aErrScrub = 0 ∨ bits = 0 ∨ cloakMiB s.part.set * 131072 ≤ w.toNat → exec (.scrubRead (.scrub w) bits) s = .next s) ∧
     (s.reg aErrScrub ≠ 0 → w.toNat < cloakMiB s.part.set * 131072 → 2 ≤ bits.toNat →
       exec (.scrubRead (.scrub w) bits) s = .next
         ((({ s with t0Poison := Tab.put s.t0Poison w.toNat true } : State).incF aErrSram 0 32 1).logEv evSramUncorrectable 0)) ∧
     (s.reg aErrScrub ≠ 0 → w.toNat < cloakMiB s.part.set * 131072 → bits = 1 →
       Runs (.scrubRead (.scrub w) bits) s fun t => t = s.scrubCorrected (s.bankOf (8 * w.toNat))
         ∧ t = { s with regs := t.regs, err := t.err } ∧ t.t0 = s.t0 ∧ t.t0Poison = s.t0Poison) ∧
     (∀ a : Sys2Proof.SramAt, bits ≠ 0 → a ≠ .peer → (∀ v, a ≠ .scrub v) → (∀ v, a = .cloak v → v.toNat < cloakMiB s.part.set * 131072) →
       (bits = 1 → exec (.scrubRead a bits) s = .next (s.scrubCorrected (s.sramGroup a)).settle) ∧
       (bits ≠ 1 → exec (.scrubRead a bits) s = .next (s.sramLost a).settle)) ∧
     (2 ≤ bits.toNat → let u : State := { s with err := { s.err with peerLow := true } }
       exec (.scrubRead .peer bits) s = .next u.settle ∧ u.runAllowed = false))

/-- swAbort, rearmFirst and abortConfirmTimeout complete. ERR_CTRL.ABORT with no step running is ignored; while one runs it logs SW_ABORT
and starts the common abort. ERR_CTRL.REARM_FIRST arms ERR_FIRST. The confirm timeout of a provisional abort leaves its record as it is. -/
def Obligations.SoftwareAbortAndRearm : Prop :=
  ∀ s : State,
    (s.tut.st = 0 → s.err.due = none → exec .swAbort s = .next s) ∧
    (s.tut.st ≠ 0 → s.err.due = none → exec .swAbort s = .next ((s.logEv evSwAbort 0).startAbort evSwAbort.code)) ∧
    exec .rearmFirst s = .next { s with err := { s.err with armed := true } } ∧
    exec .abortConfirmTimeout s = .next s.wake

/-- getVersion, getCapabilities, negotiateAlgorithms, getDigests, getCertificate, challenge and getMeasurements complete.
At a head form, a request of the row's code that is not refused is answered in the mailbox, and nothing but registers,
the security unit and the count of free values changes. GET_VERSION opens the negotiation anew, NEGOTIATE_ALGORITHMS
closes it, and the other four are answered by their own rules once it is closed, and by an ERROR before. At another
form, or for a message of another code, nothing happens. setCertificate, keyExchange, finish and endSession complete,
at a head form, for a request that is not refused and comes once the negotiation is closed. SET_CERTIFICATE stores the
chain whose leaf key is the package identity key and whose root key hashes to ROOT_HASH, and no other. KEY_EXCHANGE
with a chain starts a session that is not up, and without one is answered with an ERROR. FINISH brings the session up
when the requester's data authenticates. END_SESSION of a session ends it. unsupportedRequest completes. A request
that the responder refuses, at the head form, is answered with an ERROR of four bytes that names the reason, and every
other piece of the security unit's state stays; at another form, or for a request that is supported, nothing happens. -/
def Obligations.SpdmResponder : Prop :=
  ((∀ (msg : Bytes) (s : State), s.head = true → s.spdmRefused msg = none →
     let rq := spdmAt msg 1 1
     let row (r : Sys2Proof.Instr) (t : State) : Prop := exec r s = .next t ∧ s.sameButMbox t
     (rq = rqGetVersion → row (.getVersion msg) ((s.modSec fun x => { x with negotiated := false, transcript := [] }).reply msg
       (responseOf rqGetVersion) 0 0 (leBytes 2 0x1300) false)) ∧
     (rq = rqGetCapabilities → row (.getCapabilities msg) (s.getCapabilities msg)) ∧
     (rq = rqNegotiate → row (.negotiateAlgorithms msg) (s.negotiate msg) ∧ (s.negotiate msg).sec.negotiated = true) ∧
     (s.sec.negotiated = true → rq = rqGetDigests → row (.getDigests msg) (s.getDigests msg false)) ∧
     (s.sec.negotiated = true → rq = rqGetCertificate → row (.getCertificate msg) (s.getCertificate msg false)) ∧
     (s.sec.negotiated = true → rq = rqChallenge → row (.challenge msg) (s.challenge msg false)) ∧
     (s.sec.negotiated = true → rq = rqGetMeasurements → row (.getMeasurements msg) (s.getMeasurements msg false)) ∧
     (s.sec.negotiated = false → (rq = rqGetDigests → row (.getDigests msg) (s.replyError erUnexpected false))
       ∧ (rq = rqGetCertificate → row (.getCertificate msg) (s.replyError erUnexpected false))
       ∧ (rq = rqChallenge → row (.challenge msg) (s.replyError erUnexpected false))
       ∧ (rq = rqGetMeasurements → row (.getMeasurements msg) (s.replyError erUnexpected false)))) ∧
   (∀ (msg : Bytes) (s : State), s.head = false → exec (.getVersion msg) s = .next s ∧ exec (.getDigests msg) s = .next s)) ∧
  (∀ (msg : Bytes) (s : State), s.head = true → s.spdmRefused msg = none → s.sec.negotiated = true →
     (spdmAt msg 1 1 = rqSetCertificate → Runs (.setCertificate msg) s fun t => s.sameButMbox t ∧ t.sec.session = s.sec.session
       ∧ t.sec.chain = if Config.certLeafKey (msg.drop 4) = s.sec.idKey
           ∧ digestBytes (sha384 (keyBytes (Config.certRootKey (msg.drop 4)))) = rootHash s.part.fuses
           then msg.drop 4 else s.sec.chain) ∧
     (spdmAt msg 1 1 = rqKeyExchange → s.sec.chain ≠ [] → Runs (.keyExchange msg) s fun t => s.sameButMbox t
       ∧ t.sec.session.isSome = true ∧ t.sec.sessionUp = false ∧ t.sec.chain = s.sec.chain) ∧
     (spdmAt msg 1 1 = rqKeyExchange → s.sec.chain = [] → exec (.keyExchange msg) s = .next (s.replyError erInvalid false)) ∧
     (∀ k : Nat, spdmAt msg 1 1 = rqFinish → s.sec.session = some k → s.sec.sessionUp = false →
       Runs (.finish msg) s fun t => s.sameButMbox t ∧ t.sec.session = some k ∧ t.sec.sessionUp = Config.spdmAuth k msg) ∧
     (spdmAt msg 1 1 = rqEndSession → s.sec.session.isSome = true → Runs (.endSession msg) s fun t => s.sameButMbox t
       ∧ t.sec.session = none ∧ t.sec.sessionUp = false ∧ t.sec.chain = s.sec.chain) ∧
     (s.sec.session = none → (spdmAt msg 1 1 = rqFinish → exec (.finish msg) s = .next (s.replyError erUnexpected false))
       ∧ (spdmAt msg 1 1 = rqEndSession → exec (.endSession msg) s = .next (s.replyError erUnexpected false)))) ∧
  (∀ (msg : Bytes) (s : State),
     (∀ e : Nat, s.head = true → s.spdmRefused msg = some e → Tab.wf s.regs = true → Runs (.unsupportedRequest msg) s fun t =>
       t.sec = { s.sec with mboxRespLen := 4, mboxReady := true, mboxBusy := false }
         ∧ t.reg aSecMboxData = word (leNat [0x13, 0x7F, BitVec.ofNat 8 e, 0])
         ∧ t = { s with regs := t.regs, sec := t.sec }) ∧
     (s.head = false ∨ s.spdmRefused msg = none → exec (.unsupportedRequest msg) s = .next s))

/-- domainKeyInstall and domainKeyErase complete. In an open session at the head form, with no checkpoint, restore or export running
and a message of the row's OP that R375 admits, the key and its SEAL_DOMAIN are installed, or erased, and the head form sends the message to every other form; else SEC_DOMAIN is
logged and the key stays. -/
def Obligations.DomainKeyNeedsSession : Prop :=
  ∀ (msg : Bytes) (s : State), Tab.wf s.regs = true →
    (s.sec.sessionUp = true → s.secBusyNow = false → s.domainOk msg = true →
      let sent := if s.head = true then (List.range (s.forms - 1)).map fun i => PortOut.domain (i + 1) msg else []
      (leAt msg 0 1 = 1 → Runs (.domainKeyInstall msg) s fun t =>
        t.sec = { s.sec with domain := some (BitVec.ofNat 256 (leAt msg 0x20 32), BitVec.ofNat 128 (leAt msg 0x10 16)) }
          ∧ t.reg aSecDomain0 = word (leAt msg 0x10 16 % 2 ^ 64) ∧ t.reg aSecDomain1 = word (leAt msg 0x10 16 / 2 ^ 64)
          ∧ t = { s with regs := t.regs, sec := t.sec, out := s.out ++ sent }) ∧
      (leAt msg 0 1 = 2 → Runs (.domainKeyErase msg) s fun t => t.sec = { s.sec with domain := none }
          ∧ t.reg aSecDomain0 = 0 ∧ t.reg aSecDomain1 = 0 ∧ t = { s with regs := t.regs, sec := t.sec, out := s.out ++ sent })) ∧
    (leAt msg 0 1 ≠ 1 ∨ (s.head = true ∧ s.sec.sessionUp = false) ∨ s.secBusyNow = true ∨ s.domainOk msg = false →
      exec (.domainKeyInstall msg) s = .next (s.logEv evSecDomain 0)) ∧
    (leAt msg 0 1 ≠ 2 ∨ (s.head = true ∧ s.sec.sessionUp = false) ∨ s.secBusyNow = true ∨ s.domainOk msg = false →
      exec (.domainKeyErase msg) s = .next (s.logEv evSecDomain 0))

/-- secRestoreStart, restoreComplete, secExportStart and exportComplete complete. SEC_RESTORE_CTRL.START of a HALTED tutor reads the
head of the record, and logs SEC_BUSY while the tutor runs or a restore does. RESTORE_COMPLETE of a restore whose last writes have
ended gives MKR_REC_EPOCH its epoch, gives the Marker its record slots, clears TORN and logs RESTORED. SEC_EXPORT_CTRL.START reads the
first working copy, and logs SEC_BUSY without a syllabus, in a sweep, or while a restore, a checkpoint or an export runs; without
START it only writes the piece. EXPORT_COMPLETE ends an export whose working copies are all written. Else neither completion acts. -/
def Obligations.RestoreAndExportRun : Prop :=
  (∀ s : State, s.tut.st ≠ 0 ∨ s.rst.isSome = true → exec .secRestoreStart s = .next (s.logEv evSecBusy 0).wake) ∧
  (∀ s : State, s.tut.st = 0 → s.rst = none →
    let r : Restore := { step := 1, epoch := 0, next := 0, records := 0, key := 0, head := [], index := [], kept := [], writes := 0, last := false }
    exec .secRestoreStart s = .next ((({ s with rst := some r } : State).startJob
      (.raw 8 0) fun id => s.readReqs 2 (s.regF aSecRestoreAddr 12 52 * 4096) 256 .read 4112 id 0).wake)) ∧
  (∀ s : State, s.rst = none → exec .restoreComplete s = .next s) ∧
  (∀ (x : Restore) (s : State), s.rst = some x → x.last = false ∨ x.writes ≠ 0 → exec .restoreComplete s = .next s) ∧
  (∀ (x : Restore) (s : State), s.rst = some x → x.last = true → x.writes = 0 →
    let slot (k : Nat) : TileGot := { ok := true, hdr := [], scales := [], pay := restoredSlot k x.epoch s.mkPieces (Tab.get x.kept k), coded := false }
    let u := (List.range s.recSlots).foldl (fun t k => t.markerHave 0x3FFFF 6 k none (slot k))
      (({ s with rst := none } : State).setReg aMkrRecEpoch (word x.epoch))
    exec .restoreComplete s = .next (({ u with
      mkr := { u.mkr with torn := false }, err := { u.err with restoreNeeded := false } } : State).logEv evRestored 0)) ∧
  (∀ (v : Word) (s : State),
    let u := s.setF aSecExportCtrl 24 18 (fld v 24 18)
    let r : ExportRun := { piece := fld v 24 18, next := 0, writes := 0, addr := u.regF aSecExportAddr 12 52 * 4096 }
    let busy := s.syl = none ∨ 3 ≤ s.mkr.phase ∨ s.rst.isSome = true ∨ s.tut.ckpt = true ∨ s.exp.isSome = true
    (bitAt v 0 = false → exec (.secExportStart v) s = .next u) ∧
    (bitAt v 0 = true → busy → exec (.secExportStart v) s = .next (u.logEv evSecBusy 0)) ∧
    (bitAt v 0 = true → ¬ busy → exec (.secExportStart v) s = .next ({ u with exp := some r } : State).exportRead)) ∧
  (∀ s : State, s.exp = none → exec .exportComplete s = .next s) ∧
  (∀ (x : ExportRun) (s : State), s.exp = some x →
    (s.exportTiles x.piece ≤ x.next → x.writes = 0 → exec .exportComplete s = .next { s with exp := none }) ∧
    (x.next < s.exportTiles x.piece ∨ x.writes ≠ 0 → exec .exportComplete s = .next s))

/-- zeroise and entropyFail complete. ZEROISE at the head form tells the other forms, renews every key and empties every
store, as a cold reset does, with cause 3; at another form nothing happens. ENTROPY_FAIL logs SEC_ENTROPY and clears
ENTROPY_OK. ucieSideband completes. A sideband message on a trained UCIe link is passed on to the other links and acts
here as if the event had started here: a warm reset that counts as one by the warm input, which keeps the tile keys
and the hall clock, or a zeroisation, which keeps neither; on a link that is not trained nothing happens (log 3). -/
def Obligations.ZeroiseAndSideband : Prop :=
  ((∀ s : State, s.head = true → exec .zeroise s = .next ((s.sideband 2 none).coldReset s.part 3) ∧ Runs .zeroise s fun t =>
     t.syl = none ∧ t.t0 = [] ∧ t.sec.domain = none ∧ t.sec.session = none ∧ t.sec.chain = [] ∧ t.lkrs = [] ∧ t.ques = []
       ∧ t.reg aLkrEpoch = 1 ∧ t.reg aMkrRecEpoch = 0 ∧ t.part = s.part ∧ t.regF aOfcResetCause 0 2 = 3) ∧
   (∀ s : State, s.head = false → exec .zeroise s = .next s) ∧
   (∀ s : State, exec .entropyFail s = .next (({ s with sec := { s.sec with entropyOk := false } } : State).logEv evEntropy 0)
     ∧ Runs .entropyFail s fun t => t.sec = { s.sec with entropyOk := false }
       ∧ t = { s with regs := t.regs, sec := t.sec, err := { s.err with armed := t.err.armed } })) ∧
  (∀ (l : BitVec 2) (s : State),
     ((s.flink (2 + l.toNat)).aligned = false → ∀ z : Bool, exec (.ucieSideband l z) s = .next s) ∧
     ((s.flink (2 + l.toNat)).aligned = true →
       exec (.ucieSideband l false) s = .next ((s.sideband 1 (some l.toNat)).warmReset 1)
       ∧ exec (.ucieSideband l true) s = .next ((s.sideband 2 (some l.toNat)).coldReset s.part 3)
       ∧ (Runs (.ucieSideband l false) s fun t =>
         t.regF aOfcResetCause 0 2 = 1 ∧ t.syl = none ∧ t.t0 = [] ∧ t.sec.k1 = s.sec.k1 ∧ t.ques = [] ∧ t.lkrs = []
           ∧ t.hall = s.hall)
       ∧ (Runs (.ucieSideband l true) s fun t =>
         t.syl = none ∧ t.t0 = [] ∧ t.sec.domain = none ∧ t.sec.chain = [] ∧ t.reg aLkrEpoch = 1 ∧ t.reg aMkrRecEpoch = 0
           ∧ t.ques = [] ∧ t.lkrs = [] ∧ t.hall = 0)))

/-- recessEntry, fclkEnLowered and fclkEnable complete. RECESS_ENTRY of a quiet form with RECESS_EN and its clock running lowers fclk_req;
a form that is not so stays. FCLK_EN_LOWERED while fclk_req is low stops the clock: a new operating step is taken and the clock asked for
again, or the entry into recess is complete; while fclk_req is high nothing happens. FCLK_ENABLE of a stopped clock that is asked for makes
the form useful again, out of RECESS_N with its stores powered up. -/
def Obligations.RecessFollowsClockPins : Prop :=
  ∀ s : State,
    let ready := s.recessEn = true ∧ s.pins.fclkReq = true ∧ s.pins.fclkEn = true ∧ s.quiet = true
    let low := (s.modPins fun p => { p with fclkEn := false }).takeStep
    let high := s.modPins fun p => { p with fclkEn := true }
    let use (t : State) : State := t.modPwr fun p => { p with st := 2, entering := false, readDue := p.readDue || t.wakeReading }
    (ready → exec .recessEntry s = .next { s with
      pwr := { s.pwr with entering := true, from_ := if s.retain = false ∧ s.tut.st = 0 ∧ s.t0Allocated = false then 3 else 2 }
      pins := { s.pins with fclkReq := false } }) ∧
    (¬ ready → exec .recessEntry s = .next s) ∧
    (s.pins.fclkReq = true → exec .fclkEnLowered s = .next s) ∧
    (s.pins.fclkReq = false → s.pwr.applying = true → exec .fclkEnLowered s = .next
      ((low.modPwr fun p => { p with applying := false, st := 2, entering := false }).modPins fun p => { p with fclkReq := true })) ∧
    (s.pins.fclkReq = false → s.pwr.applying = false → exec .fclkEnLowered s = .next
      (if low.pwr.entering then low.modPwr fun p => { p with entering := false, st := p.from_ } else low)) ∧
    (s.pins.fclkReq = false → s.pwr.applying = false → s.pwr.pend = none → s.pwr.entering = true →
      Runs .fclkEnLowered s fun t => t.pins.fclkEn = false ∧ t.pwr.st = s.pwr.from_ ∧ t.pwr.entering = false
        ∧ t = { s with pwr := t.pwr, pins := t.pins }) ∧
    (s.pins.fclkEn = true → exec .fclkEnable s = .next s) ∧
    (s.pins.fclkEn = false → s.pins.fclkReq = false → exec .fclkEnable s = .next high) ∧
    (s.pins.fclkEn = false → s.pins.fclkReq = true → s.pwr.st ≠ 3 → exec .fclkEnable s = .next (use high)) ∧
    (s.pins.fclkEn = false → s.pins.fclkReq = true → s.pwr.st = 3 → exec .fclkEnable s = .next (use high.powerUp))

/-- governorWindow completes. A window whose estimate is above the grant lowers the benches' duty by one, or the streams'
when the benches' is at its least, and one within 15/16 of the grant raises both by one up to 16; a grant below 10
counts as 10. PWR_GRANT and PWR_EST record the window. With no step running, a pending operating step is then made.
droop, droopDeasserted and droopRelease complete. DROOP holds the duty down and is logged when the input rises; a
further DROOP while the input is high does nothing, and so does a release then. DROOP_DEASSERTED lowers the input, and
DROOP_RELEASE after it lets the duty go. -/
def Obligations.DutyOfBenches : Prop :=
  (∀ (g e p : BitVec 16) (s : State), Tab.wf s.regs = true →
     ∃ t : State, exec (.governorWindow g e p) s = .next (if s.tut.st = 0 then t.changeStep else t) ∧
       (max g.toNat 10 < e.toNat → 1 < s.pwr.duty → t.pwr.duty = s.pwr.duty - 1 ∧ t.pwr.streamDuty = s.pwr.streamDuty) ∧
       (max g.toNat 10 < e.toNat → s.pwr.duty ≤ 1 → t.pwr.duty = s.pwr.duty ∧ t.pwr.streamDuty = max 1 (s.pwr.streamDuty - 1)) ∧
       (16 * e.toNat ≤ 15 * max g.toNat 10 → t.pwr.duty = min 16 (s.pwr.duty + 1)
         ∧ t.pwr.streamDuty = min 16 (s.pwr.streamDuty + 1)) ∧
       (15 * max g.toNat 10 < 16 * e.toNat → e.toNat ≤ max g.toNat 10 → t.pwr.duty = s.pwr.duty ∧ t.pwr.streamDuty = s.pwr.streamDuty) ∧
       t.reg aPwrGrant = word (at_ 32 (min 0xFFFF (p.toNat + 10)) + g.toNat) ∧ t.pins.grant = g.toNat
       ∧ t.regF aPwrEst 0 16 = e.toNat ∧ t.t0 = s.t0 ∧ t.lkrs = s.lkrs ∧ t.ques = s.ques) ∧
  (∀ s : State,
     (s.pins.droop = false → Runs .droop s fun t => t.pins.droop = true ∧ t.pwr = { s.pwr with droopHeld := true }
       ∧ t.dutyNow ≤ s.pwr.duty
       ∧ t = { s with regs := t.regs, pwr := t.pwr, pins := { s.pins with droop := true }
                      err := { s.err with armed := t.err.armed } }) ∧
     (s.pins.droop = true → exec .droop s = .next s ∧ exec .droopRelease s = .next s) ∧
     exec .droopDeasserted s = .next { s with pins := { s.pins with droop := false } } ∧
     (s.pins.droop = false → exec .droopRelease s = .next { s with pwr := { s.pwr with droopHeld := false } }))

/-- monitorReading completes. A reading that is due records the slack, and the first one after cold reset sets REF. One
below SLACK_MIN (the first without a wear-log entry), or, unless it confirms, one that has fallen by 20 or more below
REF, sets REF and re-plans; a confirming one that does neither sets REF, and any other leaves it. A reading that is
not due is ignored. The ceiling is never raised. telemetryWord and pwrVfWrite complete. The word of READ_IIN,
READ_TEMPERATURE_1 and READ_PIN goes to its field of PWR_TELEM; that of READ_VIN also gives PWR_VIN its millivolts;
any other code is ignored. PWR_VFk keeps a write until the first full load since cold reset, and ignores one after it. -/
def Obligations.ReadingsAndTelemetry : Prop :=
  (∀ (sl : BitVec 12) (w : BitVec 5) (s : State), Tab.wf s.regs = true →
     let noted (r : Nat) : State := ({ s with pwr := { s.pwr with readDue := false, confirm := false, ref := some r } } : State).setReg aPwrSlack
       (word (at_ 32 s.seconds + at_ 24 w.toNat + at_ 12 r + sl.toNat))
     (s.pwr.readDue = false → exec (.monitorReading sl w) s = .next s) ∧
     (s.pwr.readDue = true → s.pwr.ref = none → exec (.monitorReading sl w) s =
       .next (if sl.toNat < s.slackMin then (noted sl.toNat).replan sl.toNat w.toNat none else noted sl.toNat)) ∧
     (∀ r : Nat, s.pwr.readDue = true → s.pwr.ref = some r →
       let replans := sl.toNat < s.slackMin ∨ (s.pwr.confirm = false ∧ sl.toNat + 20 ≤ r)
       (replans → exec (.monitorReading sl w) s = .next ((noted sl.toNat).replan sl.toNat w.toNat (some r))) ∧
       (¬ replans → exec (.monitorReading sl w) s = .next (noted (if s.pwr.confirm = true then sl.toNat else r)))) ∧
     (Runs (.monitorReading sl w) s fun t => t.pwr.ceiling ≤ s.pwr.ceiling)) ∧
  ((∀ (w : BitVec 16) (s : State), Tab.wf s.regs = true →
     (Runs (.telemetryWord 0x89 w) s fun t => t.regF aPwrTelem 16 16 = w.toNat ∧ s.sameButRegs t) ∧
     (Runs (.telemetryWord 0x97 w) s fun t => t.regF aPwrTelem 32 16 = w.toNat ∧ s.sameButRegs t) ∧
     (Runs (.telemetryWord 0x8D w) s fun t => t.regF aPwrTelem 48 16 = w.toNat ∧ s.sameButRegs t) ∧
     (exec (.telemetryWord 0x88 w) s = .next ((s.setF aPwrTelem 0 16 w.toNat).vinWord w.toNat)) ∧
     (w.toNat < 1024 → Runs (.telemetryWord 0x88 w) s fun t => t.regF aPwrTelem 0 16 = w.toNat
       ∧ t.reg aPwrVin = word (2 ^ 32 + 1000 * w.toNat) ∧ t.pwr.vinBad = decide (1000 * w.toNat < 32400 ∨ 66000 < 1000 * w.toNat))) ∧
   (∀ (c : BitVec 8) (w : BitVec 16) (s : State), telemField c.toNat = none → exec (.telemetryWord c w) s = .next s) ∧
   (∀ (k : BitVec 3) (v : Word) (s : State), s.pwr.vfLocked = true → exec (.pwrVfWrite k v) s = .next s) ∧
   (∀ (k : BitVec 3) (v : Word) (s : State), s.pwr.vfLocked = false → Tab.wf s.regs = true →
     Runs (.pwrVfWrite k v) s fun t => t.reg (aPwrVf + 8 * k.toNat) = v &&& 0x0000FFFFFF00FFFF
       ∧ t = { s with regs := t.regs, pins := { s.pins with pwrVid := t.pins.pwrVid } }))
end

