-- ==== Sys2Proof/Laws/Bits.lean ====
section
/-! SUPPORT. Laws of little-endian byte runs: a value written out in bytes reads back. -/

namespace Sys2Proof.Machine

@[simp] theorem length_leBytes (n v : Nat) : (leBytes n v).length = n := by
  induction n generalizing v with
  | zero => rfl
  | succ n ih => simp [leBytes, ih]

theorem leNat_leBytes (n v : Nat) : leNat (leBytes n v) = v % 256 ^ n := by
  induction n generalizing v with
  | zero => simp [leBytes, leNat, Nat.mod_one]
  | succ n ih =>
    simp only [leBytes, leNat, ih, BitVec.toNat_ofNat]
    have e : 256 ^ (n + 1) = 256 * 256 ^ n := Nat.pow_succ'
    rw [e, Nat.mod_mul]

theorem leBytes_mod (n v m : Nat) (h : n ≤ m) : leBytes n (v % 256 ^ m) = leBytes n v := by
  induction n generalizing v m with
  | zero => rfl
  | succ n ih =>
    obtain ⟨m, rfl⟩ : ∃ k, m = k + 1 := ⟨m - 1, by omega⟩
    have e : 256 ^ (m + 1) = 256 * 256 ^ m := Nat.pow_succ'
    have h1 : v % (256 * 256 ^ m) / 256 = v / 256 % 256 ^ m := Nat.mod_mul_right_div_self ..
    have h2 : BitVec.ofNat 8 (v % (256 * 256 ^ m)) = BitVec.ofNat 8 v := by
      apply BitVec.eq_of_toNat_eq
      simp only [BitVec.toNat_ofNat]
      exact Nat.mod_mod_of_dvd v (Dvd.intro _ rfl)
    simp only [leBytes, e, h1, h2, ih (v / 256) m (by omega)]

theorem leBytes_add (m n v : Nat) : leBytes (m + n) v = leBytes m v ++ leBytes n (v / 256 ^ m) := by
  induction m generalizing v with
  | zero => simp [leBytes]
  | succ m ih =>
    have e : 256 ^ (m + 1) = 256 * 256 ^ m := Nat.pow_succ'
    have e2 : m + 1 + n = m + n + 1 := by omega
    rw [e2]
    simp only [leBytes, List.cons_append, ih, e, Nat.div_div_eq_div_mul]

@[simp] theorem length_slice (bs : Bytes) (off n : Nat) : (slice bs off n).length = n := by
  simp only [slice, List.length_append, List.length_replicate, List.length_take]
  omega

/-- A run that lies inside the first of two byte runs does not depend on the second. -/
theorem slice_left (x y : Bytes) (off n : Nat) (h : off + n ≤ x.length) : slice (x ++ y) off n = slice x off n := by
  have h1 : (x ++ y).drop off = x.drop off ++ y := List.drop_append_of_le_length (by omega)
  have h2 : (x.drop off ++ y).take n = (x.drop off).take n :=
    List.take_append_of_le_length (by rw [List.length_drop]; omega)
  rw [slice, slice, h1, h2]

/-- A run that lies in the middle of others is cut out whole. -/
theorem slice_mid (x m y : Bytes) : slice (x ++ (m ++ y)) x.length m.length = m := by
  simp [slice]

/-- A number written out in the middle of other bytes reads back. -/
theorem leAt_mid (x y : Bytes) (n v : Nat) : leAt (x ++ (leBytes n v ++ y)) x.length n = v % 256 ^ n := by
  have h := slice_mid x (leBytes n v) y
  rw [length_leBytes] at h
  rw [leAt, h, leNat_leBytes]

/-- A number written out at the end of other bytes reads back. -/
theorem leAt_end (x : Bytes) (n v : Nat) : leAt (x ++ leBytes n v) x.length n = v % 256 ^ n := by
  have h := leAt_mid x [] n v
  rwa [List.append_nil] at h

end Sys2Proof.Machine
end

