-- ==== Sys2Proof/Laws/Crypto.lean ====
section
/-! SUPPORT. Laws of the ciphers: a text sealed with AES-256-GCM opens to the text again. -/

namespace Sys2Proof.Machine

theorem xorBytes_length (a b : Bytes) : (xorBytes a b).length = min a.length b.length := List.length_zipWith

/-- A byte run masked twice with a run that is no shorter reads as before. -/
theorem xorBytes_twice (a b : Bytes) (h : a.length ≤ b.length) : xorBytes (xorBytes a b) b = a := by
  unfold xorBytes
  induction a generalizing b with
  | nil => rfl
  | cons x a ih =>
    match b, h with
    | y :: b, h => simp [ih b (by simpa using h)]

/-- The rounds give a block when every round key is one. -/
theorem aesEncRounds_length (ks : List Bytes) (b : Bytes) (h : ks ≠ []) (hk : ∀ k ∈ ks, k.length = 16) :
    (aesEncRounds ks b).length = 16 := by
  induction ks generalizing b with
  | nil => exact absurd rfl h
  | cons k ks ih =>
    cases ks with
    | nil => simp [aesEncRounds, xorBytes_length, shiftRows, permute, hk k (by simp)]
    | cons k' ks => exact ih _ (by simp) fun x hx => hk x (by simp [hx])

/-- Pieces of a list that is long enough are whole. -/
theorem pieces_length {α : Type} (n k : Nat) (l : List α) (h : k * n ≤ l.length) : ∀ p ∈ pieces n k l, p.length = n := by
  induction k generalizing l with
  | zero => simp [pieces]
  | succ k ih =>
    have e : (k + 1) * n = k * n + n := Nat.succ_mul ..
    intro p hp
    simp only [pieces, List.mem_cons] at hp
    obtain rfl | hp := hp
    · rw [List.length_take]; omega
    · exact ih (l.drop n) (by rw [List.length_drop]; omega) p hp

/-- A key schedule of words of four bytes keeps to them. -/
theorem aesWords_length (n : Nat) (rc : Byte) (ws : List Bytes) (h8 : 8 ≤ ws.length) (h : ∀ w ∈ ws, w.length = 4) :
    (aesWords n rc ws).length = ws.length + n ∧ ∀ w ∈ aesWords n rc ws, w.length = 4 := by
  induction n generalizing rc ws with
  | zero => exact ⟨rfl, h⟩
  | succ n ih =>
    have h0 : (ws.head?.getD []).length = 4 := by
      cases ws with
      | nil => simp at h8
      | cons a l => exact h a (by simp)
    have h7 : (ws.getD 7 []).length = 4 := by
      rw [List.getD_eq_getElem _ _ (by omega)]
      exact h _ (List.getElem_mem _)
    have hw : ∀ w ∈ xorBytes (ws.getD 7 []) (if ws.length % 8 = 0 then
          xorBytes (((ws.headD []).drop 1 ++ (ws.headD []).take 1).map (subByte aesSbox)) [rc, 0, 0, 0]
        else if ws.length % 8 = 4 then (ws.headD []).map (subByte aesSbox) else ws.headD []) :: ws, w.length = 4 := by
      intro w hw
      simp only [List.mem_cons] at hw
      obtain rfl | hw := hw
      · rw [xorBytes_length, h7]
        split
        · simp only [xorBytes_length, List.headD_eq_head?_getD, List.length_map, List.length_append, List.length_drop,
            List.length_take, h0, List.length_cons, List.length_nil]
          omega
        · split <;> simp [h0]
      · exact h w hw
    obtain ⟨hl, hm⟩ := ih (if ws.length % 8 = 0 then xtime rc else rc) _ (by simp; omega) hw
    refine ⟨?_, hm⟩
    show (aesWords n _ _).length = _
    rw [hl]
    simp only [List.length_cons]
    omega

/-- The fifteen round keys are blocks. -/
theorem aesKeys_length (key : Nat) : (aesKeys key).length = 15 ∧ ∀ k ∈ aesKeys key, k.length = 16 := by
  have hp : ∀ w ∈ (pieces 4 8 (leBytes 32 key)).reverse, w.length = 4 := fun w hw =>
    pieces_length 4 8 _ (by simp) w (List.mem_reverse.mp hw)
  obtain ⟨hl, hm⟩ := aesWords_length 52 1 (pieces 4 8 (leBytes 32 key)).reverse (by simp [pieces]) hp
  have hf : (aesWords 52 1 (pieces 4 8 (leBytes 32 key)).reverse).reverse.flatten.length = 240 := by
    rw [List.length_flatten]
    have : ((aesWords 52 1 (pieces 4 8 (leBytes 32 key)).reverse).reverse.map List.length) = List.replicate 60 4 := by
      rw [List.eq_replicate_iff]
      refine ⟨by rw [List.length_map, List.length_reverse, hl]; rfl, fun b hb => ?_⟩
      simp only [List.mem_map, List.mem_reverse] at hb
      obtain ⟨w, hw, rfl⟩ := hb
      exact hm w hw
    rw [this]
    rfl
  refine ⟨?_, fun k hk => pieces_length 16 15 _ (by rw [hf]) k hk⟩
  simp [aesKeys, pieces]

theorem aesEnc_length (key : Nat) (b : Bytes) : (aesEnc (aesKeys key) b).length = 16 := by
  obtain ⟨hl, hm⟩ := aesKeys_length key
  refine aesEncRounds_length _ _ ?_ fun k hk => hm k (List.mem_of_mem_drop hk)
  intro h
  have := congrArg List.length h
  rw [List.length_drop, hl] at this
  simp at this

theorem gcmStream_length (key nonce m n : Nat) : (gcmStream (aesKeys key) nonce m n).length = 16 * m := by
  induction m generalizing n with
  | zero => rfl
  | succ m ih => simp [gcmStream, aesEnc_length, ih]; omega

theorem gcmText_length (key nonce : Nat) (t : Bytes) : (gcmText key nonce t).length = t.length := by
  rw [gcmText, xorBytes_length, gcmStream_length]
  omega

/-- A text encrypted and decrypted again is the text. -/
theorem gcmText_twice (key nonce : Nat) (t : Bytes) : gcmText key nonce (gcmText key nonce t) = t := by
  have h : gcmText key nonce (gcmText key nonce t)
      = xorBytes (gcmText key nonce t) (gcmStream (aesKeys key) nonce ((t.length + 15) / 16) 2) := by
    rw [gcmText, gcmText_length]
  rw [h, gcmText, xorBytes_twice _ _ (by rw [gcmStream_length]; omega)]

/-- What `gcmSeal` makes opens to the text that was sealed. -/
theorem gcmOpen_seal (key nonce : Nat) (aad t : Bytes) :
    gcmOpen key nonce aad (gcmText key nonce t) (gcmTag key nonce aad (gcmText key nonce t)) = some t := by
  rw [gcmOpen, if_pos rfl, gcmText_twice]

theorem gcmTag_length (key nonce : Nat) (aad ct : Bytes) : (gcmTag key nonce aad ct).length = 16 := by
  simp only [gcmTag, xorBytes_length, aesEnc_length, beBytes, List.length_reverse, length_leBytes]
  rfl

end Sys2Proof.Machine
end

