-- ==== Sys2Proof/Laws/State.lean ====
section
/-! SUPPORT. One lemma for each field and each update of the state: what the update leaves of the field. -/

namespace Sys2Proof.Machine

variable (s : State)

@[simp] theorem State.setReg_part (a : Nat) (v : Word) : (s.setReg a v).part = s.part := rfl
@[simp] theorem State.setReg_pins (a : Nat) (v : Word) : (s.setReg a v).pins = s.pins := rfl
@[simp] theorem State.setReg_hall (a : Nat) (v : Word) : (s.setReg a v).hall = s.hall := rfl
@[simp] theorem State.setReg_stepCtr (a : Nat) (v : Word) : (s.setReg a v).stepCtr = s.stepCtr := rfl
@[simp] theorem State.setReg_level (a : Nat) (v : Word) : (s.setReg a v).level = s.level := rfl
@[simp] theorem State.setReg_t0 (a : Nat) (v : Word) : (s.setReg a v).t0 = s.t0 := rfl
@[simp] theorem State.setReg_t0Poison (a : Nat) (v : Word) : (s.setReg a v).t0Poison = s.t0Poison := rfl
@[simp] theorem State.setReg_syl (a : Nat) (v : Word) : (s.setReg a v).syl = s.syl := rfl
@[simp] theorem State.setReg_load (a : Nat) (v : Word) : (s.setReg a v).load = s.load := rfl
@[simp] theorem State.setReg_bells (a : Nat) (v : Word) : (s.setReg a v).bells = s.bells := rfl
@[simp] theorem State.setReg_asms (a : Nat) (v : Word) : (s.setReg a v).asms = s.asms := rfl
@[simp] theorem State.setReg_ques (a : Nat) (v : Word) : (s.setReg a v).ques = s.ques := rfl
@[simp] theorem State.setReg_flights (a : Nat) (v : Word) : (s.setReg a v).flights = s.flights := rfl
@[simp] theorem State.setReg_slots (a : Nat) (v : Word) : (s.setReg a v).slots = s.slots := rfl
@[simp] theorem State.setReg_sync (a : Nat) (v : Word) : (s.setReg a v).sync = s.sync := rfl
@[simp] theorem State.setReg_tut (a : Nat) (v : Word) : (s.setReg a v).tut = s.tut := rfl
@[simp] theorem State.setReg_lkrs (a : Nat) (v : Word) : (s.setReg a v).lkrs = s.lkrs := rfl
@[simp] theorem State.setReg_pln (a : Nat) (v : Word) : (s.setReg a v).pln = s.pln := rfl
@[simp] theorem State.setReg_mem (a : Nat) (v : Word) : (s.setReg a v).mem = s.mem := rfl
@[simp] theorem State.setReg_stms (a : Nat) (v : Word) : (s.setReg a v).stms = s.stms := rfl
@[simp] theorem State.setReg_crs (a : Nat) (v : Word) : (s.setReg a v).crs = s.crs := rfl
@[simp] theorem State.setReg_crsEng (a : Nat) (v : Word) : (s.setReg a v).crsEng = s.crsEng := rfl
@[simp] theorem State.setReg_eng (a : Nat) (v : Word) : (s.setReg a v).eng = s.eng := rfl
@[simp] theorem State.setReg_bnc (a : Nat) (v : Word) : (s.setReg a v).bnc = s.bnc := rfl
@[simp] theorem State.setReg_mkr (a : Nat) (v : Word) : (s.setReg a v).mkr = s.mkr := rfl
@[simp] theorem State.setReg_fab (a : Nat) (v : Word) : (s.setReg a v).fab = s.fab := rfl
@[simp] theorem State.setReg_rcl (a : Nat) (v : Word) : (s.setReg a v).rcl = s.rcl := rfl
@[simp] theorem State.setReg_err (a : Nat) (v : Word) : (s.setReg a v).err = s.err := rfl
@[simp] theorem State.setReg_sec (a : Nat) (v : Word) : (s.setReg a v).sec = s.sec := rfl
@[simp] theorem State.setReg_rst (a : Nat) (v : Word) : (s.setReg a v).rst = s.rst := rfl
@[simp] theorem State.setReg_exp (a : Nat) (v : Word) : (s.setReg a v).exp = s.exp := rfl
@[simp] theorem State.setReg_ckp (a : Nat) (v : Word) : (s.setReg a v).ckp = s.ckp := rfl
@[simp] theorem State.setReg_pwr (a : Nat) (v : Word) : (s.setReg a v).pwr = s.pwr := rfl
@[simp] theorem State.setReg_tap (a : Nat) (v : Word) : (s.setReg a v).tap = s.tap := rfl
@[simp] theorem State.setReg_out (a : Nat) (v : Word) : (s.setReg a v).out = s.out := rfl
@[simp] theorem State.setReg_free (a : Nat) (v : Word) : (s.setReg a v).free = s.free := rfl
@[simp] theorem State.setReg_pending (a : Nat) (v : Word) : (s.setReg a v).pending = s.pending := rfl

@[simp] theorem State.setF_part (a lo len v : Nat) : (s.setF a lo len v).part = s.part := rfl
@[simp] theorem State.setF_pins (a lo len v : Nat) : (s.setF a lo len v).pins = s.pins := rfl
@[simp] theorem State.setF_hall (a lo len v : Nat) : (s.setF a lo len v).hall = s.hall := rfl
@[simp] theorem State.setF_stepCtr (a lo len v : Nat) : (s.setF a lo len v).stepCtr = s.stepCtr := rfl
@[simp] theorem State.setF_level (a lo len v : Nat) : (s.setF a lo len v).level = s.level := rfl
@[simp] theorem State.setF_t0 (a lo len v : Nat) : (s.setF a lo len v).t0 = s.t0 := rfl
@[simp] theorem State.setF_t0Poison (a lo len v : Nat) : (s.setF a lo len v).t0Poison = s.t0Poison := rfl
@[simp] theorem State.setF_syl (a lo len v : Nat) : (s.setF a lo len v).syl = s.syl := rfl
@[simp] theorem State.setF_load (a lo len v : Nat) : (s.setF a lo len v).load = s.load := rfl
@[simp] theorem State.setF_bells (a lo len v : Nat) : (s.setF a lo len v).bells = s.bells := rfl
@[simp] theorem State.setF_asms (a lo len v : Nat) : (s.setF a lo len v).asms = s.asms := rfl
@[simp] theorem State.setF_ques (a lo len v : Nat) : (s.setF a lo len v).ques = s.ques := rfl
@[simp] theorem State.setF_flights (a lo len v : Nat) : (s.setF a lo len v).flights = s.flights := rfl
@[simp] theorem State.setF_slots (a lo len v : Nat) : (s.setF a lo len v).slots = s.slots := rfl
@[simp] theorem State.setF_sync (a lo len v : Nat) : (s.setF a lo len v).sync = s.sync := rfl
@[simp] theorem State.setF_tut (a lo len v : Nat) : (s.setF a lo len v).tut = s.tut := rfl
@[simp] theorem State.setF_lkrs (a lo len v : Nat) : (s.setF a lo len v).lkrs = s.lkrs := rfl
@[simp] theorem State.setF_pln (a lo len v : Nat) : (s.setF a lo len v).pln = s.pln := rfl
@[simp] theorem State.setF_mem (a lo len v : Nat) : (s.setF a lo len v).mem = s.mem := rfl
@[simp] theorem State.setF_stms (a lo len v : Nat) : (s.setF a lo len v).stms = s.stms := rfl
@[simp] theorem State.setF_crs (a lo len v : Nat) : (s.setF a lo len v).crs = s.crs := rfl
@[simp] theorem State.setF_crsEng (a lo len v : Nat) : (s.setF a lo len v).crsEng = s.crsEng := rfl
@[simp] theorem State.setF_eng (a lo len v : Nat) : (s.setF a lo len v).eng = s.eng := rfl
@[simp] theorem State.setF_bnc (a lo len v : Nat) : (s.setF a lo len v).bnc = s.bnc := rfl
@[simp] theorem State.setF_mkr (a lo len v : Nat) : (s.setF a lo len v).mkr = s.mkr := rfl
@[simp] theorem State.setF_fab (a lo len v : Nat) : (s.setF a lo len v).fab = s.fab := rfl
@[simp] theorem State.setF_rcl (a lo len v : Nat) : (s.setF a lo len v).rcl = s.rcl := rfl
@[simp] theorem State.setF_err (a lo len v : Nat) : (s.setF a lo len v).err = s.err := rfl
@[simp] theorem State.setF_sec (a lo len v : Nat) : (s.setF a lo len v).sec = s.sec := rfl
@[simp] theorem State.setF_rst (a lo len v : Nat) : (s.setF a lo len v).rst = s.rst := rfl
@[simp] theorem State.setF_exp (a lo len v : Nat) : (s.setF a lo len v).exp = s.exp := rfl
@[simp] theorem State.setF_ckp (a lo len v : Nat) : (s.setF a lo len v).ckp = s.ckp := rfl
@[simp] theorem State.setF_pwr (a lo len v : Nat) : (s.setF a lo len v).pwr = s.pwr := rfl
@[simp] theorem State.setF_tap (a lo len v : Nat) : (s.setF a lo len v).tap = s.tap := rfl
@[simp] theorem State.setF_out (a lo len v : Nat) : (s.setF a lo len v).out = s.out := rfl
@[simp] theorem State.setF_free (a lo len v : Nat) : (s.setF a lo len v).free = s.free := rfl
@[simp] theorem State.setF_pending (a lo len v : Nat) : (s.setF a lo len v).pending = s.pending := rfl

@[simp] theorem State.incF_part (a lo len n : Nat) : (s.incF a lo len n).part = s.part := rfl
@[simp] theorem State.incF_pins (a lo len n : Nat) : (s.incF a lo len n).pins = s.pins := rfl
@[simp] theorem State.incF_hall (a lo len n : Nat) : (s.incF a lo len n).hall = s.hall := rfl
@[simp] theorem State.incF_stepCtr (a lo len n : Nat) : (s.incF a lo len n).stepCtr = s.stepCtr := rfl
@[simp] theorem State.incF_level (a lo len n : Nat) : (s.incF a lo len n).level = s.level := rfl
@[simp] theorem State.incF_t0 (a lo len n : Nat) : (s.incF a lo len n).t0 = s.t0 := rfl
@[simp] theorem State.incF_t0Poison (a lo len n : Nat) : (s.incF a lo len n).t0Poison = s.t0Poison := rfl
@[simp] theorem State.incF_syl (a lo len n : Nat) : (s.incF a lo len n).syl = s.syl := rfl
@[simp] theorem State.incF_load (a lo len n : Nat) : (s.incF a lo len n).load = s.load := rfl
@[simp] theorem State.incF_bells (a lo len n : Nat) : (s.incF a lo len n).bells = s.bells := rfl
@[simp] theorem State.incF_asms (a lo len n : Nat) : (s.incF a lo len n).asms = s.asms := rfl
@[simp] theorem State.incF_ques (a lo len n : Nat) : (s.incF a lo len n).ques = s.ques := rfl
@[simp] theorem State.incF_flights (a lo len n : Nat) : (s.incF a lo len n).flights = s.flights := rfl
@[simp] theorem State.incF_slots (a lo len n : Nat) : (s.incF a lo len n).slots = s.slots := rfl
@[simp] theorem State.incF_sync (a lo len n : Nat) : (s.incF a lo len n).sync = s.sync := rfl
@[simp] theorem State.incF_tut (a lo len n : Nat) : (s.incF a lo len n).tut = s.tut := rfl
@[simp] theorem State.incF_lkrs (a lo len n : Nat) : (s.incF a lo len n).lkrs = s.lkrs := rfl
@[simp] theorem State.incF_pln (a lo len n : Nat) : (s.incF a lo len n).pln = s.pln := rfl
@[simp] theorem State.incF_mem (a lo len n : Nat) : (s.incF a lo len n).mem = s.mem := rfl
@[simp] theorem State.incF_stms (a lo len n : Nat) : (s.incF a lo len n).stms = s.stms := rfl
@[simp] theorem State.incF_crs (a lo len n : Nat) : (s.incF a lo len n).crs = s.crs := rfl
@[simp] theorem State.incF_crsEng (a lo len n : Nat) : (s.incF a lo len n).crsEng = s.crsEng := rfl
@[simp] theorem State.incF_eng (a lo len n : Nat) : (s.incF a lo len n).eng = s.eng := rfl
@[simp] theorem State.incF_bnc (a lo len n : Nat) : (s.incF a lo len n).bnc = s.bnc := rfl
@[simp] theorem State.incF_mkr (a lo len n : Nat) : (s.incF a lo len n).mkr = s.mkr := rfl
@[simp] theorem State.incF_fab (a lo len n : Nat) : (s.incF a lo len n).fab = s.fab := rfl
@[simp] theorem State.incF_rcl (a lo len n : Nat) : (s.incF a lo len n).rcl = s.rcl := rfl
@[simp] theorem State.incF_err (a lo len n : Nat) : (s.incF a lo len n).err = s.err := rfl
@[simp] theorem State.incF_sec (a lo len n : Nat) : (s.incF a lo len n).sec = s.sec := rfl
@[simp] theorem State.incF_rst (a lo len n : Nat) : (s.incF a lo len n).rst = s.rst := rfl
@[simp] theorem State.incF_exp (a lo len n : Nat) : (s.incF a lo len n).exp = s.exp := rfl
@[simp] theorem State.incF_ckp (a lo len n : Nat) : (s.incF a lo len n).ckp = s.ckp := rfl
@[simp] theorem State.incF_pwr (a lo len n : Nat) : (s.incF a lo len n).pwr = s.pwr := rfl
@[simp] theorem State.incF_tap (a lo len n : Nat) : (s.incF a lo len n).tap = s.tap := rfl
@[simp] theorem State.incF_out (a lo len n : Nat) : (s.incF a lo len n).out = s.out := rfl
@[simp] theorem State.incF_free (a lo len n : Nat) : (s.incF a lo len n).free = s.free := rfl
@[simp] theorem State.incF_pending (a lo len n : Nat) : (s.incF a lo len n).pending = s.pending := rfl

@[simp] theorem State.emit_part (o : PortOut) : (s.emit o).part = s.part := rfl
@[simp] theorem State.emit_pins (o : PortOut) : (s.emit o).pins = s.pins := rfl
@[simp] theorem State.emit_hall (o : PortOut) : (s.emit o).hall = s.hall := rfl
@[simp] theorem State.emit_regs (o : PortOut) : (s.emit o).regs = s.regs := rfl
@[simp] theorem State.emit_stepCtr (o : PortOut) : (s.emit o).stepCtr = s.stepCtr := rfl
@[simp] theorem State.emit_level (o : PortOut) : (s.emit o).level = s.level := rfl
@[simp] theorem State.emit_t0 (o : PortOut) : (s.emit o).t0 = s.t0 := rfl
@[simp] theorem State.emit_t0Poison (o : PortOut) : (s.emit o).t0Poison = s.t0Poison := rfl
@[simp] theorem State.emit_syl (o : PortOut) : (s.emit o).syl = s.syl := rfl
@[simp] theorem State.emit_load (o : PortOut) : (s.emit o).load = s.load := rfl
@[simp] theorem State.emit_bells (o : PortOut) : (s.emit o).bells = s.bells := rfl
@[simp] theorem State.emit_asms (o : PortOut) : (s.emit o).asms = s.asms := rfl
@[simp] theorem State.emit_ques (o : PortOut) : (s.emit o).ques = s.ques := rfl
@[simp] theorem State.emit_flights (o : PortOut) : (s.emit o).flights = s.flights := rfl
@[simp] theorem State.emit_slots (o : PortOut) : (s.emit o).slots = s.slots := rfl
@[simp] theorem State.emit_sync (o : PortOut) : (s.emit o).sync = s.sync := rfl
@[simp] theorem State.emit_tut (o : PortOut) : (s.emit o).tut = s.tut := rfl
@[simp] theorem State.emit_lkrs (o : PortOut) : (s.emit o).lkrs = s.lkrs := rfl
@[simp] theorem State.emit_pln (o : PortOut) : (s.emit o).pln = s.pln := rfl
@[simp] theorem State.emit_mem (o : PortOut) : (s.emit o).mem = s.mem := rfl
@[simp] theorem State.emit_stms (o : PortOut) : (s.emit o).stms = s.stms := rfl
@[simp] theorem State.emit_crs (o : PortOut) : (s.emit o).crs = s.crs := rfl
@[simp] theorem State.emit_crsEng (o : PortOut) : (s.emit o).crsEng = s.crsEng := rfl
@[simp] theorem State.emit_eng (o : PortOut) : (s.emit o).eng = s.eng := rfl
@[simp] theorem State.emit_bnc (o : PortOut) : (s.emit o).bnc = s.bnc := rfl
@[simp] theorem State.emit_mkr (o : PortOut) : (s.emit o).mkr = s.mkr := rfl
@[simp] theorem State.emit_fab (o : PortOut) : (s.emit o).fab = s.fab := rfl
@[simp] theorem State.emit_rcl (o : PortOut) : (s.emit o).rcl = s.rcl := rfl
@[simp] theorem State.emit_err (o : PortOut) : (s.emit o).err = s.err := rfl
@[simp] theorem State.emit_sec (o : PortOut) : (s.emit o).sec = s.sec := rfl
@[simp] theorem State.emit_rst (o : PortOut) : (s.emit o).rst = s.rst := rfl
@[simp] theorem State.emit_exp (o : PortOut) : (s.emit o).exp = s.exp := rfl
@[simp] theorem State.emit_ckp (o : PortOut) : (s.emit o).ckp = s.ckp := rfl
@[simp] theorem State.emit_pwr (o : PortOut) : (s.emit o).pwr = s.pwr := rfl
@[simp] theorem State.emit_tap (o : PortOut) : (s.emit o).tap = s.tap := rfl
@[simp] theorem State.emit_free (o : PortOut) : (s.emit o).free = s.free := rfl
@[simp] theorem State.emit_pending (o : PortOut) : (s.emit o).pending = s.pending := rfl

@[simp] theorem State.modQue_part (q : Nat) (f : Que → Que) : (s.modQue q f).part = s.part := rfl
@[simp] theorem State.modQue_pins (q : Nat) (f : Que → Que) : (s.modQue q f).pins = s.pins := rfl
@[simp] theorem State.modQue_hall (q : Nat) (f : Que → Que) : (s.modQue q f).hall = s.hall := rfl
@[simp] theorem State.modQue_regs (q : Nat) (f : Que → Que) : (s.modQue q f).regs = s.regs := rfl
@[simp] theorem State.modQue_stepCtr (q : Nat) (f : Que → Que) : (s.modQue q f).stepCtr = s.stepCtr := rfl
@[simp] theorem State.modQue_level (q : Nat) (f : Que → Que) : (s.modQue q f).level = s.level := rfl
@[simp] theorem State.modQue_t0 (q : Nat) (f : Que → Que) : (s.modQue q f).t0 = s.t0 := rfl
@[simp] theorem State.modQue_t0Poison (q : Nat) (f : Que → Que) : (s.modQue q f).t0Poison = s.t0Poison := rfl
@[simp] theorem State.modQue_syl (q : Nat) (f : Que → Que) : (s.modQue q f).syl = s.syl := rfl
@[simp] theorem State.modQue_load (q : Nat) (f : Que → Que) : (s.modQue q f).load = s.load := rfl
@[simp] theorem State.modQue_bells (q : Nat) (f : Que → Que) : (s.modQue q f).bells = s.bells := rfl
@[simp] theorem State.modQue_asms (q : Nat) (f : Que → Que) : (s.modQue q f).asms = s.asms := rfl
@[simp] theorem State.modQue_flights (q : Nat) (f : Que → Que) : (s.modQue q f).flights = s.flights := rfl
@[simp] theorem State.modQue_slots (q : Nat) (f : Que → Que) : (s.modQue q f).slots = s.slots := rfl
@[simp] theorem State.modQue_sync (q : Nat) (f : Que → Que) : (s.modQue q f).sync = s.sync := rfl
@[simp] theorem State.modQue_tut (q : Nat) (f : Que → Que) : (s.modQue q f).tut = s.tut := rfl
@[simp] theorem State.modQue_lkrs (q : Nat) (f : Que → Que) : (s.modQue q f).lkrs = s.lkrs := rfl
@[simp] theorem State.modQue_pln (q : Nat) (f : Que → Que) : (s.modQue q f).pln = s.pln := rfl
@[simp] theorem State.modQue_mem (q : Nat) (f : Que → Que) : (s.modQue q f).mem = s.mem := rfl
@[simp] theorem State.modQue_stms (q : Nat) (f : Que → Que) : (s.modQue q f).stms = s.stms := rfl
@[simp] theorem State.modQue_crs (q : Nat) (f : Que → Que) : (s.modQue q f).crs = s.crs := rfl
@[simp] theorem State.modQue_crsEng (q : Nat) (f : Que → Que) : (s.modQue q f).crsEng = s.crsEng := rfl
@[simp] theorem State.modQue_eng (q : Nat) (f : Que → Que) : (s.modQue q f).eng = s.eng := rfl
@[simp] theorem State.modQue_bnc (q : Nat) (f : Que → Que) : (s.modQue q f).bnc = s.bnc := rfl
@[simp] theorem State.modQue_mkr (q : Nat) (f : Que → Que) : (s.modQue q f).mkr = s.mkr := rfl
@[simp] theorem State.modQue_fab (q : Nat) (f : Que → Que) : (s.modQue q f).fab = s.fab := rfl
@[simp] theorem State.modQue_rcl (q : Nat) (f : Que → Que) : (s.modQue q f).rcl = s.rcl := rfl
@[simp] theorem State.modQue_err (q : Nat) (f : Que → Que) : (s.modQue q f).err = s.err := rfl
@[simp] theorem State.modQue_sec (q : Nat) (f : Que → Que) : (s.modQue q f).sec = s.sec := rfl
@[simp] theorem State.modQue_rst (q : Nat) (f : Que → Que) : (s.modQue q f).rst = s.rst := rfl
@[simp] theorem State.modQue_exp (q : Nat) (f : Que → Que) : (s.modQue q f).exp = s.exp := rfl
@[simp] theorem State.modQue_ckp (q : Nat) (f : Que → Que) : (s.modQue q f).ckp = s.ckp := rfl
@[simp] theorem State.modQue_pwr (q : Nat) (f : Que → Que) : (s.modQue q f).pwr = s.pwr := rfl
@[simp] theorem State.modQue_tap (q : Nat) (f : Que → Que) : (s.modQue q f).tap = s.tap := rfl
@[simp] theorem State.modQue_out (q : Nat) (f : Que → Que) : (s.modQue q f).out = s.out := rfl
@[simp] theorem State.modQue_free (q : Nat) (f : Que → Que) : (s.modQue q f).free = s.free := rfl
@[simp] theorem State.modQue_pending (q : Nat) (f : Que → Que) : (s.modQue q f).pending = s.pending := rfl

@[simp] theorem State.setQue_part (q : Nat) (x : Que) : (s.setQue q x).part = s.part := rfl
@[simp] theorem State.setQue_pins (q : Nat) (x : Que) : (s.setQue q x).pins = s.pins := rfl
@[simp] theorem State.setQue_hall (q : Nat) (x : Que) : (s.setQue q x).hall = s.hall := rfl
@[simp] theorem State.setQue_regs (q : Nat) (x : Que) : (s.setQue q x).regs = s.regs := rfl
@[simp] theorem State.setQue_stepCtr (q : Nat) (x : Que) : (s.setQue q x).stepCtr = s.stepCtr := rfl
@[simp] theorem State.setQue_level (q : Nat) (x : Que) : (s.setQue q x).level = s.level := rfl
@[simp] theorem State.setQue_t0 (q : Nat) (x : Que) : (s.setQue q x).t0 = s.t0 := rfl
@[simp] theorem State.setQue_t0Poison (q : Nat) (x : Que) : (s.setQue q x).t0Poison = s.t0Poison := rfl
@[simp] theorem State.setQue_syl (q : Nat) (x : Que) : (s.setQue q x).syl = s.syl := rfl
@[simp] theorem State.setQue_load (q : Nat) (x : Que) : (s.setQue q x).load = s.load := rfl
@[simp] theorem State.setQue_bells (q : Nat) (x : Que) : (s.setQue q x).bells = s.bells := rfl
@[simp] theorem State.setQue_asms (q : Nat) (x : Que) : (s.setQue q x).asms = s.asms := rfl
@[simp] theorem State.setQue_flights (q : Nat) (x : Que) : (s.setQue q x).flights = s.flights := rfl
@[simp] theorem State.setQue_slots (q : Nat) (x : Que) : (s.setQue q x).slots = s.slots := rfl
@[simp] theorem State.setQue_sync (q : Nat) (x : Que) : (s.setQue q x).sync = s.sync := rfl
@[simp] theorem State.setQue_tut (q : Nat) (x : Que) : (s.setQue q x).tut = s.tut := rfl
@[simp] theorem State.setQue_lkrs (q : Nat) (x : Que) : (s.setQue q x).lkrs = s.lkrs := rfl
@[simp] theorem State.setQue_pln (q : Nat) (x : Que) : (s.setQue q x).pln = s.pln := rfl
@[simp] theorem State.setQue_mem (q : Nat) (x : Que) : (s.setQue q x).mem = s.mem := rfl
@[simp] theorem State.setQue_stms (q : Nat) (x : Que) : (s.setQue q x).stms = s.stms := rfl
@[simp] theorem State.setQue_crs (q : Nat) (x : Que) : (s.setQue q x).crs = s.crs := rfl
@[simp] theorem State.setQue_crsEng (q : Nat) (x : Que) : (s.setQue q x).crsEng = s.crsEng := rfl
@[simp] theorem State.setQue_eng (q : Nat) (x : Que) : (s.setQue q x).eng = s.eng := rfl
@[simp] theorem State.setQue_bnc (q : Nat) (x : Que) : (s.setQue q x).bnc = s.bnc := rfl
@[simp] theorem State.setQue_mkr (q : Nat) (x : Que) : (s.setQue q x).mkr = s.mkr := rfl
@[simp] theorem State.setQue_fab (q : Nat) (x : Que) : (s.setQue q x).fab = s.fab := rfl
@[simp] theorem State.setQue_rcl (q : Nat) (x : Que) : (s.setQue q x).rcl = s.rcl := rfl
@[simp] theorem State.setQue_err (q : Nat) (x : Que) : (s.setQue q x).err = s.err := rfl
@[simp] theorem State.setQue_sec (q : Nat) (x : Que) : (s.setQue q x).sec = s.sec := rfl
@[simp] theorem State.setQue_rst (q : Nat) (x : Que) : (s.setQue q x).rst = s.rst := rfl
@[simp] theorem State.setQue_exp (q : Nat) (x : Que) : (s.setQue q x).exp = s.exp := rfl
@[simp] theorem State.setQue_ckp (q : Nat) (x : Que) : (s.setQue q x).ckp = s.ckp := rfl
@[simp] theorem State.setQue_pwr (q : Nat) (x : Que) : (s.setQue q x).pwr = s.pwr := rfl
@[simp] theorem State.setQue_tap (q : Nat) (x : Que) : (s.setQue q x).tap = s.tap := rfl
@[simp] theorem State.setQue_out (q : Nat) (x : Que) : (s.setQue q x).out = s.out := rfl
@[simp] theorem State.setQue_free (q : Nat) (x : Que) : (s.setQue q x).free = s.free := rfl
@[simp] theorem State.setQue_pending (q : Nat) (x : Que) : (s.setQue q x).pending = s.pending := rfl

@[simp] theorem State.setAsm_part (n : Nat) (a : Asm) : (s.setAsm n a).part = s.part := rfl
@[simp] theorem State.setAsm_pins (n : Nat) (a : Asm) : (s.setAsm n a).pins = s.pins := rfl
@[simp] theorem State.setAsm_hall (n : Nat) (a : Asm) : (s.setAsm n a).hall = s.hall := rfl
@[simp] theorem State.setAsm_regs (n : Nat) (a : Asm) : (s.setAsm n a).regs = s.regs := rfl
@[simp] theorem State.setAsm_stepCtr (n : Nat) (a : Asm) : (s.setAsm n a).stepCtr = s.stepCtr := rfl
@[simp] theorem State.setAsm_level (n : Nat) (a : Asm) : (s.setAsm n a).level = s.level := rfl
@[simp] theorem State.setAsm_t0 (n : Nat) (a : Asm) : (s.setAsm n a).t0 = s.t0 := rfl
@[simp] theorem State.setAsm_t0Poison (n : Nat) (a : Asm) : (s.setAsm n a).t0Poison = s.t0Poison := rfl
@[simp] theorem State.setAsm_syl (n : Nat) (a : Asm) : (s.setAsm n a).syl = s.syl := rfl
@[simp] theorem State.setAsm_load (n : Nat) (a : Asm) : (s.setAsm n a).load = s.load := rfl
@[simp] theorem State.setAsm_bells (n : Nat) (a : Asm) : (s.setAsm n a).bells = s.bells := rfl
@[simp] theorem State.setAsm_ques (n : Nat) (a : Asm) : (s.setAsm n a).ques = s.ques := rfl
@[simp] theorem State.setAsm_flights (n : Nat) (a : Asm) : (s.setAsm n a).flights = s.flights := rfl
@[simp] theorem State.setAsm_slots (n : Nat) (a : Asm) : (s.setAsm n a).slots = s.slots := rfl
@[simp] theorem State.setAsm_sync (n : Nat) (a : Asm) : (s.setAsm n a).sync = s.sync := rfl
@[simp] theorem State.setAsm_tut (n : Nat) (a : Asm) : (s.setAsm n a).tut = s.tut := rfl
@[simp] theorem State.setAsm_lkrs (n : Nat) (a : Asm) : (s.setAsm n a).lkrs = s.lkrs := rfl
@[simp] theorem State.setAsm_pln (n : Nat) (a : Asm) : (s.setAsm n a).pln = s.pln := rfl
@[simp] theorem State.setAsm_mem (n : Nat) (a : Asm) : (s.setAsm n a).mem = s.mem := rfl
@[simp] theorem State.setAsm_stms (n : Nat) (a : Asm) : (s.setAsm n a).stms = s.stms := rfl
@[simp] theorem State.setAsm_crs (n : Nat) (a : Asm) : (s.setAsm n a).crs = s.crs := rfl
@[simp] theorem State.setAsm_crsEng (n : Nat) (a : Asm) : (s.setAsm n a).crsEng = s.crsEng := rfl
@[simp] theorem State.setAsm_eng (n : Nat) (a : Asm) : (s.setAsm n a).eng = s.eng := rfl
@[simp] theorem State.setAsm_bnc (n : Nat) (a : Asm) : (s.setAsm n a).bnc = s.bnc := rfl
@[simp] theorem State.setAsm_mkr (n : Nat) (a : Asm) : (s.setAsm n a).mkr = s.mkr := rfl
@[simp] theorem State.setAsm_fab (n : Nat) (a : Asm) : (s.setAsm n a).fab = s.fab := rfl
@[simp] theorem State.setAsm_rcl (n : Nat) (a : Asm) : (s.setAsm n a).rcl = s.rcl := rfl
@[simp] theorem State.setAsm_err (n : Nat) (a : Asm) : (s.setAsm n a).err = s.err := rfl
@[simp] theorem State.setAsm_sec (n : Nat) (a : Asm) : (s.setAsm n a).sec = s.sec := rfl
@[simp] theorem State.setAsm_rst (n : Nat) (a : Asm) : (s.setAsm n a).rst = s.rst := rfl
@[simp] theorem State.setAsm_exp (n : Nat) (a : Asm) : (s.setAsm n a).exp = s.exp := rfl
@[simp] theorem State.setAsm_ckp (n : Nat) (a : Asm) : (s.setAsm n a).ckp = s.ckp := rfl
@[simp] theorem State.setAsm_pwr (n : Nat) (a : Asm) : (s.setAsm n a).pwr = s.pwr := rfl
@[simp] theorem State.setAsm_tap (n : Nat) (a : Asm) : (s.setAsm n a).tap = s.tap := rfl
@[simp] theorem State.setAsm_out (n : Nat) (a : Asm) : (s.setAsm n a).out = s.out := rfl
@[simp] theorem State.setAsm_free (n : Nat) (a : Asm) : (s.setAsm n a).free = s.free := rfl
@[simp] theorem State.setAsm_pending (n : Nat) (a : Asm) : (s.setAsm n a).pending = s.pending := rfl

@[simp] theorem State.setStm_part (c : Nat) (x : Stream) : (s.setStm c x).part = s.part := rfl
@[simp] theorem State.setStm_pins (c : Nat) (x : Stream) : (s.setStm c x).pins = s.pins := rfl
@[simp] theorem State.setStm_hall (c : Nat) (x : Stream) : (s.setStm c x).hall = s.hall := rfl
@[simp] theorem State.setStm_regs (c : Nat) (x : Stream) : (s.setStm c x).regs = s.regs := rfl
@[simp] theorem State.setStm_stepCtr (c : Nat) (x : Stream) : (s.setStm c x).stepCtr = s.stepCtr := rfl
@[simp] theorem State.setStm_level (c : Nat) (x : Stream) : (s.setStm c x).level = s.level := rfl
@[simp] theorem State.setStm_t0 (c : Nat) (x : Stream) : (s.setStm c x).t0 = s.t0 := rfl
@[simp] theorem State.setStm_t0Poison (c : Nat) (x : Stream) : (s.setStm c x).t0Poison = s.t0Poison := rfl
@[simp] theorem State.setStm_syl (c : Nat) (x : Stream) : (s.setStm c x).syl = s.syl := rfl
@[simp] theorem State.setStm_load (c : Nat) (x : Stream) : (s.setStm c x).load = s.load := rfl
@[simp] theorem State.setStm_bells (c : Nat) (x : Stream) : (s.setStm c x).bells = s.bells := rfl
@[simp] theorem State.setStm_asms (c : Nat) (x : Stream) : (s.setStm c x).asms = s.asms := rfl
@[simp] theorem State.setStm_ques (c : Nat) (x : Stream) : (s.setStm c x).ques = s.ques := rfl
@[simp] theorem State.setStm_flights (c : Nat) (x : Stream) : (s.setStm c x).flights = s.flights := rfl
@[simp] theorem State.setStm_slots (c : Nat) (x : Stream) : (s.setStm c x).slots = s.slots := rfl
@[simp] theorem State.setStm_sync (c : Nat) (x : Stream) : (s.setStm c x).sync = s.sync := rfl
@[simp] theorem State.setStm_tut (c : Nat) (x : Stream) : (s.setStm c x).tut = s.tut := rfl
@[simp] theorem State.setStm_lkrs (c : Nat) (x : Stream) : (s.setStm c x).lkrs = s.lkrs := rfl
@[simp] theorem State.setStm_pln (c : Nat) (x : Stream) : (s.setStm c x).pln = s.pln := rfl
@[simp] theorem State.setStm_mem (c : Nat) (x : Stream) : (s.setStm c x).mem = s.mem := rfl
@[simp] theorem State.setStm_crs (c : Nat) (x : Stream) : (s.setStm c x).crs = s.crs := rfl
@[simp] theorem State.setStm_crsEng (c : Nat) (x : Stream) : (s.setStm c x).crsEng = s.crsEng := rfl
@[simp] theorem State.setStm_eng (c : Nat) (x : Stream) : (s.setStm c x).eng = s.eng := rfl
@[simp] theorem State.setStm_bnc (c : Nat) (x : Stream) : (s.setStm c x).bnc = s.bnc := rfl
@[simp] theorem State.setStm_mkr (c : Nat) (x : Stream) : (s.setStm c x).mkr = s.mkr := rfl
@[simp] theorem State.setStm_fab (c : Nat) (x : Stream) : (s.setStm c x).fab = s.fab := rfl
@[simp] theorem State.setStm_rcl (c : Nat) (x : Stream) : (s.setStm c x).rcl = s.rcl := rfl
@[simp] theorem State.setStm_err (c : Nat) (x : Stream) : (s.setStm c x).err = s.err := rfl
@[simp] theorem State.setStm_sec (c : Nat) (x : Stream) : (s.setStm c x).sec = s.sec := rfl
@[simp] theorem State.setStm_rst (c : Nat) (x : Stream) : (s.setStm c x).rst = s.rst := rfl
@[simp] theorem State.setStm_exp (c : Nat) (x : Stream) : (s.setStm c x).exp = s.exp := rfl
@[simp] theorem State.setStm_ckp (c : Nat) (x : Stream) : (s.setStm c x).ckp = s.ckp := rfl
@[simp] theorem State.setStm_pwr (c : Nat) (x : Stream) : (s.setStm c x).pwr = s.pwr := rfl
@[simp] theorem State.setStm_tap (c : Nat) (x : Stream) : (s.setStm c x).tap = s.tap := rfl
@[simp] theorem State.setStm_out (c : Nat) (x : Stream) : (s.setStm c x).out = s.out := rfl
@[simp] theorem State.setStm_free (c : Nat) (x : Stream) : (s.setStm c x).free = s.free := rfl
@[simp] theorem State.setStm_pending (c : Nat) (x : Stream) : (s.setStm c x).pending = s.pending := rfl

@[simp] theorem State.modStm_part (c : Nat) (f : Stream → Stream) : (s.modStm c f).part = s.part := rfl
@[simp] theorem State.modStm_pins (c : Nat) (f : Stream → Stream) : (s.modStm c f).pins = s.pins := rfl
@[simp] theorem State.modStm_hall (c : Nat) (f : Stream → Stream) : (s.modStm c f).hall = s.hall := rfl
@[simp] theorem State.modStm_regs (c : Nat) (f : Stream → Stream) : (s.modStm c f).regs = s.regs := rfl
@[simp] theorem State.modStm_stepCtr (c : Nat) (f : Stream → Stream) : (s.modStm c f).stepCtr = s.stepCtr := rfl
@[simp] theorem State.modStm_level (c : Nat) (f : Stream → Stream) : (s.modStm c f).level = s.level := rfl
@[simp] theorem State.modStm_t0 (c : Nat) (f : Stream → Stream) : (s.modStm c f).t0 = s.t0 := rfl
@[simp] theorem State.modStm_t0Poison (c : Nat) (f : Stream → Stream) : (s.modStm c f).t0Poison = s.t0Poison := rfl
@[simp] theorem State.modStm_syl (c : Nat) (f : Stream → Stream) : (s.modStm c f).syl = s.syl := rfl
@[simp] theorem State.modStm_load (c : Nat) (f : Stream → Stream) : (s.modStm c f).load = s.load := rfl
@[simp] theorem State.modStm_bells (c : Nat) (f : Stream → Stream) : (s.modStm c f).bells = s.bells := rfl
@[simp] theorem State.modStm_asms (c : Nat) (f : Stream → Stream) : (s.modStm c f).asms = s.asms := rfl
@[simp] theorem State.modStm_ques (c : Nat) (f : Stream → Stream) : (s.modStm c f).ques = s.ques := rfl
@[simp] theorem State.modStm_flights (c : Nat) (f : Stream → Stream) : (s.modStm c f).flights = s.flights := rfl
@[simp] theorem State.modStm_slots (c : Nat) (f : Stream → Stream) : (s.modStm c f).slots = s.slots := rfl
@[simp] theorem State.modStm_sync (c : Nat) (f : Stream → Stream) : (s.modStm c f).sync = s.sync := rfl
@[simp] theorem State.modStm_tut (c : Nat) (f : Stream → Stream) : (s.modStm c f).tut = s.tut := rfl
@[simp] theorem State.modStm_lkrs (c : Nat) (f : Stream → Stream) : (s.modStm c f).lkrs = s.lkrs := rfl
@[simp] theorem State.modStm_pln (c : Nat) (f : Stream → Stream) : (s.modStm c f).pln = s.pln := rfl
@[simp] theorem State.modStm_mem (c : Nat) (f : Stream → Stream) : (s.modStm c f).mem = s.mem := rfl
@[simp] theorem State.modStm_crs (c : Nat) (f : Stream → Stream) : (s.modStm c f).crs = s.crs := rfl
@[simp] theorem State.modStm_crsEng (c : Nat) (f : Stream → Stream) : (s.modStm c f).crsEng = s.crsEng := rfl
@[simp] theorem State.modStm_eng (c : Nat) (f : Stream → Stream) : (s.modStm c f).eng = s.eng := rfl
@[simp] theorem State.modStm_bnc (c : Nat) (f : Stream → Stream) : (s.modStm c f).bnc = s.bnc := rfl
@[simp] theorem State.modStm_mkr (c : Nat) (f : Stream → Stream) : (s.modStm c f).mkr = s.mkr := rfl
@[simp] theorem State.modStm_fab (c : Nat) (f : Stream → Stream) : (s.modStm c f).fab = s.fab := rfl
@[simp] theorem State.modStm_rcl (c : Nat) (f : Stream → Stream) : (s.modStm c f).rcl = s.rcl := rfl
@[simp] theorem State.modStm_err (c : Nat) (f : Stream → Stream) : (s.modStm c f).err = s.err := rfl
@[simp] theorem State.modStm_sec (c : Nat) (f : Stream → Stream) : (s.modStm c f).sec = s.sec := rfl
@[simp] theorem State.modStm_rst (c : Nat) (f : Stream → Stream) : (s.modStm c f).rst = s.rst := rfl
@[simp] theorem State.modStm_exp (c : Nat) (f : Stream → Stream) : (s.modStm c f).exp = s.exp := rfl
@[simp] theorem State.modStm_ckp (c : Nat) (f : Stream → Stream) : (s.modStm c f).ckp = s.ckp := rfl
@[simp] theorem State.modStm_pwr (c : Nat) (f : Stream → Stream) : (s.modStm c f).pwr = s.pwr := rfl
@[simp] theorem State.modStm_tap (c : Nat) (f : Stream → Stream) : (s.modStm c f).tap = s.tap := rfl
@[simp] theorem State.modStm_out (c : Nat) (f : Stream → Stream) : (s.modStm c f).out = s.out := rfl
@[simp] theorem State.modStm_free (c : Nat) (f : Stream → Stream) : (s.modStm c f).free = s.free := rfl
@[simp] theorem State.modStm_pending (c : Nat) (f : Stream → Stream) : (s.modStm c f).pending = s.pending := rfl

@[simp] theorem State.setCr_part (k : Nat) (x : Courier) : (s.setCr k x).part = s.part := rfl
@[simp] theorem State.setCr_pins (k : Nat) (x : Courier) : (s.setCr k x).pins = s.pins := rfl
@[simp] theorem State.setCr_hall (k : Nat) (x : Courier) : (s.setCr k x).hall = s.hall := rfl
@[simp] theorem State.setCr_regs (k : Nat) (x : Courier) : (s.setCr k x).regs = s.regs := rfl
@[simp] theorem State.setCr_stepCtr (k : Nat) (x : Courier) : (s.setCr k x).stepCtr = s.stepCtr := rfl
@[simp] theorem State.setCr_level (k : Nat) (x : Courier) : (s.setCr k x).level = s.level := rfl
@[simp] theorem State.setCr_t0 (k : Nat) (x : Courier) : (s.setCr k x).t0 = s.t0 := rfl
@[simp] theorem State.setCr_t0Poison (k : Nat) (x : Courier) : (s.setCr k x).t0Poison = s.t0Poison := rfl
@[simp] theorem State.setCr_syl (k : Nat) (x : Courier) : (s.setCr k x).syl = s.syl := rfl
@[simp] theorem State.setCr_load (k : Nat) (x : Courier) : (s.setCr k x).load = s.load := rfl
@[simp] theorem State.setCr_bells (k : Nat) (x : Courier) : (s.setCr k x).bells = s.bells := rfl
@[simp] theorem State.setCr_asms (k : Nat) (x : Courier) : (s.setCr k x).asms = s.asms := rfl
@[simp] theorem State.setCr_ques (k : Nat) (x : Courier) : (s.setCr k x).ques = s.ques := rfl
@[simp] theorem State.setCr_flights (k : Nat) (x : Courier) : (s.setCr k x).flights = s.flights := rfl
@[simp] theorem State.setCr_slots (k : Nat) (x : Courier) : (s.setCr k x).slots = s.slots := rfl
@[simp] theorem State.setCr_sync (k : Nat) (x : Courier) : (s.setCr k x).sync = s.sync := rfl
@[simp] theorem State.setCr_tut (k : Nat) (x : Courier) : (s.setCr k x).tut = s.tut := rfl
@[simp] theorem State.setCr_lkrs (k : Nat) (x : Courier) : (s.setCr k x).lkrs = s.lkrs := rfl
@[simp] theorem State.setCr_pln (k : Nat) (x : Courier) : (s.setCr k x).pln = s.pln := rfl
@[simp] theorem State.setCr_mem (k : Nat) (x : Courier) : (s.setCr k x).mem = s.mem := rfl
@[simp] theorem State.setCr_stms (k : Nat) (x : Courier) : (s.setCr k x).stms = s.stms := rfl
@[simp] theorem State.setCr_crsEng (k : Nat) (x : Courier) : (s.setCr k x).crsEng = s.crsEng := rfl
@[simp] theorem State.setCr_eng (k : Nat) (x : Courier) : (s.setCr k x).eng = s.eng := rfl
@[simp] theorem State.setCr_bnc (k : Nat) (x : Courier) : (s.setCr k x).bnc = s.bnc := rfl
@[simp] theorem State.setCr_mkr (k : Nat) (x : Courier) : (s.setCr k x).mkr = s.mkr := rfl
@[simp] theorem State.setCr_fab (k : Nat) (x : Courier) : (s.setCr k x).fab = s.fab := rfl
@[simp] theorem State.setCr_rcl (k : Nat) (x : Courier) : (s.setCr k x).rcl = s.rcl := rfl
@[simp] theorem State.setCr_err (k : Nat) (x : Courier) : (s.setCr k x).err = s.err := rfl
@[simp] theorem State.setCr_sec (k : Nat) (x : Courier) : (s.setCr k x).sec = s.sec := rfl
@[simp] theorem State.setCr_rst (k : Nat) (x : Courier) : (s.setCr k x).rst = s.rst := rfl
@[simp] theorem State.setCr_exp (k : Nat) (x : Courier) : (s.setCr k x).exp = s.exp := rfl
@[simp] theorem State.setCr_ckp (k : Nat) (x : Courier) : (s.setCr k x).ckp = s.ckp := rfl
@[simp] theorem State.setCr_pwr (k : Nat) (x : Courier) : (s.setCr k x).pwr = s.pwr := rfl
@[simp] theorem State.setCr_tap (k : Nat) (x : Courier) : (s.setCr k x).tap = s.tap := rfl
@[simp] theorem State.setCr_out (k : Nat) (x : Courier) : (s.setCr k x).out = s.out := rfl
@[simp] theorem State.setCr_free (k : Nat) (x : Courier) : (s.setCr k x).free = s.free := rfl
@[simp] theorem State.setCr_pending (k : Nat) (x : Courier) : (s.setCr k x).pending = s.pending := rfl

@[simp] theorem State.modCr_part (k : Nat) (f : Courier → Courier) : (s.modCr k f).part = s.part := rfl
@[simp] theorem State.modCr_pins (k : Nat) (f : Courier → Courier) : (s.modCr k f).pins = s.pins := rfl
@[simp] theorem State.modCr_hall (k : Nat) (f : Courier → Courier) : (s.modCr k f).hall = s.hall := rfl
@[simp] theorem State.modCr_regs (k : Nat) (f : Courier → Courier) : (s.modCr k f).regs = s.regs := rfl
@[simp] theorem State.modCr_stepCtr (k : Nat) (f : Courier → Courier) : (s.modCr k f).stepCtr = s.stepCtr := rfl
@[simp] theorem State.modCr_level (k : Nat) (f : Courier → Courier) : (s.modCr k f).level = s.level := rfl
@[simp] theorem State.modCr_t0 (k : Nat) (f : Courier → Courier) : (s.modCr k f).t0 = s.t0 := rfl
@[simp] theorem State.modCr_t0Poison (k : Nat) (f : Courier → Courier) : (s.modCr k f).t0Poison = s.t0Poison := rfl
@[simp] theorem State.modCr_syl (k : Nat) (f : Courier → Courier) : (s.modCr k f).syl = s.syl := rfl
@[simp] theorem State.modCr_load (k : Nat) (f : Courier → Courier) : (s.modCr k f).load = s.load := rfl
@[simp] theorem State.modCr_bells (k : Nat) (f : Courier → Courier) : (s.modCr k f).bells = s.bells := rfl
@[simp] theorem State.modCr_asms (k : Nat) (f : Courier → Courier) : (s.modCr k f).asms = s.asms := rfl
@[simp] theorem State.modCr_ques (k : Nat) (f : Courier → Courier) : (s.modCr k f).ques = s.ques := rfl
@[simp] theorem State.modCr_flights (k : Nat) (f : Courier → Courier) : (s.modCr k f).flights = s.flights := rfl
@[simp] theorem State.modCr_slots (k : Nat) (f : Courier → Courier) : (s.modCr k f).slots = s.slots := rfl
@[simp] theorem State.modCr_sync (k : Nat) (f : Courier → Courier) : (s.modCr k f).sync = s.sync := rfl
@[simp] theorem State.modCr_tut (k : Nat) (f : Courier → Courier) : (s.modCr k f).tut = s.tut := rfl
@[simp] theorem State.modCr_lkrs (k : Nat) (f : Courier → Courier) : (s.modCr k f).lkrs = s.lkrs := rfl
@[simp] theorem State.modCr_pln (k : Nat) (f : Courier → Courier) : (s.modCr k f).pln = s.pln := rfl
@[simp] theorem State.modCr_mem (k : Nat) (f : Courier → Courier) : (s.modCr k f).mem = s.mem := rfl
@[simp] theorem State.modCr_stms (k : Nat) (f : Courier → Courier) : (s.modCr k f).stms = s.stms := rfl
@[simp] theorem State.modCr_crsEng (k : Nat) (f : Courier → Courier) : (s.modCr k f).crsEng = s.crsEng := rfl
@[simp] theorem State.modCr_eng (k : Nat) (f : Courier → Courier) : (s.modCr k f).eng = s.eng := rfl
@[simp] theorem State.modCr_bnc (k : Nat) (f : Courier → Courier) : (s.modCr k f).bnc = s.bnc := rfl
@[simp] theorem State.modCr_mkr (k : Nat) (f : Courier → Courier) : (s.modCr k f).mkr = s.mkr := rfl
@[simp] theorem State.modCr_fab (k : Nat) (f : Courier → Courier) : (s.modCr k f).fab = s.fab := rfl
@[simp] theorem State.modCr_rcl (k : Nat) (f : Courier → Courier) : (s.modCr k f).rcl = s.rcl := rfl
@[simp] theorem State.modCr_err (k : Nat) (f : Courier → Courier) : (s.modCr k f).err = s.err := rfl
@[simp] theorem State.modCr_sec (k : Nat) (f : Courier → Courier) : (s.modCr k f).sec = s.sec := rfl
@[simp] theorem State.modCr_rst (k : Nat) (f : Courier → Courier) : (s.modCr k f).rst = s.rst := rfl
@[simp] theorem State.modCr_exp (k : Nat) (f : Courier → Courier) : (s.modCr k f).exp = s.exp := rfl
@[simp] theorem State.modCr_ckp (k : Nat) (f : Courier → Courier) : (s.modCr k f).ckp = s.ckp := rfl
@[simp] theorem State.modCr_pwr (k : Nat) (f : Courier → Courier) : (s.modCr k f).pwr = s.pwr := rfl
@[simp] theorem State.modCr_tap (k : Nat) (f : Courier → Courier) : (s.modCr k f).tap = s.tap := rfl
@[simp] theorem State.modCr_out (k : Nat) (f : Courier → Courier) : (s.modCr k f).out = s.out := rfl
@[simp] theorem State.modCr_free (k : Nat) (f : Courier → Courier) : (s.modCr k f).free = s.free := rfl
@[simp] theorem State.modCr_pending (k : Nat) (f : Courier → Courier) : (s.modCr k f).pending = s.pending := rfl

@[simp] theorem State.setLkr_part (l : Nat) (x : Locker) : (s.setLkr l x).part = s.part := rfl
@[simp] theorem State.setLkr_pins (l : Nat) (x : Locker) : (s.setLkr l x).pins = s.pins := rfl
@[simp] theorem State.setLkr_hall (l : Nat) (x : Locker) : (s.setLkr l x).hall = s.hall := rfl
@[simp] theorem State.setLkr_regs (l : Nat) (x : Locker) : (s.setLkr l x).regs = s.regs := rfl
@[simp] theorem State.setLkr_stepCtr (l : Nat) (x : Locker) : (s.setLkr l x).stepCtr = s.stepCtr := rfl
@[simp] theorem State.setLkr_level (l : Nat) (x : Locker) : (s.setLkr l x).level = s.level := rfl
@[simp] theorem State.setLkr_t0 (l : Nat) (x : Locker) : (s.setLkr l x).t0 = s.t0 := rfl
@[simp] theorem State.setLkr_t0Poison (l : Nat) (x : Locker) : (s.setLkr l x).t0Poison = s.t0Poison := rfl
@[simp] theorem State.setLkr_syl (l : Nat) (x : Locker) : (s.setLkr l x).syl = s.syl := rfl
@[simp] theorem State.setLkr_load (l : Nat) (x : Locker) : (s.setLkr l x).load = s.load := rfl
@[simp] theorem State.setLkr_bells (l : Nat) (x : Locker) : (s.setLkr l x).bells = s.bells := rfl
@[simp] theorem State.setLkr_asms (l : Nat) (x : Locker) : (s.setLkr l x).asms = s.asms := rfl
@[simp] theorem State.setLkr_ques (l : Nat) (x : Locker) : (s.setLkr l x).ques = s.ques := rfl
@[simp] theorem State.setLkr_flights (l : Nat) (x : Locker) : (s.setLkr l x).flights = s.flights := rfl
@[simp] theorem State.setLkr_slots (l : Nat) (x : Locker) : (s.setLkr l x).slots = s.slots := rfl
@[simp] theorem State.setLkr_sync (l : Nat) (x : Locker) : (s.setLkr l x).sync = s.sync := rfl
@[simp] theorem State.setLkr_tut (l : Nat) (x : Locker) : (s.setLkr l x).tut = s.tut := rfl
@[simp] theorem State.setLkr_pln (l : Nat) (x : Locker) : (s.setLkr l x).pln = s.pln := rfl
@[simp] theorem State.setLkr_mem (l : Nat) (x : Locker) : (s.setLkr l x).mem = s.mem := rfl
@[simp] theorem State.setLkr_stms (l : Nat) (x : Locker) : (s.setLkr l x).stms = s.stms := rfl
@[simp] theorem State.setLkr_crs (l : Nat) (x : Locker) : (s.setLkr l x).crs = s.crs := rfl
@[simp] theorem State.setLkr_crsEng (l : Nat) (x : Locker) : (s.setLkr l x).crsEng = s.crsEng := rfl
@[simp] theorem State.setLkr_eng (l : Nat) (x : Locker) : (s.setLkr l x).eng = s.eng := rfl
@[simp] theorem State.setLkr_bnc (l : Nat) (x : Locker) : (s.setLkr l x).bnc = s.bnc := rfl
@[simp] theorem State.setLkr_mkr (l : Nat) (x : Locker) : (s.setLkr l x).mkr = s.mkr := rfl
@[simp] theorem State.setLkr_fab (l : Nat) (x : Locker) : (s.setLkr l x).fab = s.fab := rfl
@[simp] theorem State.setLkr_rcl (l : Nat) (x : Locker) : (s.setLkr l x).rcl = s.rcl := rfl
@[simp] theorem State.setLkr_err (l : Nat) (x : Locker) : (s.setLkr l x).err = s.err := rfl
@[simp] theorem State.setLkr_sec (l : Nat) (x : Locker) : (s.setLkr l x).sec = s.sec := rfl
@[simp] theorem State.setLkr_rst (l : Nat) (x : Locker) : (s.setLkr l x).rst = s.rst := rfl
@[simp] theorem State.setLkr_exp (l : Nat) (x : Locker) : (s.setLkr l x).exp = s.exp := rfl
@[simp] theorem State.setLkr_ckp (l : Nat) (x : Locker) : (s.setLkr l x).ckp = s.ckp := rfl
@[simp] theorem State.setLkr_pwr (l : Nat) (x : Locker) : (s.setLkr l x).pwr = s.pwr := rfl
@[simp] theorem State.setLkr_tap (l : Nat) (x : Locker) : (s.setLkr l x).tap = s.tap := rfl
@[simp] theorem State.setLkr_out (l : Nat) (x : Locker) : (s.setLkr l x).out = s.out := rfl
@[simp] theorem State.setLkr_free (l : Nat) (x : Locker) : (s.setLkr l x).free = s.free := rfl
@[simp] theorem State.setLkr_pending (l : Nat) (x : Locker) : (s.setLkr l x).pending = s.pending := rfl

@[simp] theorem State.modLkr_part (l : Nat) (f : Locker → Locker) : (s.modLkr l f).part = s.part := rfl
@[simp] theorem State.modLkr_pins (l : Nat) (f : Locker → Locker) : (s.modLkr l f).pins = s.pins := rfl
@[simp] theorem State.modLkr_hall (l : Nat) (f : Locker → Locker) : (s.modLkr l f).hall = s.hall := rfl
@[simp] theorem State.modLkr_regs (l : Nat) (f : Locker → Locker) : (s.modLkr l f).regs = s.regs := rfl
@[simp] theorem State.modLkr_stepCtr (l : Nat) (f : Locker → Locker) : (s.modLkr l f).stepCtr = s.stepCtr := rfl
@[simp] theorem State.modLkr_level (l : Nat) (f : Locker → Locker) : (s.modLkr l f).level = s.level := rfl
@[simp] theorem State.modLkr_t0 (l : Nat) (f : Locker → Locker) : (s.modLkr l f).t0 = s.t0 := rfl
@[simp] theorem State.modLkr_t0Poison (l : Nat) (f : Locker → Locker) : (s.modLkr l f).t0Poison = s.t0Poison := rfl
@[simp] theorem State.modLkr_syl (l : Nat) (f : Locker → Locker) : (s.modLkr l f).syl = s.syl := rfl
@[simp] theorem State.modLkr_load (l : Nat) (f : Locker → Locker) : (s.modLkr l f).load = s.load := rfl
@[simp] theorem State.modLkr_bells (l : Nat) (f : Locker → Locker) : (s.modLkr l f).bells = s.bells := rfl
@[simp] theorem State.modLkr_asms (l : Nat) (f : Locker → Locker) : (s.modLkr l f).asms = s.asms := rfl
@[simp] theorem State.modLkr_ques (l : Nat) (f : Locker → Locker) : (s.modLkr l f).ques = s.ques := rfl
@[simp] theorem State.modLkr_flights (l : Nat) (f : Locker → Locker) : (s.modLkr l f).flights = s.flights := rfl
@[simp] theorem State.modLkr_slots (l : Nat) (f : Locker → Locker) : (s.modLkr l f).slots = s.slots := rfl
@[simp] theorem State.modLkr_sync (l : Nat) (f : Locker → Locker) : (s.modLkr l f).sync = s.sync := rfl
@[simp] theorem State.modLkr_tut (l : Nat) (f : Locker → Locker) : (s.modLkr l f).tut = s.tut := rfl
@[simp] theorem State.modLkr_pln (l : Nat) (f : Locker → Locker) : (s.modLkr l f).pln = s.pln := rfl
@[simp] theorem State.modLkr_mem (l : Nat) (f : Locker → Locker) : (s.modLkr l f).mem = s.mem := rfl
@[simp] theorem State.modLkr_stms (l : Nat) (f : Locker → Locker) : (s.modLkr l f).stms = s.stms := rfl
@[simp] theorem State.modLkr_crs (l : Nat) (f : Locker → Locker) : (s.modLkr l f).crs = s.crs := rfl
@[simp] theorem State.modLkr_crsEng (l : Nat) (f : Locker → Locker) : (s.modLkr l f).crsEng = s.crsEng := rfl
@[simp] theorem State.modLkr_eng (l : Nat) (f : Locker → Locker) : (s.modLkr l f).eng = s.eng := rfl
@[simp] theorem State.modLkr_bnc (l : Nat) (f : Locker → Locker) : (s.modLkr l f).bnc = s.bnc := rfl
@[simp] theorem State.modLkr_mkr (l : Nat) (f : Locker → Locker) : (s.modLkr l f).mkr = s.mkr := rfl
@[simp] theorem State.modLkr_fab (l : Nat) (f : Locker → Locker) : (s.modLkr l f).fab = s.fab := rfl
@[simp] theorem State.modLkr_rcl (l : Nat) (f : Locker → Locker) : (s.modLkr l f).rcl = s.rcl := rfl
@[simp] theorem State.modLkr_err (l : Nat) (f : Locker → Locker) : (s.modLkr l f).err = s.err := rfl
@[simp] theorem State.modLkr_sec (l : Nat) (f : Locker → Locker) : (s.modLkr l f).sec = s.sec := rfl
@[simp] theorem State.modLkr_rst (l : Nat) (f : Locker → Locker) : (s.modLkr l f).rst = s.rst := rfl
@[simp] theorem State.modLkr_exp (l : Nat) (f : Locker → Locker) : (s.modLkr l f).exp = s.exp := rfl
@[simp] theorem State.modLkr_ckp (l : Nat) (f : Locker → Locker) : (s.modLkr l f).ckp = s.ckp := rfl
@[simp] theorem State.modLkr_pwr (l : Nat) (f : Locker → Locker) : (s.modLkr l f).pwr = s.pwr := rfl
@[simp] theorem State.modLkr_tap (l : Nat) (f : Locker → Locker) : (s.modLkr l f).tap = s.tap := rfl
@[simp] theorem State.modLkr_out (l : Nat) (f : Locker → Locker) : (s.modLkr l f).out = s.out := rfl
@[simp] theorem State.modLkr_free (l : Nat) (f : Locker → Locker) : (s.modLkr l f).free = s.free := rfl
@[simp] theorem State.modLkr_pending (l : Nat) (f : Locker → Locker) : (s.modLkr l f).pending = s.pending := rfl

@[simp] theorem State.setFlink_part (p : Nat) (l : FLink) : (s.setFlink p l).part = s.part := rfl
@[simp] theorem State.setFlink_pins (p : Nat) (l : FLink) : (s.setFlink p l).pins = s.pins := rfl
@[simp] theorem State.setFlink_hall (p : Nat) (l : FLink) : (s.setFlink p l).hall = s.hall := rfl
@[simp] theorem State.setFlink_regs (p : Nat) (l : FLink) : (s.setFlink p l).regs = s.regs := rfl
@[simp] theorem State.setFlink_stepCtr (p : Nat) (l : FLink) : (s.setFlink p l).stepCtr = s.stepCtr := rfl
@[simp] theorem State.setFlink_level (p : Nat) (l : FLink) : (s.setFlink p l).level = s.level := rfl
@[simp] theorem State.setFlink_t0 (p : Nat) (l : FLink) : (s.setFlink p l).t0 = s.t0 := rfl
@[simp] theorem State.setFlink_t0Poison (p : Nat) (l : FLink) : (s.setFlink p l).t0Poison = s.t0Poison := rfl
@[simp] theorem State.setFlink_syl (p : Nat) (l : FLink) : (s.setFlink p l).syl = s.syl := rfl
@[simp] theorem State.setFlink_load (p : Nat) (l : FLink) : (s.setFlink p l).load = s.load := rfl
@[simp] theorem State.setFlink_bells (p : Nat) (l : FLink) : (s.setFlink p l).bells = s.bells := rfl
@[simp] theorem State.setFlink_asms (p : Nat) (l : FLink) : (s.setFlink p l).asms = s.asms := rfl
@[simp] theorem State.setFlink_ques (p : Nat) (l : FLink) : (s.setFlink p l).ques = s.ques := rfl
@[simp] theorem State.setFlink_flights (p : Nat) (l : FLink) : (s.setFlink p l).flights = s.flights := rfl
@[simp] theorem State.setFlink_slots (p : Nat) (l : FLink) : (s.setFlink p l).slots = s.slots := rfl
@[simp] theorem State.setFlink_sync (p : Nat) (l : FLink) : (s.setFlink p l).sync = s.sync := rfl
@[simp] theorem State.setFlink_tut (p : Nat) (l : FLink) : (s.setFlink p l).tut = s.tut := rfl
@[simp] theorem State.setFlink_lkrs (p : Nat) (l : FLink) : (s.setFlink p l).lkrs = s.lkrs := rfl
@[simp] theorem State.setFlink_pln (p : Nat) (l : FLink) : (s.setFlink p l).pln = s.pln := rfl
@[simp] theorem State.setFlink_mem (p : Nat) (l : FLink) : (s.setFlink p l).mem = s.mem := rfl
@[simp] theorem State.setFlink_stms (p : Nat) (l : FLink) : (s.setFlink p l).stms = s.stms := rfl
@[simp] theorem State.setFlink_crs (p : Nat) (l : FLink) : (s.setFlink p l).crs = s.crs := rfl
@[simp] theorem State.setFlink_crsEng (p : Nat) (l : FLink) : (s.setFlink p l).crsEng = s.crsEng := rfl
@[simp] theorem State.setFlink_eng (p : Nat) (l : FLink) : (s.setFlink p l).eng = s.eng := rfl
@[simp] theorem State.setFlink_bnc (p : Nat) (l : FLink) : (s.setFlink p l).bnc = s.bnc := rfl
@[simp] theorem State.setFlink_mkr (p : Nat) (l : FLink) : (s.setFlink p l).mkr = s.mkr := rfl
@[simp] theorem State.setFlink_rcl (p : Nat) (l : FLink) : (s.setFlink p l).rcl = s.rcl := rfl
@[simp] theorem State.setFlink_err (p : Nat) (l : FLink) : (s.setFlink p l).err = s.err := rfl
@[simp] theorem State.setFlink_sec (p : Nat) (l : FLink) : (s.setFlink p l).sec = s.sec := rfl
@[simp] theorem State.setFlink_rst (p : Nat) (l : FLink) : (s.setFlink p l).rst = s.rst := rfl
@[simp] theorem State.setFlink_exp (p : Nat) (l : FLink) : (s.setFlink p l).exp = s.exp := rfl
@[simp] theorem State.setFlink_ckp (p : Nat) (l : FLink) : (s.setFlink p l).ckp = s.ckp := rfl
@[simp] theorem State.setFlink_pwr (p : Nat) (l : FLink) : (s.setFlink p l).pwr = s.pwr := rfl
@[simp] theorem State.setFlink_tap (p : Nat) (l : FLink) : (s.setFlink p l).tap = s.tap := rfl
@[simp] theorem State.setFlink_out (p : Nat) (l : FLink) : (s.setFlink p l).out = s.out := rfl
@[simp] theorem State.setFlink_free (p : Nat) (l : FLink) : (s.setFlink p l).free = s.free := rfl
@[simp] theorem State.setFlink_pending (p : Nat) (l : FLink) : (s.setFlink p l).pending = s.pending := rfl

@[simp] theorem State.modFlink_part (p : Nat) (f : FLink → FLink) : (s.modFlink p f).part = s.part := rfl
@[simp] theorem State.modFlink_pins (p : Nat) (f : FLink → FLink) : (s.modFlink p f).pins = s.pins := rfl
@[simp] theorem State.modFlink_hall (p : Nat) (f : FLink → FLink) : (s.modFlink p f).hall = s.hall := rfl
@[simp] theorem State.modFlink_regs (p : Nat) (f : FLink → FLink) : (s.modFlink p f).regs = s.regs := rfl
@[simp] theorem State.modFlink_stepCtr (p : Nat) (f : FLink → FLink) : (s.modFlink p f).stepCtr = s.stepCtr := rfl
@[simp] theorem State.modFlink_level (p : Nat) (f : FLink → FLink) : (s.modFlink p f).level = s.level := rfl
@[simp] theorem State.modFlink_t0 (p : Nat) (f : FLink → FLink) : (s.modFlink p f).t0 = s.t0 := rfl
@[simp] theorem State.modFlink_t0Poison (p : Nat) (f : FLink → FLink) : (s.modFlink p f).t0Poison = s.t0Poison := rfl
@[simp] theorem State.modFlink_syl (p : Nat) (f : FLink → FLink) : (s.modFlink p f).syl = s.syl := rfl
@[simp] theorem State.modFlink_load (p : Nat) (f : FLink → FLink) : (s.modFlink p f).load = s.load := rfl
@[simp] theorem State.modFlink_bells (p : Nat) (f : FLink → FLink) : (s.modFlink p f).bells = s.bells := rfl
@[simp] theorem State.modFlink_asms (p : Nat) (f : FLink → FLink) : (s.modFlink p f).asms = s.asms := rfl
@[simp] theorem State.modFlink_ques (p : Nat) (f : FLink → FLink) : (s.modFlink p f).ques = s.ques := rfl
@[simp] theorem State.modFlink_flights (p : Nat) (f : FLink → FLink) : (s.modFlink p f).flights = s.flights := rfl
@[simp] theorem State.modFlink_slots (p : Nat) (f : FLink → FLink) : (s.modFlink p f).slots = s.slots := rfl
@[simp] theorem State.modFlink_sync (p : Nat) (f : FLink → FLink) : (s.modFlink p f).sync = s.sync := rfl
@[simp] theorem State.modFlink_tut (p : Nat) (f : FLink → FLink) : (s.modFlink p f).tut = s.tut := rfl
@[simp] theorem State.modFlink_lkrs (p : Nat) (f : FLink → FLink) : (s.modFlink p f).lkrs = s.lkrs := rfl
@[simp] theorem State.modFlink_pln (p : Nat) (f : FLink → FLink) : (s.modFlink p f).pln = s.pln := rfl
@[simp] theorem State.modFlink_mem (p : Nat) (f : FLink → FLink) : (s.modFlink p f).mem = s.mem := rfl
@[simp] theorem State.modFlink_stms (p : Nat) (f : FLink → FLink) : (s.modFlink p f).stms = s.stms := rfl
@[simp] theorem State.modFlink_crs (p : Nat) (f : FLink → FLink) : (s.modFlink p f).crs = s.crs := rfl
@[simp] theorem State.modFlink_crsEng (p : Nat) (f : FLink → FLink) : (s.modFlink p f).crsEng = s.crsEng := rfl
@[simp] theorem State.modFlink_eng (p : Nat) (f : FLink → FLink) : (s.modFlink p f).eng = s.eng := rfl
@[simp] theorem State.modFlink_bnc (p : Nat) (f : FLink → FLink) : (s.modFlink p f).bnc = s.bnc := rfl
@[simp] theorem State.modFlink_mkr (p : Nat) (f : FLink → FLink) : (s.modFlink p f).mkr = s.mkr := rfl
@[simp] theorem State.modFlink_rcl (p : Nat) (f : FLink → FLink) : (s.modFlink p f).rcl = s.rcl := rfl
@[simp] theorem State.modFlink_err (p : Nat) (f : FLink → FLink) : (s.modFlink p f).err = s.err := rfl
@[simp] theorem State.modFlink_sec (p : Nat) (f : FLink → FLink) : (s.modFlink p f).sec = s.sec := rfl
@[simp] theorem State.modFlink_rst (p : Nat) (f : FLink → FLink) : (s.modFlink p f).rst = s.rst := rfl
@[simp] theorem State.modFlink_exp (p : Nat) (f : FLink → FLink) : (s.modFlink p f).exp = s.exp := rfl
@[simp] theorem State.modFlink_ckp (p : Nat) (f : FLink → FLink) : (s.modFlink p f).ckp = s.ckp := rfl
@[simp] theorem State.modFlink_pwr (p : Nat) (f : FLink → FLink) : (s.modFlink p f).pwr = s.pwr := rfl
@[simp] theorem State.modFlink_tap (p : Nat) (f : FLink → FLink) : (s.modFlink p f).tap = s.tap := rfl
@[simp] theorem State.modFlink_out (p : Nat) (f : FLink → FLink) : (s.modFlink p f).out = s.out := rfl
@[simp] theorem State.modFlink_free (p : Nat) (f : FLink → FLink) : (s.modFlink p f).free = s.free := rfl
@[simp] theorem State.modFlink_pending (p : Nat) (f : FLink → FLink) : (s.modFlink p f).pending = s.pending := rfl

@[simp] theorem State.modSec_part (f : SecSt → SecSt) : (s.modSec f).part = s.part := rfl
@[simp] theorem State.modSec_pins (f : SecSt → SecSt) : (s.modSec f).pins = s.pins := rfl
@[simp] theorem State.modSec_hall (f : SecSt → SecSt) : (s.modSec f).hall = s.hall := rfl
@[simp] theorem State.modSec_regs (f : SecSt → SecSt) : (s.modSec f).regs = s.regs := rfl
@[simp] theorem State.modSec_stepCtr (f : SecSt → SecSt) : (s.modSec f).stepCtr = s.stepCtr := rfl
@[simp] theorem State.modSec_level (f : SecSt → SecSt) : (s.modSec f).level = s.level := rfl
@[simp] theorem State.modSec_t0 (f : SecSt → SecSt) : (s.modSec f).t0 = s.t0 := rfl
@[simp] theorem State.modSec_t0Poison (f : SecSt → SecSt) : (s.modSec f).t0Poison = s.t0Poison := rfl
@[simp] theorem State.modSec_syl (f : SecSt → SecSt) : (s.modSec f).syl = s.syl := rfl
@[simp] theorem State.modSec_load (f : SecSt → SecSt) : (s.modSec f).load = s.load := rfl
@[simp] theorem State.modSec_bells (f : SecSt → SecSt) : (s.modSec f).bells = s.bells := rfl
@[simp] theorem State.modSec_asms (f : SecSt → SecSt) : (s.modSec f).asms = s.asms := rfl
@[simp] theorem State.modSec_ques (f : SecSt → SecSt) : (s.modSec f).ques = s.ques := rfl
@[simp] theorem State.modSec_flights (f : SecSt → SecSt) : (s.modSec f).flights = s.flights := rfl
@[simp] theorem State.modSec_slots (f : SecSt → SecSt) : (s.modSec f).slots = s.slots := rfl
@[simp] theorem State.modSec_sync (f : SecSt → SecSt) : (s.modSec f).sync = s.sync := rfl
@[simp] theorem State.modSec_tut (f : SecSt → SecSt) : (s.modSec f).tut = s.tut := rfl
@[simp] theorem State.modSec_lkrs (f : SecSt → SecSt) : (s.modSec f).lkrs = s.lkrs := rfl
@[simp] theorem State.modSec_pln (f : SecSt → SecSt) : (s.modSec f).pln = s.pln := rfl
@[simp] theorem State.modSec_mem (f : SecSt → SecSt) : (s.modSec f).mem = s.mem := rfl
@[simp] theorem State.modSec_stms (f : SecSt → SecSt) : (s.modSec f).stms = s.stms := rfl
@[simp] theorem State.modSec_crs (f : SecSt → SecSt) : (s.modSec f).crs = s.crs := rfl
@[simp] theorem State.modSec_crsEng (f : SecSt → SecSt) : (s.modSec f).crsEng = s.crsEng := rfl
@[simp] theorem State.modSec_eng (f : SecSt → SecSt) : (s.modSec f).eng = s.eng := rfl
@[simp] theorem State.modSec_bnc (f : SecSt → SecSt) : (s.modSec f).bnc = s.bnc := rfl
@[simp] theorem State.modSec_mkr (f : SecSt → SecSt) : (s.modSec f).mkr = s.mkr := rfl
@[simp] theorem State.modSec_fab (f : SecSt → SecSt) : (s.modSec f).fab = s.fab := rfl
@[simp] theorem State.modSec_rcl (f : SecSt → SecSt) : (s.modSec f).rcl = s.rcl := rfl
@[simp] theorem State.modSec_err (f : SecSt → SecSt) : (s.modSec f).err = s.err := rfl
@[simp] theorem State.modSec_rst (f : SecSt → SecSt) : (s.modSec f).rst = s.rst := rfl
@[simp] theorem State.modSec_exp (f : SecSt → SecSt) : (s.modSec f).exp = s.exp := rfl
@[simp] theorem State.modSec_ckp (f : SecSt → SecSt) : (s.modSec f).ckp = s.ckp := rfl
@[simp] theorem State.modSec_pwr (f : SecSt → SecSt) : (s.modSec f).pwr = s.pwr := rfl
@[simp] theorem State.modSec_tap (f : SecSt → SecSt) : (s.modSec f).tap = s.tap := rfl
@[simp] theorem State.modSec_out (f : SecSt → SecSt) : (s.modSec f).out = s.out := rfl
@[simp] theorem State.modSec_free (f : SecSt → SecSt) : (s.modSec f).free = s.free := rfl
@[simp] theorem State.modSec_pending (f : SecSt → SecSt) : (s.modSec f).pending = s.pending := rfl

@[simp] theorem State.modPwr_part (f : PwrSt → PwrSt) : (s.modPwr f).part = s.part := rfl
@[simp] theorem State.modPwr_pins (f : PwrSt → PwrSt) : (s.modPwr f).pins = s.pins := rfl
@[simp] theorem State.modPwr_hall (f : PwrSt → PwrSt) : (s.modPwr f).hall = s.hall := rfl
@[simp] theorem State.modPwr_regs (f : PwrSt → PwrSt) : (s.modPwr f).regs = s.regs := rfl
@[simp] theorem State.modPwr_stepCtr (f : PwrSt → PwrSt) : (s.modPwr f).stepCtr = s.stepCtr := rfl
@[simp] theorem State.modPwr_level (f : PwrSt → PwrSt) : (s.modPwr f).level = s.level := rfl
@[simp] theorem State.modPwr_t0 (f : PwrSt → PwrSt) : (s.modPwr f).t0 = s.t0 := rfl
@[simp] theorem State.modPwr_t0Poison (f : PwrSt → PwrSt) : (s.modPwr f).t0Poison = s.t0Poison := rfl
@[simp] theorem State.modPwr_syl (f : PwrSt → PwrSt) : (s.modPwr f).syl = s.syl := rfl
@[simp] theorem State.modPwr_load (f : PwrSt → PwrSt) : (s.modPwr f).load = s.load := rfl
@[simp] theorem State.modPwr_bells (f : PwrSt → PwrSt) : (s.modPwr f).bells = s.bells := rfl
@[simp] theorem State.modPwr_asms (f : PwrSt → PwrSt) : (s.modPwr f).asms = s.asms := rfl
@[simp] theorem State.modPwr_ques (f : PwrSt → PwrSt) : (s.modPwr f).ques = s.ques := rfl
@[simp] theorem State.modPwr_flights (f : PwrSt → PwrSt) : (s.modPwr f).flights = s.flights := rfl
@[simp] theorem State.modPwr_slots (f : PwrSt → PwrSt) : (s.modPwr f).slots = s.slots := rfl
@[simp] theorem State.modPwr_sync (f : PwrSt → PwrSt) : (s.modPwr f).sync = s.sync := rfl
@[simp] theorem State.modPwr_tut (f : PwrSt → PwrSt) : (s.modPwr f).tut = s.tut := rfl
@[simp] theorem State.modPwr_lkrs (f : PwrSt → PwrSt) : (s.modPwr f).lkrs = s.lkrs := rfl
@[simp] theorem State.modPwr_pln (f : PwrSt → PwrSt) : (s.modPwr f).pln = s.pln := rfl
@[simp] theorem State.modPwr_mem (f : PwrSt → PwrSt) : (s.modPwr f).mem = s.mem := rfl
@[simp] theorem State.modPwr_stms (f : PwrSt → PwrSt) : (s.modPwr f).stms = s.stms := rfl
@[simp] theorem State.modPwr_crs (f : PwrSt → PwrSt) : (s.modPwr f).crs = s.crs := rfl
@[simp] theorem State.modPwr_crsEng (f : PwrSt → PwrSt) : (s.modPwr f).crsEng = s.crsEng := rfl
@[simp] theorem State.modPwr_eng (f : PwrSt → PwrSt) : (s.modPwr f).eng = s.eng := rfl
@[simp] theorem State.modPwr_bnc (f : PwrSt → PwrSt) : (s.modPwr f).bnc = s.bnc := rfl
@[simp] theorem State.modPwr_mkr (f : PwrSt → PwrSt) : (s.modPwr f).mkr = s.mkr := rfl
@[simp] theorem State.modPwr_fab (f : PwrSt → PwrSt) : (s.modPwr f).fab = s.fab := rfl
@[simp] theorem State.modPwr_rcl (f : PwrSt → PwrSt) : (s.modPwr f).rcl = s.rcl := rfl
@[simp] theorem State.modPwr_err (f : PwrSt → PwrSt) : (s.modPwr f).err = s.err := rfl
@[simp] theorem State.modPwr_sec (f : PwrSt → PwrSt) : (s.modPwr f).sec = s.sec := rfl
@[simp] theorem State.modPwr_rst (f : PwrSt → PwrSt) : (s.modPwr f).rst = s.rst := rfl
@[simp] theorem State.modPwr_exp (f : PwrSt → PwrSt) : (s.modPwr f).exp = s.exp := rfl
@[simp] theorem State.modPwr_ckp (f : PwrSt → PwrSt) : (s.modPwr f).ckp = s.ckp := rfl
@[simp] theorem State.modPwr_tap (f : PwrSt → PwrSt) : (s.modPwr f).tap = s.tap := rfl
@[simp] theorem State.modPwr_out (f : PwrSt → PwrSt) : (s.modPwr f).out = s.out := rfl
@[simp] theorem State.modPwr_free (f : PwrSt → PwrSt) : (s.modPwr f).free = s.free := rfl
@[simp] theorem State.modPwr_pending (f : PwrSt → PwrSt) : (s.modPwr f).pending = s.pending := rfl

@[simp] theorem State.modPins_part (f : Pins → Pins) : (s.modPins f).part = s.part := rfl
@[simp] theorem State.modPins_hall (f : Pins → Pins) : (s.modPins f).hall = s.hall := rfl
@[simp] theorem State.modPins_regs (f : Pins → Pins) : (s.modPins f).regs = s.regs := rfl
@[simp] theorem State.modPins_stepCtr (f : Pins → Pins) : (s.modPins f).stepCtr = s.stepCtr := rfl
@[simp] theorem State.modPins_level (f : Pins → Pins) : (s.modPins f).level = s.level := rfl
@[simp] theorem State.modPins_t0 (f : Pins → Pins) : (s.modPins f).t0 = s.t0 := rfl
@[simp] theorem State.modPins_t0Poison (f : Pins → Pins) : (s.modPins f).t0Poison = s.t0Poison := rfl
@[simp] theorem State.modPins_syl (f : Pins → Pins) : (s.modPins f).syl = s.syl := rfl
@[simp] theorem State.modPins_load (f : Pins → Pins) : (s.modPins f).load = s.load := rfl
@[simp] theorem State.modPins_bells (f : Pins → Pins) : (s.modPins f).bells = s.bells := rfl
@[simp] theorem State.modPins_asms (f : Pins → Pins) : (s.modPins f).asms = s.asms := rfl
@[simp] theorem State.modPins_ques (f : Pins → Pins) : (s.modPins f).ques = s.ques := rfl
@[simp] theorem State.modPins_flights (f : Pins → Pins) : (s.modPins f).flights = s.flights := rfl
@[simp] theorem State.modPins_slots (f : Pins → Pins) : (s.modPins f).slots = s.slots := rfl
@[simp] theorem State.modPins_sync (f : Pins → Pins) : (s.modPins f).sync = s.sync := rfl
@[simp] theorem State.modPins_tut (f : Pins → Pins) : (s.modPins f).tut = s.tut := rfl
@[simp] theorem State.modPins_lkrs (f : Pins → Pins) : (s.modPins f).lkrs = s.lkrs := rfl
@[simp] theorem State.modPins_pln (f : Pins → Pins) : (s.modPins f).pln = s.pln := rfl
@[simp] theorem State.modPins_mem (f : Pins → Pins) : (s.modPins f).mem = s.mem := rfl
@[simp] theorem State.modPins_stms (f : Pins → Pins) : (s.modPins f).stms = s.stms := rfl
@[simp] theorem State.modPins_crs (f : Pins → Pins) : (s.modPins f).crs = s.crs := rfl
@[simp] theorem State.modPins_crsEng (f : Pins → Pins) : (s.modPins f).crsEng = s.crsEng := rfl
@[simp] theorem State.modPins_eng (f : Pins → Pins) : (s.modPins f).eng = s.eng := rfl
@[simp] theorem State.modPins_bnc (f : Pins → Pins) : (s.modPins f).bnc = s.bnc := rfl
@[simp] theorem State.modPins_mkr (f : Pins → Pins) : (s.modPins f).mkr = s.mkr := rfl
@[simp] theorem State.modPins_fab (f : Pins → Pins) : (s.modPins f).fab = s.fab := rfl
@[simp] theorem State.modPins_rcl (f : Pins → Pins) : (s.modPins f).rcl = s.rcl := rfl
@[simp] theorem State.modPins_err (f : Pins → Pins) : (s.modPins f).err = s.err := rfl
@[simp] theorem State.modPins_sec (f : Pins → Pins) : (s.modPins f).sec = s.sec := rfl
@[simp] theorem State.modPins_rst (f : Pins → Pins) : (s.modPins f).rst = s.rst := rfl
@[simp] theorem State.modPins_exp (f : Pins → Pins) : (s.modPins f).exp = s.exp := rfl
@[simp] theorem State.modPins_ckp (f : Pins → Pins) : (s.modPins f).ckp = s.ckp := rfl
@[simp] theorem State.modPins_pwr (f : Pins → Pins) : (s.modPins f).pwr = s.pwr := rfl
@[simp] theorem State.modPins_tap (f : Pins → Pins) : (s.modPins f).tap = s.tap := rfl
@[simp] theorem State.modPins_out (f : Pins → Pins) : (s.modPins f).out = s.out := rfl
@[simp] theorem State.modPins_free (f : Pins → Pins) : (s.modPins f).free = s.free := rfl
@[simp] theorem State.modPins_pending (f : Pins → Pins) : (s.modPins f).pending = s.pending := rfl

@[simp] theorem State.modColl_part (k : CKey) (f : Coll → Coll) : (s.modColl k f).part = s.part := rfl
@[simp] theorem State.modColl_pins (k : CKey) (f : Coll → Coll) : (s.modColl k f).pins = s.pins := rfl
@[simp] theorem State.modColl_hall (k : CKey) (f : Coll → Coll) : (s.modColl k f).hall = s.hall := rfl
@[simp] theorem State.modColl_regs (k : CKey) (f : Coll → Coll) : (s.modColl k f).regs = s.regs := rfl
@[simp] theorem State.modColl_stepCtr (k : CKey) (f : Coll → Coll) : (s.modColl k f).stepCtr = s.stepCtr := rfl
@[simp] theorem State.modColl_level (k : CKey) (f : Coll → Coll) : (s.modColl k f).level = s.level := rfl
@[simp] theorem State.modColl_t0 (k : CKey) (f : Coll → Coll) : (s.modColl k f).t0 = s.t0 := rfl
@[simp] theorem State.modColl_t0Poison (k : CKey) (f : Coll → Coll) : (s.modColl k f).t0Poison = s.t0Poison := rfl
@[simp] theorem State.modColl_syl (k : CKey) (f : Coll → Coll) : (s.modColl k f).syl = s.syl := rfl
@[simp] theorem State.modColl_load (k : CKey) (f : Coll → Coll) : (s.modColl k f).load = s.load := rfl
@[simp] theorem State.modColl_bells (k : CKey) (f : Coll → Coll) : (s.modColl k f).bells = s.bells := rfl
@[simp] theorem State.modColl_asms (k : CKey) (f : Coll → Coll) : (s.modColl k f).asms = s.asms := rfl
@[simp] theorem State.modColl_ques (k : CKey) (f : Coll → Coll) : (s.modColl k f).ques = s.ques := rfl
@[simp] theorem State.modColl_flights (k : CKey) (f : Coll → Coll) : (s.modColl k f).flights = s.flights := rfl
@[simp] theorem State.modColl_slots (k : CKey) (f : Coll → Coll) : (s.modColl k f).slots = s.slots := rfl
@[simp] theorem State.modColl_sync (k : CKey) (f : Coll → Coll) : (s.modColl k f).sync = s.sync := rfl
@[simp] theorem State.modColl_tut (k : CKey) (f : Coll → Coll) : (s.modColl k f).tut = s.tut := rfl
@[simp] theorem State.modColl_lkrs (k : CKey) (f : Coll → Coll) : (s.modColl k f).lkrs = s.lkrs := rfl
@[simp] theorem State.modColl_pln (k : CKey) (f : Coll → Coll) : (s.modColl k f).pln = s.pln := rfl
@[simp] theorem State.modColl_mem (k : CKey) (f : Coll → Coll) : (s.modColl k f).mem = s.mem := rfl
@[simp] theorem State.modColl_stms (k : CKey) (f : Coll → Coll) : (s.modColl k f).stms = s.stms := rfl
@[simp] theorem State.modColl_crs (k : CKey) (f : Coll → Coll) : (s.modColl k f).crs = s.crs := rfl
@[simp] theorem State.modColl_crsEng (k : CKey) (f : Coll → Coll) : (s.modColl k f).crsEng = s.crsEng := rfl
@[simp] theorem State.modColl_eng (k : CKey) (f : Coll → Coll) : (s.modColl k f).eng = s.eng := rfl
@[simp] theorem State.modColl_bnc (k : CKey) (f : Coll → Coll) : (s.modColl k f).bnc = s.bnc := rfl
@[simp] theorem State.modColl_mkr (k : CKey) (f : Coll → Coll) : (s.modColl k f).mkr = s.mkr := rfl
@[simp] theorem State.modColl_fab (k : CKey) (f : Coll → Coll) : (s.modColl k f).fab = s.fab := rfl
@[simp] theorem State.modColl_err (k : CKey) (f : Coll → Coll) : (s.modColl k f).err = s.err := rfl
@[simp] theorem State.modColl_sec (k : CKey) (f : Coll → Coll) : (s.modColl k f).sec = s.sec := rfl
@[simp] theorem State.modColl_rst (k : CKey) (f : Coll → Coll) : (s.modColl k f).rst = s.rst := rfl
@[simp] theorem State.modColl_exp (k : CKey) (f : Coll → Coll) : (s.modColl k f).exp = s.exp := rfl
@[simp] theorem State.modColl_ckp (k : CKey) (f : Coll → Coll) : (s.modColl k f).ckp = s.ckp := rfl
@[simp] theorem State.modColl_pwr (k : CKey) (f : Coll → Coll) : (s.modColl k f).pwr = s.pwr := rfl
@[simp] theorem State.modColl_tap (k : CKey) (f : Coll → Coll) : (s.modColl k f).tap = s.tap := rfl
@[simp] theorem State.modColl_out (k : CKey) (f : Coll → Coll) : (s.modColl k f).out = s.out := rfl
@[simp] theorem State.modColl_free (k : CKey) (f : Coll → Coll) : (s.modColl k f).free = s.free := rfl
@[simp] theorem State.modColl_pending (k : CKey) (f : Coll → Coll) : (s.modColl k f).pending = s.pending := rfl

@[simp] theorem State.t0Write_part (a : Nat) (bs : Bytes) : (s.t0Write a bs).part = s.part := rfl
@[simp] theorem State.t0Write_pins (a : Nat) (bs : Bytes) : (s.t0Write a bs).pins = s.pins := rfl
@[simp] theorem State.t0Write_hall (a : Nat) (bs : Bytes) : (s.t0Write a bs).hall = s.hall := rfl
@[simp] theorem State.t0Write_regs (a : Nat) (bs : Bytes) : (s.t0Write a bs).regs = s.regs := rfl
@[simp] theorem State.t0Write_stepCtr (a : Nat) (bs : Bytes) : (s.t0Write a bs).stepCtr = s.stepCtr := rfl
@[simp] theorem State.t0Write_level (a : Nat) (bs : Bytes) : (s.t0Write a bs).level = s.level := rfl
@[simp] theorem State.t0Write_syl (a : Nat) (bs : Bytes) : (s.t0Write a bs).syl = s.syl := rfl
@[simp] theorem State.t0Write_load (a : Nat) (bs : Bytes) : (s.t0Write a bs).load = s.load := rfl
@[simp] theorem State.t0Write_bells (a : Nat) (bs : Bytes) : (s.t0Write a bs).bells = s.bells := rfl
@[simp] theorem State.t0Write_asms (a : Nat) (bs : Bytes) : (s.t0Write a bs).asms = s.asms := rfl
@[simp] theorem State.t0Write_ques (a : Nat) (bs : Bytes) : (s.t0Write a bs).ques = s.ques := rfl
@[simp] theorem State.t0Write_flights (a : Nat) (bs : Bytes) : (s.t0Write a bs).flights = s.flights := rfl
@[simp] theorem State.t0Write_slots (a : Nat) (bs : Bytes) : (s.t0Write a bs).slots = s.slots := rfl
@[simp] theorem State.t0Write_sync (a : Nat) (bs : Bytes) : (s.t0Write a bs).sync = s.sync := rfl
@[simp] theorem State.t0Write_tut (a : Nat) (bs : Bytes) : (s.t0Write a bs).tut = s.tut := rfl
@[simp] theorem State.t0Write_lkrs (a : Nat) (bs : Bytes) : (s.t0Write a bs).lkrs = s.lkrs := rfl
@[simp] theorem State.t0Write_pln (a : Nat) (bs : Bytes) : (s.t0Write a bs).pln = s.pln := rfl
@[simp] theorem State.t0Write_mem (a : Nat) (bs : Bytes) : (s.t0Write a bs).mem = s.mem := rfl
@[simp] theorem State.t0Write_stms (a : Nat) (bs : Bytes) : (s.t0Write a bs).stms = s.stms := rfl
@[simp] theorem State.t0Write_crs (a : Nat) (bs : Bytes) : (s.t0Write a bs).crs = s.crs := rfl
@[simp] theorem State.t0Write_crsEng (a : Nat) (bs : Bytes) : (s.t0Write a bs).crsEng = s.crsEng := rfl
@[simp] theorem State.t0Write_eng (a : Nat) (bs : Bytes) : (s.t0Write a bs).eng = s.eng := rfl
@[simp] theorem State.t0Write_bnc (a : Nat) (bs : Bytes) : (s.t0Write a bs).bnc = s.bnc := rfl
@[simp] theorem State.t0Write_mkr (a : Nat) (bs : Bytes) : (s.t0Write a bs).mkr = s.mkr := rfl
@[simp] theorem State.t0Write_fab (a : Nat) (bs : Bytes) : (s.t0Write a bs).fab = s.fab := rfl
@[simp] theorem State.t0Write_rcl (a : Nat) (bs : Bytes) : (s.t0Write a bs).rcl = s.rcl := rfl
@[simp] theorem State.t0Write_err (a : Nat) (bs : Bytes) : (s.t0Write a bs).err = s.err := rfl
@[simp] theorem State.t0Write_sec (a : Nat) (bs : Bytes) : (s.t0Write a bs).sec = s.sec := rfl
@[simp] theorem State.t0Write_rst (a : Nat) (bs : Bytes) : (s.t0Write a bs).rst = s.rst := rfl
@[simp] theorem State.t0Write_exp (a : Nat) (bs : Bytes) : (s.t0Write a bs).exp = s.exp := rfl
@[simp] theorem State.t0Write_ckp (a : Nat) (bs : Bytes) : (s.t0Write a bs).ckp = s.ckp := rfl
@[simp] theorem State.t0Write_pwr (a : Nat) (bs : Bytes) : (s.t0Write a bs).pwr = s.pwr := rfl
@[simp] theorem State.t0Write_tap (a : Nat) (bs : Bytes) : (s.t0Write a bs).tap = s.tap := rfl
@[simp] theorem State.t0Write_out (a : Nat) (bs : Bytes) : (s.t0Write a bs).out = s.out := rfl
@[simp] theorem State.t0Write_free (a : Nat) (bs : Bytes) : (s.t0Write a bs).free = s.free := rfl
@[simp] theorem State.t0Write_pending (a : Nat) (bs : Bytes) : (s.t0Write a bs).pending = s.pending := rfl

/-! ## The field that an update writes -/

theorem State.setReg_regs (a : Nat) (v : Word) : (s.setReg a v).regs = Tab.put s.regs a v := rfl
theorem State.emit_out (o : PortOut) : (s.emit o).out = s.out ++ [o] := rfl
theorem State.setQue_ques (q : Nat) (x : Que) : (s.setQue q x).ques = Tab.put s.ques q x := rfl
theorem State.modQue_ques (q : Nat) (f : Que → Que) : (s.modQue q f).ques = Tab.put s.ques q (f (s.que q)) := rfl
theorem State.setAsm_asms (n : Nat) (a : Asm) : (s.setAsm n a).asms = Tab.put s.asms n a := rfl
theorem State.setStm_stms (c : Nat) (x : Stream) : (s.setStm c x).stms = Tab.put s.stms c x := rfl
theorem State.modStm_stms (c : Nat) (f : Stream → Stream) : (s.modStm c f).stms = Tab.put s.stms c (f (s.stm c)) := rfl
theorem State.setCr_crs (k : Nat) (x : Courier) : (s.setCr k x).crs = Tab.put s.crs k x := rfl
theorem State.modCr_crs (k : Nat) (f : Courier → Courier) : (s.modCr k f).crs = Tab.put s.crs k (f (s.cr k)) := rfl
theorem State.setLkr_lkrs (l : Nat) (x : Locker) : (s.setLkr l x).lkrs = Tab.put s.lkrs l x := rfl
theorem State.modLkr_lkrs (l : Nat) (f : Locker → Locker) : (s.modLkr l f).lkrs = Tab.put s.lkrs l (f (s.lkr l)) := rfl
theorem State.modSec_sec (f : SecSt → SecSt) : (s.modSec f).sec = f s.sec := rfl
theorem State.modPwr_pwr (f : PwrSt → PwrSt) : (s.modPwr f).pwr = f s.pwr := rfl
theorem State.modPins_pins (f : Pins → Pins) : (s.modPins f).pins = f s.pins := rfl
theorem State.t0Write_t0 (a : Nat) (bs : Bytes) : (s.t0Write a bs).t0 = Tab.putBytes s.t0 a bs := rfl

end Sys2Proof.Machine
end

