-- ==== Sys2Proof/Laws/Tab.lean ====
section
/-! SUPPORT. The laws of the sparse tables: a read after a write, and that every operation keeps the canonical form. -/

namespace Sys2Proof.Machine

section
variable {α : Type} [Inhabited α] [DecidableEq α]

omit [DecidableEq α] in
@[simp] theorem Tab.get_nil (k : Nat) : Tab.get ([] : Tab α) k = default := rfl
@[simp] theorem Tab.wf_nil : Tab.wf ([] : Tab α) = true := rfl

/-- Every listed key is at least `k`. -/
def Tab.above (k : Nat) (t : Tab α) : Prop := ∀ e ∈ t, k ≤ e.1

theorem Tab.wf_cons {k : Nat} {v : α} {t : Tab α} :
    Tab.wf ((k, v) :: t) = true ↔ v ≠ default ∧ Tab.above (k + 1) t ∧ Tab.wf t = true := by
  induction t generalizing k v with
  | nil => simp [Tab.wf, Tab.above]
  | cons e r ih =>
    obtain ⟨k', v'⟩ := e
    rw [Tab.wf]
    constructor
    · intro h
      simp only [Bool.and_eq_true, decide_eq_true_eq] at h
      obtain ⟨⟨h1, h2⟩, h3⟩ := h
      refine ⟨h1, ?_, h3⟩
      have h4 := (ih.mp h3).2.1
      intro e he
      rcases List.mem_cons.mp he with rfl | he
      · exact h2
      · have := h4 e he; omega
    · rintro ⟨h1, h2, h3⟩
      have := h2 (k', v') (by simp)
      simp only [Bool.and_eq_true, decide_eq_true_eq]
      exact ⟨⟨h1, by simpa using this⟩, h3⟩

theorem Tab.wf_tail {e : Nat × α} {t : Tab α} (h : Tab.wf (e :: t) = true) : Tab.wf t = true := (Tab.wf_cons.mp h).2.2

omit [DecidableEq α] in
theorem Tab.get_above {k j : Nat} {t : Tab α} (h : Tab.above k t) (hj : j < k) : Tab.get t j = default := by
  induction t with
  | nil => rfl
  | cons e r ih =>
    have := h e (by simp)
    rw [Tab.get, if_neg (by omega)]
    exact ih fun e he => h e (by simp [he])

theorem Tab.put_above {k j : Nat} {v : α} {t : Tab α} (h : Tab.above j t) (hj : j ≤ k) : Tab.above j (Tab.put t k v) := by
  induction t with
  | nil =>
    intro e he
    simp only [Tab.put] at he
    split at he
    · cases he
    · simp only [List.mem_singleton] at he; subst he; exact hj
  | cons x r ih =>
    have hx := h x (by simp)
    have hr : Tab.above j r := fun e he => h e (by simp [he])
    obtain ⟨k', v'⟩ := x
    intro e he
    simp only [Tab.put] at he
    split at he
    · split at he
      · exact h e he
      · rcases List.mem_cons.mp he with rfl | he
        · exact hj
        · exact h e he
    · split at he
      · split at he
        · exact hr e he
        · rcases List.mem_cons.mp he with rfl | he
          · exact hj
          · exact hr e he
      · rcases List.mem_cons.mp he with rfl | he
        · exact hx
        · exact ih hr e he

/-- Writing an entry keeps the canonical form. -/
theorem Tab.wf_put {t : Tab α} (k : Nat) (v : α) (h : Tab.wf t = true) : Tab.wf (Tab.put t k v) = true := by
  induction t with
  | nil =>
    simp only [Tab.put]
    split
    · rfl
    · next hv => simp [Tab.wf, hv]
  | cons x r ih =>
    obtain ⟨k', v'⟩ := x
    obtain ⟨h1, h2, h3⟩ := Tab.wf_cons.mp h
    simp only [Tab.put]
    split
    · next hk =>
      split
      · exact h
      · next hv =>
        refine Tab.wf_cons.mpr ⟨hv, ?_, h⟩
        intro e he
        rcases List.mem_cons.mp he with rfl | he
        · exact hk
        · have := h2 e he; omega
    · split
      · next hk =>
        split
        · exact h3
        · next hv => exact Tab.wf_cons.mpr ⟨hv, hk ▸ h2, h3⟩
      · exact Tab.wf_cons.mpr ⟨h1, Tab.put_above h2 (by omega), ih h3⟩

/-- A read at another key gives what it gave before. -/
theorem Tab.get_put_ne {t : Tab α} {k j : Nat} (v : α) (hj : j ≠ k) : Tab.get (Tab.put t k v) j = Tab.get t j := by
  induction t with
  | nil =>
    simp only [Tab.put]
    split
    · rfl
    · simp [Tab.get, Ne.symm hj]
  | cons x r ih =>
    obtain ⟨k', v'⟩ := x
    simp only [Tab.put]
    split
    · split
      · rfl
      · rw [Tab.get, if_neg (Ne.symm hj)]
    · split
      · next hk =>
        subst hk
        split
        · rw [Tab.get, if_neg (Ne.symm hj)]
        · simp [Tab.get, Ne.symm hj]
      · simp only [Tab.get, ih]

/-- A read at the written key gives the written value, in a table in canonical form. -/
theorem Tab.get_put_same {t : Tab α} (k : Nat) (v : α) (h : Tab.wf t = true) : Tab.get (Tab.put t k v) k = v := by
  induction t with
  | nil =>
    simp only [Tab.put]
    split
    · next hv => exact hv.symm
    · simp [Tab.get]
  | cons x r ih =>
    obtain ⟨k', v'⟩ := x
    obtain ⟨h1, h2, h3⟩ := Tab.wf_cons.mp h
    simp only [Tab.put]
    split
    · next hk =>
      split
      · next hv =>
        rw [hv]
        refine Tab.get_above (k := k + 1) ?_ (by omega)
        intro e he
        rcases List.mem_cons.mp he with rfl | he
        · exact hk
        · have := h2 e he; omega
      · simp [Tab.get]
    · split
      · next hk =>
        subst hk
        split
        · next hv => rw [hv]; exact Tab.get_above h2 (by omega)
        · simp [Tab.get]
      · next hk => rw [Tab.get, if_neg (by omega)]; exact ih h3

/-- A read at the written key gives the written value when that is no default, in any table. -/
theorem Tab.get_put_of_ne {t : Tab α} (k : Nat) {v : α} (hv : v ≠ default) : Tab.get (Tab.put t k v) k = v := by
  induction t with
  | nil => simp [Tab.put, hv, Tab.get]
  | cons x r ih =>
    obtain ⟨k', v'⟩ := x
    simp only [Tab.put, hv, if_false]
    split
    · simp [Tab.get]
    · split
      · simp [Tab.get]
      · rw [Tab.get, if_neg (by omega)]; exact ih

/-- Removing entries keeps the canonical form. -/
theorem Tab.wf_filter {t : Tab α} (p : Nat × α → Bool) (h : Tab.wf t = true) : Tab.wf (t.filter p) = true := by
  induction t with
  | nil => rfl
  | cons x r ih =>
    obtain ⟨k, v⟩ := x
    obtain ⟨h1, h2, h3⟩ := Tab.wf_cons.mp h
    simp only [List.filter]
    split
    · exact Tab.wf_cons.mpr ⟨h1, fun e he => h2 e (List.mem_filter.mp he).1, ih h3⟩
    · exact ih h3

theorem Tab.wf_keep {t : Tab α} (p : Nat → Bool) (h : Tab.wf t = true) : Tab.wf (Tab.keep p t) = true := Tab.wf_filter _ h

theorem Tab.wf_modify {t : Tab α} (k : Nat) (f : α → α) (h : Tab.wf t = true) : Tab.wf (Tab.modify t k f) = true :=
  Tab.wf_put k _ h

/-- A function over every listed value, with the defaults removed, keeps the canonical form. -/
theorem Tab.wf_mapAll {t : Tab α} (f : Nat → α → α) (h : Tab.wf t = true) : Tab.wf (Tab.mapAll f t) = true := by
  induction t with
  | nil => rfl
  | cons x r ih =>
    obtain ⟨k, v⟩ := x
    obtain ⟨_, h2, h3⟩ := Tab.wf_cons.mp h
    have hr := ih h3
    simp only [Tab.mapAll, List.map, List.filter] at hr ⊢
    split
    · next hv =>
      refine Tab.wf_cons.mpr ⟨by simpa using hv, ?_, hr⟩
      intro e he
      obtain ⟨y, hy, rfl⟩ := List.mem_map.mp (List.mem_filter.mp he).1
      exact h2 y hy
    · exact hr

end

/-! ## Runs of bytes -/

/-- Writing a run of bytes keeps the canonical form. -/
theorem Tab.wf_putBytes {t : Tab Byte} (a : Nat) (bs : Bytes) (h : Tab.wf t = true) :
    Tab.wf (Tab.putBytes t a bs) = true := by
  induction bs generalizing t a with
  | nil => exact h
  | cons b r ih => exact ih (a + 1) (Tab.wf_put a b h)

/-- A byte outside the written run reads as before. -/
theorem Tab.get_putBytes_out {t : Tab Byte} {a j : Nat} (bs : Bytes) (h : j < a ∨ a + bs.length ≤ j) :
    Tab.get (Tab.putBytes t a bs) j = Tab.get t j := by
  induction bs generalizing t a with
  | nil => rfl
  | cons b r ih =>
    rw [Tab.putBytes, ih (by simp only [List.length_cons] at h; omega)]
    exact Tab.get_put_ne b (by simp only [List.length_cons] at h; omega)

/-- A byte of the written run reads as written. -/
theorem Tab.get_putBytes_in {t : Tab Byte} {a : Nat} (bs : Bytes) (i : Nat) (h : Tab.wf t = true) (hi : i < bs.length) :
    Tab.get (Tab.putBytes t a bs) (a + i) = bs[i] := by
  induction bs generalizing t a i with
  | nil => simp at hi
  | cons b r ih =>
    rw [Tab.putBytes]
    cases i with
    | zero =>
      rw [Tab.get_putBytes_out r (by omega)]
      simpa using Tab.get_put_same a b h
    | succ i =>
      have := ih (a := a + 1) i (Tab.wf_put a b h) (by simpa using hi)
      simpa [Nat.add_assoc, Nat.add_comm 1 i] using this

/-- A run read back where it was written is the run written. -/
theorem Tab.bytes_putBytes {t : Tab Byte} (a : Nat) (bs : Bytes) (h : Tab.wf t = true) :
    Tab.bytes (Tab.putBytes t a bs) a bs.length = bs := by
  induction bs generalizing t a with
  | nil => rfl
  | cons b r ih =>
    simp only [List.length_cons, Tab.bytes, Tab.putBytes]
    rw [ih (a + 1) (Tab.wf_put a b h), Tab.get_putBytes_out r (by omega), Tab.get_put_same a b h]

end Sys2Proof.Machine
end

