-- ==== Sys2Proof/Laws/Log.lean ====
section
/-! SUPPORT. Registers, the error log and the wake event: what they read after a write, and all that they can change. -/

namespace Sys2Proof.Machine

variable (s : State)

/-! ## Registers -/

theorem State.reg_setReg_same {a : Nat} (v : Word) (h : Tab.wf s.regs = true) : (s.setReg a v).reg a = v :=
  Tab.get_put_same a v h

theorem State.reg_setReg_ne {a b : Nat} (v : Word) (h : b ≠ a) : (s.setReg a v).reg b = s.reg b := Tab.get_put_ne v h

theorem State.reg_setF_ne {a b lo len v : Nat} (h : b ≠ a) : (s.setF a lo len v).reg b = s.reg b := Tab.get_put_ne _ h

theorem State.reg_incF_ne {a b lo len n : Nat} (h : b ≠ a) : (s.incF a lo len n).reg b = s.reg b := Tab.get_put_ne _ h

theorem State.reg_setF_same {a lo len v : Nat} (h : Tab.wf s.regs = true) :
    (s.setF a lo len v).reg a = setFld (s.reg a) lo len v := Tab.get_put_same _ _ h

theorem State.setReg_wf {a : Nat} (v : Word) (h : Tab.wf s.regs = true) : Tab.wf (s.setReg a v).regs = true := Tab.wf_put a v h

theorem State.setF_wf {a lo len v : Nat} (h : Tab.wf s.regs = true) : Tab.wf (s.setF a lo len v).regs = true := Tab.wf_put a _ h

theorem State.incF_wf {a lo len v : Nat} (h : Tab.wf s.regs = true) : Tab.wf (s.incF a lo len v).regs = true := Tab.wf_put a _ h

/-- Register operations change nothing but the registers. -/
theorem State.setReg_frame (a : Nat) (v : Word) : s.sameButRegs (s.setReg a v) := rfl
theorem State.setF_frame (a lo len v : Nat) : s.sameButRegs (s.setF a lo len v) := rfl
theorem State.incF_frame (a lo len n : Nat) : s.sameButRegs (s.incF a lo len n) := rfl

/-! ## The field of a register -/

theorem fld_setFld_same {n : Nat} (w : BitVec n) (lo len v : Nat) (h : lo + len ≤ n) : fld (setFld w lo len v) lo len = v % 2 ^ len := by
  apply Nat.eq_of_testBit_eq
  intro i
  have hp : v % 2 ^ len * 2 ^ lo < 2 ^ n := by
    have h1 : v % 2 ^ len < 2 ^ len := Nat.mod_lt _ (by positivity)
    calc v % 2 ^ len * 2 ^ lo < 2 ^ len * 2 ^ lo := by gcongr
      _ = 2 ^ (lo + len) := by rw [Nat.pow_add]; ring
      _ ≤ 2 ^ n := Nat.pow_le_pow_right (by omega) h
  simp only [fld, Nat.testBit_mod_two_pow, Nat.testBit_shiftRight, setFld, BitVec.toNat_or, BitVec.toNat_and, Nat.testBit_or,
    Nat.testBit_and, BitVec.testBit_toNat, BitVec.getLsbD_not, BitVec.getLsbD_ofNat, Nat.testBit_shiftLeft]
  by_cases hi : i < len
  · simp [hi, show lo + i < n by omega]
  · simp [hi]

theorem fld_setFld_ne {n : Nat} (w : BitVec n) (lo len v lo' len' : Nat) (h : lo' + len' ≤ lo ∨ lo + len ≤ lo') :
    fld (setFld w lo len v) lo' len' = fld w lo' len' := by
  apply Nat.eq_of_testBit_eq
  intro i
  simp only [fld, Nat.testBit_mod_two_pow, Nat.testBit_shiftRight, setFld, BitVec.toNat_or, BitVec.toNat_and, Nat.testBit_or,
    Nat.testBit_and, BitVec.testBit_toNat, BitVec.getLsbD_not, BitVec.getLsbD_ofNat, Nat.testBit_shiftLeft,
    Nat.testBit_two_pow_sub_one]
  by_cases hi : i < len'
  · by_cases hn : lo' + i < n
    · rcases h with h | h
      · have : ¬ lo ≤ lo' + i := by omega
        simp [hi, hn, this]
      · have : ¬ lo' + i - lo < len := by omega
        simp [hi, hn, this]
    · simp [hi, hn, BitVec.getLsbD_of_ge w (lo' + i) (by omega)]
  · simp [hi]

theorem State.regF_setF_same {a lo len : Nat} (v : Nat) (h : Tab.wf s.regs = true) (hl : lo + len ≤ 64) :
    (s.setF a lo len v).regF a lo len = v % 2 ^ len := by
  rw [State.regF, State.reg_setF_same s h, fld_setFld_same _ _ _ _ hl]

/-! ## Events -/

/-- An entry of the log changes nothing but registers and the arming of ERR_FIRST. -/
theorem State.logEntry_frame (u c d : Nat) : s.sameButLog (s.logEntry u c d) := by
  simp only [State.logEntry, State.sameButLog, State.setF_err, State.incF_err, State.setReg_err]
  by_cases h : s.err.armed = true
  · simp only [h, if_true]; rfl
  · simp only [h]; rfl

theorem State.evSet_frame (e : Ev) : s.sameButRegs (s.evSet e) := by
  unfold State.evSet State.setEvBit State.sameButRegs
  (repeat' split) <;> rfl

theorem State.setEvBit_frame (u i : Nat) : s.sameButRegs (s.setEvBit u i) := by
  unfold State.setEvBit State.sameButRegs
  split <;> rfl

/-- A logged event changes nothing but registers and the arming of ERR_FIRST. -/
theorem State.logEv_frame (e : Ev) (low : Nat) : s.sameButLog (s.logEv e low) := by
  have key : ∀ t : State, s.sameButRegs t → s.sameButLog ((t.evSet e).logEntry e.unit e.code
      (if (errAddr e.unit).isSome then (low % 2 ^ 48) >>> 16 else 0)) := by
    intro t ht
    have h1 := State.evSet_frame t e
    have h2 := State.logEntry_frame (t.evSet e) e.unit e.code (if (errAddr e.unit).isSome then (low % 2 ^ 48) >>> 16 else 0)
    unfold State.sameButLog at h2 ⊢
    rw [h2, h1, ht]
  unfold State.logEv
  split
  · exact key s rfl
  · exact key _ rfl

/-- The log changes nothing but registers and arming: the fields that it leaves. -/
theorem State.logPlain_frame (e : Ev) : s.sameButLog (s.logPlain e) := by
  have h1 := State.evSet_frame s e
  have h2 := State.logEntry_frame (s.evSet e) e.unit e.code 0
  unfold State.logPlain State.sameButLog at *
  rw [h2, h1]

/-- A wake event changes nothing but the request pin of the clock. -/
theorem State.wake_frame : s.wake = { s with pins := { s.pins with fclkReq := s.wake.pins.fclkReq } } := by
  unfold State.wake
  split <;> rfl

@[simp] theorem State.setEvBit_part (u i : Nat) : (s.setEvBit u i).part = s.part := by rw [show s.setEvBit u i = _ from s.setEvBit_frame u i]
@[simp] theorem State.setEvBit_pins (u i : Nat) : (s.setEvBit u i).pins = s.pins := by rw [show s.setEvBit u i = _ from s.setEvBit_frame u i]
@[simp] theorem State.setEvBit_hall (u i : Nat) : (s.setEvBit u i).hall = s.hall := by rw [show s.setEvBit u i = _ from s.setEvBit_frame u i]
@[simp] theorem State.setEvBit_stepCtr (u i : Nat) : (s.setEvBit u i).stepCtr = s.stepCtr := by rw [show s.setEvBit u i = _ from s.setEvBit_frame u i]
@[simp] theorem State.setEvBit_level (u i : Nat) : (s.setEvBit u i).level = s.level := by rw [show s.setEvBit u i = _ from s.setEvBit_frame u i]
@[simp] theorem State.setEvBit_t0 (u i : Nat) : (s.setEvBit u i).t0 = s.t0 := by rw [show s.setEvBit u i = _ from s.setEvBit_frame u i]
@[simp] theorem State.setEvBit_t0Poison (u i : Nat) : (s.setEvBit u i).t0Poison = s.t0Poison := by rw [show s.setEvBit u i = _ from s.setEvBit_frame u i]
@[simp] theorem State.setEvBit_syl (u i : Nat) : (s.setEvBit u i).syl = s.syl := by rw [show s.setEvBit u i = _ from s.setEvBit_frame u i]
@[simp] theorem State.setEvBit_load (u i : Nat) : (s.setEvBit u i).load = s.load := by rw [show s.setEvBit u i = _ from s.setEvBit_frame u i]
@[simp] theorem State.setEvBit_bells (u i : Nat) : (s.setEvBit u i).bells = s.bells := by rw [show s.setEvBit u i = _ from s.setEvBit_frame u i]
@[simp] theorem State.setEvBit_asms (u i : Nat) : (s.setEvBit u i).asms = s.asms := by rw [show s.setEvBit u i = _ from s.setEvBit_frame u i]
@[simp] theorem State.setEvBit_ques (u i : Nat) : (s.setEvBit u i).ques = s.ques := by rw [show s.setEvBit u i = _ from s.setEvBit_frame u i]
@[simp] theorem State.setEvBit_flights (u i : Nat) : (s.setEvBit u i).flights = s.flights := by rw [show s.setEvBit u i = _ from s.setEvBit_frame u i]
@[simp] theorem State.setEvBit_slots (u i : Nat) : (s.setEvBit u i).slots = s.slots := by rw [show s.setEvBit u i = _ from s.setEvBit_frame u i]
@[simp] theorem State.setEvBit_sync (u i : Nat) : (s.setEvBit u i).sync = s.sync := by rw [show s.setEvBit u i = _ from s.setEvBit_frame u i]
@[simp] theorem State.setEvBit_tut (u i : Nat) : (s.setEvBit u i).tut = s.tut := by rw [show s.setEvBit u i = _ from s.setEvBit_frame u i]
@[simp] theorem State.setEvBit_lkrs (u i : Nat) : (s.setEvBit u i).lkrs = s.lkrs := by rw [show s.setEvBit u i = _ from s.setEvBit_frame u i]
@[simp] theorem State.setEvBit_pln (u i : Nat) : (s.setEvBit u i).pln = s.pln := by rw [show s.setEvBit u i = _ from s.setEvBit_frame u i]
@[simp] theorem State.setEvBit_mem (u i : Nat) : (s.setEvBit u i).mem = s.mem := by rw [show s.setEvBit u i = _ from s.setEvBit_frame u i]
@[simp] theorem State.setEvBit_stms (u i : Nat) : (s.setEvBit u i).stms = s.stms := by rw [show s.setEvBit u i = _ from s.setEvBit_frame u i]
@[simp] theorem State.setEvBit_crs (u i : Nat) : (s.setEvBit u i).crs = s.crs := by rw [show s.setEvBit u i = _ from s.setEvBit_frame u i]
@[simp] theorem State.setEvBit_crsEng (u i : Nat) : (s.setEvBit u i).crsEng = s.crsEng := by rw [show s.setEvBit u i = _ from s.setEvBit_frame u i]
@[simp] theorem State.setEvBit_eng (u i : Nat) : (s.setEvBit u i).eng = s.eng := by rw [show s.setEvBit u i = _ from s.setEvBit_frame u i]
@[simp] theorem State.setEvBit_bnc (u i : Nat) : (s.setEvBit u i).bnc = s.bnc := by rw [show s.setEvBit u i = _ from s.setEvBit_frame u i]
@[simp] theorem State.setEvBit_mkr (u i : Nat) : (s.setEvBit u i).mkr = s.mkr := by rw [show s.setEvBit u i = _ from s.setEvBit_frame u i]
@[simp] theorem State.setEvBit_fab (u i : Nat) : (s.setEvBit u i).fab = s.fab := by rw [show s.setEvBit u i = _ from s.setEvBit_frame u i]
@[simp] theorem State.setEvBit_rcl (u i : Nat) : (s.setEvBit u i).rcl = s.rcl := by rw [show s.setEvBit u i = _ from s.setEvBit_frame u i]
@[simp] theorem State.setEvBit_err (u i : Nat) : (s.setEvBit u i).err = s.err := by rw [show s.setEvBit u i = _ from s.setEvBit_frame u i]
@[simp] theorem State.setEvBit_sec (u i : Nat) : (s.setEvBit u i).sec = s.sec := by rw [show s.setEvBit u i = _ from s.setEvBit_frame u i]
@[simp] theorem State.setEvBit_rst (u i : Nat) : (s.setEvBit u i).rst = s.rst := by rw [show s.setEvBit u i = _ from s.setEvBit_frame u i]
@[simp] theorem State.setEvBit_exp (u i : Nat) : (s.setEvBit u i).exp = s.exp := by rw [show s.setEvBit u i = _ from s.setEvBit_frame u i]
@[simp] theorem State.setEvBit_ckp (u i : Nat) : (s.setEvBit u i).ckp = s.ckp := by rw [show s.setEvBit u i = _ from s.setEvBit_frame u i]
@[simp] theorem State.setEvBit_pwr (u i : Nat) : (s.setEvBit u i).pwr = s.pwr := by rw [show s.setEvBit u i = _ from s.setEvBit_frame u i]
@[simp] theorem State.setEvBit_tap (u i : Nat) : (s.setEvBit u i).tap = s.tap := by rw [show s.setEvBit u i = _ from s.setEvBit_frame u i]
@[simp] theorem State.setEvBit_out (u i : Nat) : (s.setEvBit u i).out = s.out := by rw [show s.setEvBit u i = _ from s.setEvBit_frame u i]
@[simp] theorem State.setEvBit_free (u i : Nat) : (s.setEvBit u i).free = s.free := by rw [show s.setEvBit u i = _ from s.setEvBit_frame u i]
@[simp] theorem State.setEvBit_pending (u i : Nat) : (s.setEvBit u i).pending = s.pending := by rw [show s.setEvBit u i = _ from s.setEvBit_frame u i]

@[simp] theorem State.evSet_part (e : Ev) : (s.evSet e).part = s.part := by rw [show s.evSet e = _ from s.evSet_frame e]
@[simp] theorem State.evSet_pins (e : Ev) : (s.evSet e).pins = s.pins := by rw [show s.evSet e = _ from s.evSet_frame e]
@[simp] theorem State.evSet_hall (e : Ev) : (s.evSet e).hall = s.hall := by rw [show s.evSet e = _ from s.evSet_frame e]
@[simp] theorem State.evSet_stepCtr (e : Ev) : (s.evSet e).stepCtr = s.stepCtr := by rw [show s.evSet e = _ from s.evSet_frame e]
@[simp] theorem State.evSet_level (e : Ev) : (s.evSet e).level = s.level := by rw [show s.evSet e = _ from s.evSet_frame e]
@[simp] theorem State.evSet_t0 (e : Ev) : (s.evSet e).t0 = s.t0 := by rw [show s.evSet e = _ from s.evSet_frame e]
@[simp] theorem State.evSet_t0Poison (e : Ev) : (s.evSet e).t0Poison = s.t0Poison := by rw [show s.evSet e = _ from s.evSet_frame e]
@[simp] theorem State.evSet_syl (e : Ev) : (s.evSet e).syl = s.syl := by rw [show s.evSet e = _ from s.evSet_frame e]
@[simp] theorem State.evSet_load (e : Ev) : (s.evSet e).load = s.load := by rw [show s.evSet e = _ from s.evSet_frame e]
@[simp] theorem State.evSet_bells (e : Ev) : (s.evSet e).bells = s.bells := by rw [show s.evSet e = _ from s.evSet_frame e]
@[simp] theorem State.evSet_asms (e : Ev) : (s.evSet e).asms = s.asms := by rw [show s.evSet e = _ from s.evSet_frame e]
@[simp] theorem State.evSet_ques (e : Ev) : (s.evSet e).ques = s.ques := by rw [show s.evSet e = _ from s.evSet_frame e]
@[simp] theorem State.evSet_flights (e : Ev) : (s.evSet e).flights = s.flights := by rw [show s.evSet e = _ from s.evSet_frame e]
@[simp] theorem State.evSet_slots (e : Ev) : (s.evSet e).slots = s.slots := by rw [show s.evSet e = _ from s.evSet_frame e]
@[simp] theorem State.evSet_sync (e : Ev) : (s.evSet e).sync = s.sync := by rw [show s.evSet e = _ from s.evSet_frame e]
@[simp] theorem State.evSet_tut (e : Ev) : (s.evSet e).tut = s.tut := by rw [show s.evSet e = _ from s.evSet_frame e]
@[simp] theorem State.evSet_lkrs (e : Ev) : (s.evSet e).lkrs = s.lkrs := by rw [show s.evSet e = _ from s.evSet_frame e]
@[simp] theorem State.evSet_pln (e : Ev) : (s.evSet e).pln = s.pln := by rw [show s.evSet e = _ from s.evSet_frame e]
@[simp] theorem State.evSet_mem (e : Ev) : (s.evSet e).mem = s.mem := by rw [show s.evSet e = _ from s.evSet_frame e]
@[simp] theorem State.evSet_stms (e : Ev) : (s.evSet e).stms = s.stms := by rw [show s.evSet e = _ from s.evSet_frame e]
@[simp] theorem State.evSet_crs (e : Ev) : (s.evSet e).crs = s.crs := by rw [show s.evSet e = _ from s.evSet_frame e]
@[simp] theorem State.evSet_crsEng (e : Ev) : (s.evSet e).crsEng = s.crsEng := by rw [show s.evSet e = _ from s.evSet_frame e]
@[simp] theorem State.evSet_eng (e : Ev) : (s.evSet e).eng = s.eng := by rw [show s.evSet e = _ from s.evSet_frame e]
@[simp] theorem State.evSet_bnc (e : Ev) : (s.evSet e).bnc = s.bnc := by rw [show s.evSet e = _ from s.evSet_frame e]
@[simp] theorem State.evSet_mkr (e : Ev) : (s.evSet e).mkr = s.mkr := by rw [show s.evSet e = _ from s.evSet_frame e]
@[simp] theorem State.evSet_fab (e : Ev) : (s.evSet e).fab = s.fab := by rw [show s.evSet e = _ from s.evSet_frame e]
@[simp] theorem State.evSet_rcl (e : Ev) : (s.evSet e).rcl = s.rcl := by rw [show s.evSet e = _ from s.evSet_frame e]
@[simp] theorem State.evSet_err (e : Ev) : (s.evSet e).err = s.err := by rw [show s.evSet e = _ from s.evSet_frame e]
@[simp] theorem State.evSet_sec (e : Ev) : (s.evSet e).sec = s.sec := by rw [show s.evSet e = _ from s.evSet_frame e]
@[simp] theorem State.evSet_rst (e : Ev) : (s.evSet e).rst = s.rst := by rw [show s.evSet e = _ from s.evSet_frame e]
@[simp] theorem State.evSet_exp (e : Ev) : (s.evSet e).exp = s.exp := by rw [show s.evSet e = _ from s.evSet_frame e]
@[simp] theorem State.evSet_ckp (e : Ev) : (s.evSet e).ckp = s.ckp := by rw [show s.evSet e = _ from s.evSet_frame e]
@[simp] theorem State.evSet_pwr (e : Ev) : (s.evSet e).pwr = s.pwr := by rw [show s.evSet e = _ from s.evSet_frame e]
@[simp] theorem State.evSet_tap (e : Ev) : (s.evSet e).tap = s.tap := by rw [show s.evSet e = _ from s.evSet_frame e]
@[simp] theorem State.evSet_out (e : Ev) : (s.evSet e).out = s.out := by rw [show s.evSet e = _ from s.evSet_frame e]
@[simp] theorem State.evSet_free (e : Ev) : (s.evSet e).free = s.free := by rw [show s.evSet e = _ from s.evSet_frame e]
@[simp] theorem State.evSet_pending (e : Ev) : (s.evSet e).pending = s.pending := by rw [show s.evSet e = _ from s.evSet_frame e]

@[simp] theorem State.logEv_part (e : Ev) (low : Nat) : (s.logEv e low).part = s.part := by rw [show s.logEv e low = _ from s.logEv_frame e low]
@[simp] theorem State.logEv_pins (e : Ev) (low : Nat) : (s.logEv e low).pins = s.pins := by rw [show s.logEv e low = _ from s.logEv_frame e low]
@[simp] theorem State.logEv_hall (e : Ev) (low : Nat) : (s.logEv e low).hall = s.hall := by rw [show s.logEv e low = _ from s.logEv_frame e low]
@[simp] theorem State.logEv_stepCtr (e : Ev) (low : Nat) : (s.logEv e low).stepCtr = s.stepCtr := by rw [show s.logEv e low = _ from s.logEv_frame e low]
@[simp] theorem State.logEv_level (e : Ev) (low : Nat) : (s.logEv e low).level = s.level := by rw [show s.logEv e low = _ from s.logEv_frame e low]
@[simp] theorem State.logEv_t0 (e : Ev) (low : Nat) : (s.logEv e low).t0 = s.t0 := by rw [show s.logEv e low = _ from s.logEv_frame e low]
@[simp] theorem State.logEv_t0Poison (e : Ev) (low : Nat) : (s.logEv e low).t0Poison = s.t0Poison := by rw [show s.logEv e low = _ from s.logEv_frame e low]
@[simp] theorem State.logEv_syl (e : Ev) (low : Nat) : (s.logEv e low).syl = s.syl := by rw [show s.logEv e low = _ from s.logEv_frame e low]
@[simp] theorem State.logEv_load (e : Ev) (low : Nat) : (s.logEv e low).load = s.load := by rw [show s.logEv e low = _ from s.logEv_frame e low]
@[simp] theorem State.logEv_bells (e : Ev) (low : Nat) : (s.logEv e low).bells = s.bells := by rw [show s.logEv e low = _ from s.logEv_frame e low]
@[simp] theorem State.logEv_asms (e : Ev) (low : Nat) : (s.logEv e low).asms = s.asms := by rw [show s.logEv e low = _ from s.logEv_frame e low]
@[simp] theorem State.logEv_ques (e : Ev) (low : Nat) : (s.logEv e low).ques = s.ques := by rw [show s.logEv e low = _ from s.logEv_frame e low]
@[simp] theorem State.logEv_flights (e : Ev) (low : Nat) : (s.logEv e low).flights = s.flights := by rw [show s.logEv e low = _ from s.logEv_frame e low]
@[simp] theorem State.logEv_slots (e : Ev) (low : Nat) : (s.logEv e low).slots = s.slots := by rw [show s.logEv e low = _ from s.logEv_frame e low]
@[simp] theorem State.logEv_sync (e : Ev) (low : Nat) : (s.logEv e low).sync = s.sync := by rw [show s.logEv e low = _ from s.logEv_frame e low]
@[simp] theorem State.logEv_tut (e : Ev) (low : Nat) : (s.logEv e low).tut = s.tut := by rw [show s.logEv e low = _ from s.logEv_frame e low]
@[simp] theorem State.logEv_lkrs (e : Ev) (low : Nat) : (s.logEv e low).lkrs = s.lkrs := by rw [show s.logEv e low = _ from s.logEv_frame e low]
@[simp] theorem State.logEv_pln (e : Ev) (low : Nat) : (s.logEv e low).pln = s.pln := by rw [show s.logEv e low = _ from s.logEv_frame e low]
@[simp] theorem State.logEv_mem (e : Ev) (low : Nat) : (s.logEv e low).mem = s.mem := by rw [show s.logEv e low = _ from s.logEv_frame e low]
@[simp] theorem State.logEv_stms (e : Ev) (low : Nat) : (s.logEv e low).stms = s.stms := by rw [show s.logEv e low = _ from s.logEv_frame e low]
@[simp] theorem State.logEv_crs (e : Ev) (low : Nat) : (s.logEv e low).crs = s.crs := by rw [show s.logEv e low = _ from s.logEv_frame e low]
@[simp] theorem State.logEv_crsEng (e : Ev) (low : Nat) : (s.logEv e low).crsEng = s.crsEng := by rw [show s.logEv e low = _ from s.logEv_frame e low]
@[simp] theorem State.logEv_eng (e : Ev) (low : Nat) : (s.logEv e low).eng = s.eng := by rw [show s.logEv e low = _ from s.logEv_frame e low]
@[simp] theorem State.logEv_bnc (e : Ev) (low : Nat) : (s.logEv e low).bnc = s.bnc := by rw [show s.logEv e low = _ from s.logEv_frame e low]
@[simp] theorem State.logEv_mkr (e : Ev) (low : Nat) : (s.logEv e low).mkr = s.mkr := by rw [show s.logEv e low = _ from s.logEv_frame e low]
@[simp] theorem State.logEv_fab (e : Ev) (low : Nat) : (s.logEv e low).fab = s.fab := by rw [show s.logEv e low = _ from s.logEv_frame e low]
@[simp] theorem State.logEv_rcl (e : Ev) (low : Nat) : (s.logEv e low).rcl = s.rcl := by rw [show s.logEv e low = _ from s.logEv_frame e low]
@[simp] theorem State.logEv_sec (e : Ev) (low : Nat) : (s.logEv e low).sec = s.sec := by rw [show s.logEv e low = _ from s.logEv_frame e low]
@[simp] theorem State.logEv_rst (e : Ev) (low : Nat) : (s.logEv e low).rst = s.rst := by rw [show s.logEv e low = _ from s.logEv_frame e low]
@[simp] theorem State.logEv_exp (e : Ev) (low : Nat) : (s.logEv e low).exp = s.exp := by rw [show s.logEv e low = _ from s.logEv_frame e low]
@[simp] theorem State.logEv_ckp (e : Ev) (low : Nat) : (s.logEv e low).ckp = s.ckp := by rw [show s.logEv e low = _ from s.logEv_frame e low]
@[simp] theorem State.logEv_pwr (e : Ev) (low : Nat) : (s.logEv e low).pwr = s.pwr := by rw [show s.logEv e low = _ from s.logEv_frame e low]
@[simp] theorem State.logEv_tap (e : Ev) (low : Nat) : (s.logEv e low).tap = s.tap := by rw [show s.logEv e low = _ from s.logEv_frame e low]
@[simp] theorem State.logEv_out (e : Ev) (low : Nat) : (s.logEv e low).out = s.out := by rw [show s.logEv e low = _ from s.logEv_frame e low]
@[simp] theorem State.logEv_free (e : Ev) (low : Nat) : (s.logEv e low).free = s.free := by rw [show s.logEv e low = _ from s.logEv_frame e low]
@[simp] theorem State.logEv_pending (e : Ev) (low : Nat) : (s.logEv e low).pending = s.pending := by rw [show s.logEv e low = _ from s.logEv_frame e low]

@[simp] theorem State.logPlain_part (e : Ev) : (s.logPlain e).part = s.part := by rw [show s.logPlain e = _ from s.logPlain_frame e]
@[simp] theorem State.logPlain_pins (e : Ev) : (s.logPlain e).pins = s.pins := by rw [show s.logPlain e = _ from s.logPlain_frame e]
@[simp] theorem State.logPlain_hall (e : Ev) : (s.logPlain e).hall = s.hall := by rw [show s.logPlain e = _ from s.logPlain_frame e]
@[simp] theorem State.logPlain_stepCtr (e : Ev) : (s.logPlain e).stepCtr = s.stepCtr := by rw [show s.logPlain e = _ from s.logPlain_frame e]
@[simp] theorem State.logPlain_level (e : Ev) : (s.logPlain e).level = s.level := by rw [show s.logPlain e = _ from s.logPlain_frame e]
@[simp] theorem State.logPlain_t0 (e : Ev) : (s.logPlain e).t0 = s.t0 := by rw [show s.logPlain e = _ from s.logPlain_frame e]
@[simp] theorem State.logPlain_t0Poison (e : Ev) : (s.logPlain e).t0Poison = s.t0Poison := by rw [show s.logPlain e = _ from s.logPlain_frame e]
@[simp] theorem State.logPlain_syl (e : Ev) : (s.logPlain e).syl = s.syl := by rw [show s.logPlain e = _ from s.logPlain_frame e]
@[simp] theorem State.logPlain_load (e : Ev) : (s.logPlain e).load = s.load := by rw [show s.logPlain e = _ from s.logPlain_frame e]
@[simp] theorem State.logPlain_bells (e : Ev) : (s.logPlain e).bells = s.bells := by rw [show s.logPlain e = _ from s.logPlain_frame e]
@[simp] theorem State.logPlain_asms (e : Ev) : (s.logPlain e).asms = s.asms := by rw [show s.logPlain e = _ from s.logPlain_frame e]
@[simp] theorem State.logPlain_ques (e : Ev) : (s.logPlain e).ques = s.ques := by rw [show s.logPlain e = _ from s.logPlain_frame e]
@[simp] theorem State.logPlain_flights (e : Ev) : (s.logPlain e).flights = s.flights := by rw [show s.logPlain e = _ from s.logPlain_frame e]
@[simp] theorem State.logPlain_slots (e : Ev) : (s.logPlain e).slots = s.slots := by rw [show s.logPlain e = _ from s.logPlain_frame e]
@[simp] theorem State.logPlain_sync (e : Ev) : (s.logPlain e).sync = s.sync := by rw [show s.logPlain e = _ from s.logPlain_frame e]
@[simp] theorem State.logPlain_tut (e : Ev) : (s.logPlain e).tut = s.tut := by rw [show s.logPlain e = _ from s.logPlain_frame e]
@[simp] theorem State.logPlain_lkrs (e : Ev) : (s.logPlain e).lkrs = s.lkrs := by rw [show s.logPlain e = _ from s.logPlain_frame e]
@[simp] theorem State.logPlain_pln (e : Ev) : (s.logPlain e).pln = s.pln := by rw [show s.logPlain e = _ from s.logPlain_frame e]
@[simp] theorem State.logPlain_mem (e : Ev) : (s.logPlain e).mem = s.mem := by rw [show s.logPlain e = _ from s.logPlain_frame e]
@[simp] theorem State.logPlain_stms (e : Ev) : (s.logPlain e).stms = s.stms := by rw [show s.logPlain e = _ from s.logPlain_frame e]
@[simp] theorem State.logPlain_crs (e : Ev) : (s.logPlain e).crs = s.crs := by rw [show s.logPlain e = _ from s.logPlain_frame e]
@[simp] theorem State.logPlain_crsEng (e : Ev) : (s.logPlain e).crsEng = s.crsEng := by rw [show s.logPlain e = _ from s.logPlain_frame e]
@[simp] theorem State.logPlain_eng (e : Ev) : (s.logPlain e).eng = s.eng := by rw [show s.logPlain e = _ from s.logPlain_frame e]
@[simp] theorem State.logPlain_bnc (e : Ev) : (s.logPlain e).bnc = s.bnc := by rw [show s.logPlain e = _ from s.logPlain_frame e]
@[simp] theorem State.logPlain_mkr (e : Ev) : (s.logPlain e).mkr = s.mkr := by rw [show s.logPlain e = _ from s.logPlain_frame e]
@[simp] theorem State.logPlain_fab (e : Ev) : (s.logPlain e).fab = s.fab := by rw [show s.logPlain e = _ from s.logPlain_frame e]
@[simp] theorem State.logPlain_rcl (e : Ev) : (s.logPlain e).rcl = s.rcl := by rw [show s.logPlain e = _ from s.logPlain_frame e]
@[simp] theorem State.logPlain_sec (e : Ev) : (s.logPlain e).sec = s.sec := by rw [show s.logPlain e = _ from s.logPlain_frame e]
@[simp] theorem State.logPlain_rst (e : Ev) : (s.logPlain e).rst = s.rst := by rw [show s.logPlain e = _ from s.logPlain_frame e]
@[simp] theorem State.logPlain_exp (e : Ev) : (s.logPlain e).exp = s.exp := by rw [show s.logPlain e = _ from s.logPlain_frame e]
@[simp] theorem State.logPlain_ckp (e : Ev) : (s.logPlain e).ckp = s.ckp := by rw [show s.logPlain e = _ from s.logPlain_frame e]
@[simp] theorem State.logPlain_pwr (e : Ev) : (s.logPlain e).pwr = s.pwr := by rw [show s.logPlain e = _ from s.logPlain_frame e]
@[simp] theorem State.logPlain_tap (e : Ev) : (s.logPlain e).tap = s.tap := by rw [show s.logPlain e = _ from s.logPlain_frame e]
@[simp] theorem State.logPlain_out (e : Ev) : (s.logPlain e).out = s.out := by rw [show s.logPlain e = _ from s.logPlain_frame e]
@[simp] theorem State.logPlain_free (e : Ev) : (s.logPlain e).free = s.free := by rw [show s.logPlain e = _ from s.logPlain_frame e]
@[simp] theorem State.logPlain_pending (e : Ev) : (s.logPlain e).pending = s.pending := by rw [show s.logPlain e = _ from s.logPlain_frame e]

@[simp] theorem State.wake_part : (s.wake).part = s.part := by rw [show s.wake = _ from s.wake_frame]
@[simp] theorem State.wake_hall : (s.wake).hall = s.hall := by rw [show s.wake = _ from s.wake_frame]
@[simp] theorem State.wake_regs : (s.wake).regs = s.regs := by rw [show s.wake = _ from s.wake_frame]
@[simp] theorem State.wake_stepCtr : (s.wake).stepCtr = s.stepCtr := by rw [show s.wake = _ from s.wake_frame]
@[simp] theorem State.wake_level : (s.wake).level = s.level := by rw [show s.wake = _ from s.wake_frame]
@[simp] theorem State.wake_t0 : (s.wake).t0 = s.t0 := by rw [show s.wake = _ from s.wake_frame]
@[simp] theorem State.wake_t0Poison : (s.wake).t0Poison = s.t0Poison := by rw [show s.wake = _ from s.wake_frame]
@[simp] theorem State.wake_syl : (s.wake).syl = s.syl := by rw [show s.wake = _ from s.wake_frame]
@[simp] theorem State.wake_load : (s.wake).load = s.load := by rw [show s.wake = _ from s.wake_frame]
@[simp] theorem State.wake_bells : (s.wake).bells = s.bells := by rw [show s.wake = _ from s.wake_frame]
@[simp] theorem State.wake_asms : (s.wake).asms = s.asms := by rw [show s.wake = _ from s.wake_frame]
@[simp] theorem State.wake_ques : (s.wake).ques = s.ques := by rw [show s.wake = _ from s.wake_frame]
@[simp] theorem State.wake_flights : (s.wake).flights = s.flights := by rw [show s.wake = _ from s.wake_frame]
@[simp] theorem State.wake_slots : (s.wake).slots = s.slots := by rw [show s.wake = _ from s.wake_frame]
@[simp] theorem State.wake_sync : (s.wake).sync = s.sync := by rw [show s.wake = _ from s.wake_frame]
@[simp] theorem State.wake_tut : (s.wake).tut = s.tut := by rw [show s.wake = _ from s.wake_frame]
@[simp] theorem State.wake_lkrs : (s.wake).lkrs = s.lkrs := by rw [show s.wake = _ from s.wake_frame]
@[simp] theorem State.wake_pln : (s.wake).pln = s.pln := by rw [show s.wake = _ from s.wake_frame]
@[simp] theorem State.wake_mem : (s.wake).mem = s.mem := by rw [show s.wake = _ from s.wake_frame]
@[simp] theorem State.wake_stms : (s.wake).stms = s.stms := by rw [show s.wake = _ from s.wake_frame]
@[simp] theorem State.wake_crs : (s.wake).crs = s.crs := by rw [show s.wake = _ from s.wake_frame]
@[simp] theorem State.wake_crsEng : (s.wake).crsEng = s.crsEng := by rw [show s.wake = _ from s.wake_frame]
@[simp] theorem State.wake_eng : (s.wake).eng = s.eng := by rw [show s.wake = _ from s.wake_frame]
@[simp] theorem State.wake_bnc : (s.wake).bnc = s.bnc := by rw [show s.wake = _ from s.wake_frame]
@[simp] theorem State.wake_mkr : (s.wake).mkr = s.mkr := by rw [show s.wake = _ from s.wake_frame]
@[simp] theorem State.wake_fab : (s.wake).fab = s.fab := by rw [show s.wake = _ from s.wake_frame]
@[simp] theorem State.wake_rcl : (s.wake).rcl = s.rcl := by rw [show s.wake = _ from s.wake_frame]
@[simp] theorem State.wake_err : (s.wake).err = s.err := by rw [show s.wake = _ from s.wake_frame]
@[simp] theorem State.wake_sec : (s.wake).sec = s.sec := by rw [show s.wake = _ from s.wake_frame]
@[simp] theorem State.wake_rst : (s.wake).rst = s.rst := by rw [show s.wake = _ from s.wake_frame]
@[simp] theorem State.wake_exp : (s.wake).exp = s.exp := by rw [show s.wake = _ from s.wake_frame]
@[simp] theorem State.wake_ckp : (s.wake).ckp = s.ckp := by rw [show s.wake = _ from s.wake_frame]
@[simp] theorem State.wake_pwr : (s.wake).pwr = s.pwr := by rw [show s.wake = _ from s.wake_frame]
@[simp] theorem State.wake_tap : (s.wake).tap = s.tap := by rw [show s.wake = _ from s.wake_frame]
@[simp] theorem State.wake_out : (s.wake).out = s.out := by rw [show s.wake = _ from s.wake_frame]
@[simp] theorem State.wake_free : (s.wake).free = s.free := by rw [show s.wake = _ from s.wake_frame]
@[simp] theorem State.wake_pending : (s.wake).pending = s.pending := by rw [show s.wake = _ from s.wake_frame]

end Sys2Proof.Machine
end

