-- ==== Sys2Proof/WellFormed.lean ====
section
/-! DEFINITION. When the operands of a command have the shape that the surroundings can give them: the sizes of data
beats and fuse readings, port numbers that exist on some part, frames within Ethernet's limits. -/

namespace Sys2Proof

/-- Memory port numbers: 0 and 1 memory, 2 far. -/
def portOk (p : BitVec 2) : Bool := decide (p.toNat < 3)

/-- Link numbers: 0 and 1 fabric, 2 to 5 federation. -/
def linkOk (p : BitVec 3) : Bool := decide (p.toNat < 6)

/-- A frame on a link that exists, of at most 16,384 octets (padding included). -/
def frameOk (p : BitVec 3) (f : Bytes) : Bool := linkOk p && decide (f.length ≤ 16384)

/-- An SPDM message as the mailbox can hold it. -/
def msgOk (m : Bytes) : Bool := decide (m.length ≤ 65536)

/-- The shape of a command's operands. -/
def Instr.wellFormed (i : Instr) : Bool :=
  match i with
  | .coldReset st fuses => decide (fuses.length = 16) && decide (st.form.toNat < 2 ^ st.fed.toNat)
  | .warmReset st => decide (st.form.toNat < 2 ^ st.fed.toNat)
  | .lkrOpen _ | .lkrMove _ | .lkrRecall _ | .lkrRead _ | .lkrRelease _ => true
  | .commandComplete qs _ => decide (qs.length ≤ 8192) && decide (qs.Nodup)
  | .memReadResponse p _ d _ _ => portOk p && decide (d.length = 256)
  | .memWriteComplete p _ _ | .memReadTimeout p _ | .memWriteTimeout p _ => portOk p
  | .pcsAlign p | .pcsAlignLoss p | .helloTimer p | .offerTimer p | .rosterRetry p | .keyRenewal p | .keyExhausted p
  | .linkAckTimer p | .linkFrameTimeout p | .replayTimeout p | .frameSend p | .fiReorderTimeout p | .violWindow p
  | .fabRelease p => linkOk p
  | .hello p f _ | .key p f _ | .data p f _ | .stateFetch p f _ | .link p f _ | .mack p f _ | .detach p f _
  | .repairReq p f _ | .rcExch p f _ | .rcUp p f _ | .rcDown p f _ | .redUp p f _ | .redDown p f _ | .notice p f _
  | .abort p f _ | .fedHost p ⟨f, _⟩ _ => frameOk p f
  | .getVersion m | .getCapabilities m | .negotiateAlgorithms m | .getDigests m | .getCertificate m
  | .setCertificate m | .challenge m | .getMeasurements m | .keyExchange m | .finish m | .endSession m
  | .domainKeyInstall m | .domainKeyErase m | .unsupportedRequest m => msgOk m
  | .engineSatchel _ sat _ => decide (64 ≤ sat.length)
  | .scrubRead a bits => decide (bits.toNat < 3) && (match a with
    | .control k => decide (k.toNat < 5)
    | _ => true)
  | .entryCopy k _ _ => decide (k.toNat < 3)
  | .stagingRunAlloc _ _ tiles => decide (0 < tiles.toNat)
  | .ofcResetWarm | .sylStartFull _ | .sylStartPartial _ | .sylAbort | .sylPushData _ | .sylImageReceived _ _
  | .fullLoadApply _ _ | .lkrSelWrite _ | .lkrStateRead | .nop _ | .post _ | .fwd _ | .dgradW _ | .dgradG _ | .wgrad _
  | .paired _ | .ropTable _ | .ropTableD _ | .ropGate _ | .ropGateD _ | .ropNorm _ | .ropNormApply _ | .ropNormD _
  | .ropSoftmax _ | .ropSoftmaxApply _ | .ropSoftmaxD _ | .ropDropout _ | .stream _ | .courier _ | .rollcall _
  | .bucket _ | .commandIssue _ | .quePush _ | .doorbell _ _ _ | .resume _ | .skip _ | .flush _ | .halt _ | .run _
  | .signal _ _ | .asmMaskWrite _ _ | .closingAssemblyAct | .resStatusRead _ | .resTake _ | .deadlock | .periodStart
  | .closingSequenceStart | .sweepStart | .sweepEnd | .ttbRun | .ttbHalt | .ttbNextWrite _ | .termChange
  | .checkpointEnd | .stageTimeout _ _ | .heldOpenRetry _ | .placeTimeout _ | .plnLastInRead | .philoxCtrWrite _ _
  | .numHistSelWrite _ | .numHistStateRead | .mkrDigSelWrite _ | .digestDone | .mkrCardSelWrite _ | .mkrCardFlagsRead
  | .stmStart _ _ | .stmAbort _ | .streamEntryIssue _ | .streamPassEnd _ | .satchelReceive _ | .crsStart _ _
  | .crsAbort _ | .crsContinue _ | .courierBurst | .courierBurstDone | .paceTimer _ | .memCreditReturn _ _
  | .farLinkDown | .engineCredit _ | .engineTimeout _ | .hostWrite _ _ _ _ | .tapDbgacc _ _ _ | .mcastDetach _
  | .bucketDeadline _ _ | .collectiveTimeout _ _ | .collectiveLostTimeout _ _ | .recoverySourceDone _ _ _ | .swAbort
  | .rearmFirst | .abortConfirmTimeout | .ucieLinkDown _ | .ucieSideband _ _ | .secRestoreStart | .restoreComplete
  | .secExportStart _ | .exportComplete | .zeroise | .entropyFail | .recessEntry | .fclkEnable | .monitorReading _ _
  | .governorWindow _ _ _ | .droop | .droopRelease | .telemetryWord _ _ | .pwrVfWrite _ _ | .farLinkUp
  | .ucieLinkTrained _ | .droopDeasserted | .fclkEnLowered => true

end Sys2Proof
end

