-- ==== Sys2Proof/Tests/Slice0.lean ====
section
/-! SUPPORT. The tests: an ill-formed command for each check of WellFormed, values that the spec gives, single steps; and
for each statement with hypotheses, concrete states and operands that meet all of them together. -/

set_option maxRecDepth 4000
set_option exponentiation.threshold 600

namespace Sys2Proof.Machine

/-! ## Small states -/

/-- The OBJECTS section of the examples: 4 contexts, 4 queues with rings of 4, 8 bells, 2 assemblies, 4 slots, 4 lockers,
2 couriers. -/
def exObjects : Bytes := [4, 4, 4, 8, 2, 4, 4, 2].flatMap fun n => leBytes 4 n

/-- A full image with these sections. -/
def exImage (sect : Tab Bytes) : Image :=
  { kind := 1, level := 3, serial := 7, baseSerial := 0, applyStep := 0, digest := 0, ownerKey := [], len := 64, sect := sect, all := [] }

/-- The reset state with a syllabus in force that has these sections. -/
def exWith (sect : Tab Bytes) : State := { State.reset with syl := some (exImage sect) }

/-- The reset state with objects. -/
def exS : State := exWith [(tyObjects, exObjects)]

/-- A command with this opcode, and further fields: byte offset, bytes, value. -/
def exCmd (op : Nat) (fs : List (Nat × Nat × Nat)) : Cmd :=
  fs.foldl (fun c f => cmdSet c f.1 f.2.1 f.2.2) (cmdSet 0 0 1 op)

/-- `s` with command `c` issued at queue 1, held aside. -/
def exIssued (s : State) (c : Cmd) : State :=
  { s with ques := [(1, { (default : Que) with aside := some (c, none), issued := true })] }

/-! ## Steps and resets -/

theorem witness_IdleStepIsOneCycle : State.reset.pending = [] := rfl

theorem witness_StepKeepsMemoryCanonical :
    ({ State.reset with t0 := [(5, 1)] } : State).memOk ∧ ∃ t, step { State.reset with t0 := [(5, 1)] } = .next t :=
  ⟨by unfold State.memOk; decide, _, rfl⟩

theorem witness_ResetsByKind : State.reset.part.form = 0 := rfl

/-! ## The loader -/

theorem witness_LoaderCommands_start :
    exS.sylBusy 1 false true = false ∧ exS.sylBusy 2 false = false
      ∧ meets exS.sylSrc (2 ^ 26) (exS.secondHalf exS.part.form) (2 ^ 26) = false
      ∧ State.reset.sylBusy 1 true true = false ∧ State.reset.sylBusy 2 true = false := by decide

/-- Form 3 of the package. -/
def exForm3 : State := { State.reset with part := { State.reset.part with form := 3 } }

theorem witness_LoaderCommands_relay : exForm3.head = false := by decide

theorem witness_LoaderCommands_busy :
    exS.sylBusy 1 false false = true ∧ exForm3.sylBusy 1 false true = true
      ∧ ({ State.reset with load := { Loader.reset with phase := 1 } } : State).sylBusy 2 false = true := by
  decide

/-- A push in progress, of which `n` bytes have come. -/
def exPushing (n : Nat) : State :=
  { State.reset with load := { Loader.reset with phase := 1, kind := 1, push := true, recv := List.replicate n 0, pushed := n } }

theorem witness_LoaderCommands_abort : (exPushing 8).pushing = true ∧ State.reset.pushing = false := by decide

theorem witness_PushDataAppendsBytes :
    State.reset.pushing = false ∧ (exPushing 0).pushing = true ∧ (exPushing 0).load.pushed + 8 ≠ 64
      ∧ (exPushing 56).pushing = true ∧ (exPushing 56).load.pushed + 8 = 64
      ∧ leAt ((exPushing 56).load.recv ++ leBytes 8 (0 : Word).toNat) 8 4 < 64 := by decide

/-- A stack load of this kind that waits for its image. -/
def exFetching (kind : Nat) : State := { State.reset with load := { Loader.reset with phase := 1, kind := kind } }

theorem witness_ImageIsVerifiedOrRefused :
    (exFetching 1).head = true ∧ (exFetching 1).part.whole = true ∧ (exFetching 1).load.phase = 1 ∧ (exFetching 1).load.push = false
      ∧ ((exFetching 1).verify 1 []).isSome = true := by decide

/-- A verified image that waits for its application. -/
def exVerified : State := { State.reset with load := { Loader.reset with phase := 3, kind := 1, verified := some (exImage []) } }

theorem witness_FullLoadInstallsImage :
    exVerified.load.verified = some (exImage []) ∧ State.reset.load.verified = none ∧ Sys2Proof.ApplyEnd.fault ≠ .done
      ∧ Sys2Proof.ApplyEnd.peer ≠ .done := ⟨rfl, rfl, by decide, by decide⟩

/-! ## Bells, assemblies, queues, results -/

theorem witness_SignalAddsToBell_plain :
    exS.fullLoading = false ∧ (65535#16).toNat < limBells exS.part.set ∧ exS.level = 3 ∧ Tab.wf exS.bells = true
      ∧ exS.isFlag 65535 = false := by decide

/-- A syllabus whose bells 2 and 3 are flags. -/
def exFlags : State := exWith [(tyObjects, exObjects), (tySync, leBytes 8 0 ++ leBytes 4 2 ++ leBytes 4 2 ++ leBytes 32 0)]

theorem witness_SignalAddsToBell_flag : exFlags.fullLoading = false ∧ exFlags.level = 3 ∧ exFlags.isFlag 3 = true
    ∧ exFlags.isFlag 4 = false ∧ (3#16).toNat < limBells exFlags.part.set := by decide

/-- An assembly of two members whose slot of sense 0 is full. -/
def exFull : Asm := { (default : Asm) with mask := 3, arr0 := 3 }

theorem witness_AssemblyMaskAndArrival_full :
    exFull.mask ≠ 0 ∧ exFull.drain exFull.parity = false ∧ exFull.count exFull.parity = popcount exFull.mask
      ∧ ¬ ((default : Asm).mask ≠ 0 ∧ (default : Asm).drain (default : Asm).parity = false
        ∧ (default : Asm).count (default : Asm).parity = popcount (default : Asm).mask) := by decide

theorem witness_AssemblyMaskAndArrival_mask : exS.fullLoading = false ∧ (1023#10).toNat < limAsms exS.part.set := by decide

/-- Assembly 1 with member 63 alone; assembly 2 drains; in assembly 3 member 0 has arrived. -/
def exAsms : State := { exS with asms :=
  [(1, { (default : Asm) with mask := 0x8000000000000000 }), (2, { (default : Asm) with mask := 1, arr1 := 1, drain1 := true }),
   (3, { (default : Asm) with mask := 3, arr0 := 1 })] }

theorem witness_AssemblyMaskAndArrival_arrival :
    (exAsms.asm 1).mask.getLsbD 62 = false
      ∧ ((exAsms.asm 2).mask.getLsbD 0 = true ∧ (exAsms.asm 2).drain 1 = true)
      ∧ ((exAsms.asm 3).mask.getLsbD 0 = true ∧ (exAsms.asm 3).drain 0 = false ∧ ((exAsms.asm 3).arr 0).getLsbD 0 = true)
      ∧ ((exAsms.asm 1).mask.getLsbD 63 = true ∧ (exAsms.asm 1).drain 1 = false ∧ ((exAsms.asm 1).arr 1).getLsbD 63 = false) := by
  decide

theorem witness_RebaseKeepsDifference : (0 : Nat) ≠ 7 ∧ Tab.wf exS.bells = true := by decide

/-- Queue 1 of `exS` with a full ring. -/
def exRingFull : State := { exS with ques := [(1, { (default : Que) with tail := 4, tags := List.replicate 4 none })] }

theorem witness_PushAppendsStagedCommand :
    (exS.fullLoading = false ∧ exS.queExists 3 = true ∧ exS.isTtQueue 3 = false ∧ exS.queFull 3 = false)
      ∧ (exRingFull.fullLoading = false ∧ exRingFull.queExists 1 = true ∧ exRingFull.isTtQueue 1 = false ∧ exRingFull.queFull 1 = true)
      ∧ exS.queExists 4 = false := by decide

/-- Queue 1 in state `r`. -/
def exRun (r : QRun) : State := { exS with ques := [(1, { (default : Que) with run := r, head := 1, tail := 2, tags := [none] })] }

theorem witness_QueueControl :
    ((exRun .going).fullLoading = false ∧ (1#13).toNat < limQueues exS.part.set)
      ∧ ((exRun .going).que 1).run = .going ∧ (exRun .going).queBusy 1 = false
      ∧ ((exRun .stopped).que 1).run ≠ .going ∧ ((exRun .stopped).que 1).run = .stopped ∧ ((exRun .halted).que 1).run ≠ .stopped := by
  decide

/-- A POST of 9 to slot 2. -/
def exPost : Cmd := exCmd 1 [(0x1C, 2, 2), (0x20, 8, 9)]

theorem witness_ResultSlots_post :
    (exIssued exS 0).issuedTo 1 0x00 = some (0, none) ∧ (exIssued exS exPost).issuedTo 1 0x01 = some (exPost, none) := by decide

theorem witness_ResultSlots_read :
    exS.fullLoading = false ∧ (4095#12).toNat < limSlots exS.part.set ∧ (Tab.get exS.slots 4095).valid = false
      ∧ (Tab.get ({ exS with slots := [(4095, { (default : ResSlot) with valid := true })] } : State).slots 4095).valid = true := by
  decide

/-- Queue 1 with one command held aside, not yet issued. -/
def exAside (c : Cmd) : State := { exS with ques := [(1, { (default : Que) with aside := some (c, none) })] }

/-- Queue 1 with POST `exPost` in its ring. -/
def exRing : State := { exS with
  t0 := Tab.putBytes [] (exS.ringAddr 1 0) (cmdBytes exPost)
  ques := [(1, { (default : Que) with tail := 1, tags := [none] })] }

theorem witness_IssueTestsHead_plain :
    (exRing.que 1).run = .going ∧ (exRing.que 1).held = false ∧ (exRing.que 1).issued = false ∧ (exRing.que 1).late = false
      ∧ (exRing.que 1).haltReq = false ∧ (exRing.que 1).aside = none ∧ (exRing.que 1).taken = false
      ∧ exRing.queEmpty 1 = false ∧ exRing.headOf 1 = (exPost, none)
      ∧ exRing.t0Bad (exRing.ringAddr 1 (exRing.que 1).head) 64 = false ∧ cSerial exPost = false
      ∧ exRing.illegalCmd (!exRing.isTtQueue 1) exPost = false ∧ cmdAt exPost 2 1 % 16 = 0 ∧ cmdUnit exPost = none
      ∧ exRing.servedNow 1 = true := by decide

theorem witness_IssueTestsHead_pass :
    (exAside exPost).ringBad 1 = false ∧ (exAside exPost).atIssue 1 = none
      ∧ (∃ c tag u, (exAside exPost).testHead 1 (exAside exPost).stuck = .pass c tag u
          ∧ (exAside exPost).waitsForPart 1 c tag = false ∧ (exAside exPost).servedNow 1 = true)
      ∧ (exAside exPost).testHead 2 (exAside exPost).stuck = .nothing :=
  ⟨by decide, by decide, ⟨exPost, none, exAside exPost, rfl, by decide, by decide⟩, rfl⟩

/-- Five queues, numbers 0 to 4, each with POST `exPost` at issue; a form of six queues. -/
def exCrowd : State :=
  let s := exWith [(tyObjects, [4, 6, 4, 8, 2, 4, 4, 2].flatMap fun n => leBytes 4 n)]
  { s with ques := (List.range 5).map fun q => (q, { (default : Que) with aside := some (exPost, none) }) }

theorem witness_IssueTestsHead_notServed :
    exCrowd.ringBad 0 = false ∧ exCrowd.atIssue 0 = none ∧ exCrowd.testHead 0 exCrowd.stuck = .pass exPost none exCrowd
      ∧ exCrowd.waitsForPart 0 exPost none = false ∧ exCrowd.servedNow 0 = false :=
  ⟨by decide, by decide, rfl, by decide, by decide⟩

/-- A command that waits for bell 1 to reach 5, and one with a reserved opcode. -/
def exWait : Cmd := exCmd 0 [(2, 1, 2), (4, 2, 1), (0xC, 4, 5)]

theorem witness_IssueTestsHead_waits :
    (exAside exWait).ringBad 1 = false ∧ (exAside exWait).atIssue 1 = none
      ∧ (exAside exWait).testHead 1 (exAside exWait).stuck = .waits
      ∧ (exAside (exCmd 0xFF [])).testHead 1 (exAside (exCmd 0xFF [])).stuck = .illegal := ⟨by decide, by decide, rfl, rfl⟩


/-! ## Registers with side effects, the marker's digests -/

theorem witness_ViewRegisters : exS.fullLoading = false ∧ Tab.wf exS.regs = true := by decide

/-- A MARKER section with one piece, of 128 by 256, four layers and staging runs of four tiles. -/
def exMarker : Bytes := leBytes 0x10 0 ++ leBytes 4 1 ++ leBytes 4 0x80 ++ leBytes 0x24 0 ++ leBytes 2 4 ++ leBytes 2 4
  ++ leBytes 0x40 0 ++ leBytes 4 128 ++ leBytes 4 256 ++ leBytes 0x38 0

/-- The reset state with objects and a marker of one piece. -/
def exMk : State := exWith [(tyObjects, exObjects), (tyMarker, exMarker)]

theorem witness_ViewRegisters_card : exMk.fullLoading = false ∧ exMk.regF aMkrCardSel 0 10 < exMk.mkLayers := by decide

theorem witness_DigestSelectAndDone :
    exMk.fullLoading = false
      ∧ ((exMk.setReg aMkrDigSel ((0 : Word) &&& 0x000003FFFF01FFFF#64)).setReg aMkrDig 0).digPiece < exMk.mkPieces
      ∧ ((exMk.setReg aMkrDigSel ((0 : Word) &&& 0x000003FFFF01FFFF#64)).setReg aMkrDig 0).digKind = false
      ∧ (let s : State := { exMk with mkr := { exMk.mkr with digReady := true } }
         Tab.wf s.regs = true ∧ s.mkr.digReady = true ∧ bitAt (s.reg aMkrDigSel) 63 = false) := by decide

/-! ## Lockers -/

/-- Objects, a cloakroom of which 64 KiB are rings and 1 MiB is lockers, and one MiB of locker slots in T1. -/
def exTiers : State := exWith [(tyObjects, exObjects), (tyCloakroom, leBytes 8 0 ++ leBytes 4 1 ++ leBytes 4 16 ++ leBytes 48 0),
  (tyTiers, leBytes 8 0 ++ leBytes 8 1048576 ++ leBytes 8 0 ++ leBytes 1 1 ++ leBytes 7 0 ++ leBytes 8 0 ++ leBytes 8 1048576
    ++ leBytes 64 0)]

/-- OPEN of locker 1, one tile of FP32, at T1, one read. -/
def exOpen : Cmd := exCmd 0x10 [(0x1C, 4, 1), (0x22, 1, 1), (0x23, 1, 0x10), (0x24, 4, 1)]

/-- OPEN of `n` tiles of locker 1, not FREE before at generation 0. -/
def exHeldOpen : State :=
  let s := exIssued exTiers (cmdSet exOpen 0x22 1 2)
  { s with pln := { s.pln with held := [⟨1, cmdSet exOpen 0x22 1 2⟩] } }

theorem witness_OpenPlacesOrHolds_placed :
    let s := exIssued exTiers exOpen
    let c2 := cmdSet exOpen 0x22 1 2
    s.issuedTo 1 0x10 = some (exOpen, none) ∧ (s.reg aLkrEpoch).toNat + 1 < 2 ^ 64 ∧ cPlace exOpen = 1
      ∧ cLength exOpen + s.plT0Reserve ≤ s.largestFree 0 1
      ∧ (s.openEntry exOpen none (cFormat exOpen) (cLength exOpen)).fit 0 1 1 = some 0
      ∧ s.pln.held.any (·.queue == 1) = false ∧ s.openRefusal exOpen = none
      ∧ exHeldOpen.issuedTo 1 0x10 = some (c2, none) ∧ (exHeldOpen.reg aLkrEpoch).toNat + 1 < 2 ^ 64 ∧ cPlace c2 = 2
      ∧ cLength c2 ≤ exHeldOpen.largestFree 1 1 ∧ (exHeldOpen.openEntry c2 none (cFormat c2) (cLength c2)).fit 1 1 1 = some 0
      ∧ exHeldOpen.pln.held.any (·.queue == 1) = true := by decide

theorem witness_OpenPlacesOrHolds_refused :
    let s := exIssued exTiers (exCmd 0x10 [])
    s.issuedTo 1 0x10 = some (exCmd 0x10 [], none) ∧ (s.que 1).late = false ∧ s.pln.held.any (·.queue == 1) = false
      ∧ s.openRefusal (exCmd 0x10 []) = some evLkrIllegal := by decide

/-- Locker 1 of generation 3 placed in tier `t`, one tile. -/
def exPlaced (t : Nat) : State := { exTiers with lkrs :=
  [(1, { (default : Locker) with
         e := { (default : LkrEnt) with st := lkPlaced, tier := t, len := 1, gen := 3, reads := 1 }, slotA := some (t, 0) })] }

/-- A command on locker 1 of generation `g`, towards tier `p`. -/
def exLkrCmd (op g p : Nat) : Cmd := exCmd op [(0x1C, 4, 1), (0x20, 2, g), (0x22, 1, p)]

theorem witness_LockerCommands_move :
    let c := exLkrCmd 0x11 3 1
    let s := exIssued (exPlaced 0) c
    s.lkrCheck c = none ∧ (s.lkr (cLocker c)).e.st = lkPlaced
      ∧ (s.lkr (cLocker c)).rel = false ∧ s.tierPresent (cPlace c) = true ∧ s.issuedTo 1 0x11 = some (c, none) ∧ cPlace c < 4
      ∧ (s.lkr (cLocker c)).e.tier ≠ cPlace c ∧ s.fit (cPlace c) (cLocker c) (s.lkr (cLocker c)).e.len = some 0 := by decide

theorem witness_LockerCommands_recall (tier : Nat) (h : tier = 0 ∨ tier = 2) :
    let c := exLkrCmd 0x12 3 1
    let s := exIssued (exPlaced tier) c
    s.lkrCheck c = none ∧ (s.lkr (cLocker c)).e.st = lkPlaced
      ∧ (s.lkr (cLocker c)).rel = false ∧ s.tierPresent (cPlace c) = true ∧ s.issuedTo 1 0x12 = some (c, none) ∧ cPlace c < 2
      ∧ (s.lkr (cLocker c)).e.tier = tier
      ∧ (2 ≤ tier → s.fit (cPlace c) (cLocker c) (s.lkr (cLocker c)).e.len = some 0) := by
  obtain rfl | rfl := h <;> decide

theorem witness_LockerCommands_read :
    let c := exLkrCmd 0x13 3 0
    let s := exIssued (exPlaced 0) c
    s.issuedTo 1 0x13 = some (c, none) ∧ s.lkrCheck c = none ∧ cConsume c = false
      ∧ (s.lkr (cLocker c)).readIllegal false = false := by decide

theorem witness_LockerCommands_release :
    let c := exLkrCmd 0x14 3 0
    let s := exIssued (exPlaced 0) c
    s.issuedTo 1 0x14 = some (c, none) ∧ s.lkrCheck c = none ∧ (s.lkr (cLocker c)).e.st ≠ lkFree := by decide

theorem witness_LockerCommands_refused (op : Nat) (h : op = 0x11 ∨ op = 0x12 ∨ op = 0x13 ∨ op = 0x14) :
    let c := exLkrCmd op 2 0
    let s := exIssued (exPlaced 0) c
    s.issuedTo 1 op = some (c, none) ∧ s.lkrCheck c = some evLkrStale ∧ (s.que 1).late = false := by
  obtain rfl | rfl | rfl | rfl := h <;> decide

/-! ## Benches and row units -/

/-- A satchel of format `f` with this valid corner, its payload zero. -/
def exTile (f vr vc : Nat) : Bytes :=
  leBytes 1 f ++ leBytes 1 (shapeOf f).code ++ leBytes 2 0 ++ leBytes 2 vr ++ leBytes 2 vc ++ leBytes 56 0
    ++ List.replicate ((shapeOf f).scale + (shapeOf f).pay) 0

/-- Context `c` holds these tiles as its whole pass. -/
def exInbox (ts : List Bytes) : Stream := { (default : Stream) with inbox := ts }

/-- A flight of this command at queue 1. -/
def exFlight (c : Cmd) : Flight := { queue := 1, cmd := c, tag := none, done := false, dropped := false, amax := 0, ran := false, bound := false }

/-- A form whose unit 1 holds `c`, with these tiles at contexts 1, 2 and 3. -/
def exUnit (c : Cmd) (a b d : List Bytes) : State :=
  { exS with flights := [exFlight c], stms := [(1, exInbox a), (2, exInbox b), (3, exInbox d)] }

/-- A PRODUCT of unit 1 with operation `op` and destination `dest`. -/
def exProduct (op dest : Nat) (steps : Nat := 4) : Cmd :=
  exCmd 0x20 [(0x1C, 1, 1), (0x1D, 1, op), (0x1E, 1, 16 * dest + 1), (0x1F, 1, 0xFF), (0x20, 2, 1), (0x22, 2, 2), (0x26, 2, 3),
    (0x28, 4, steps), (0x37, 1, 0xFF)]

theorem witness_ProductRunsOnOperands (op dest : Nat) (h : op < 4) (hd : dest < 3) :
    let f := exFlight (exProduct op dest)
    let s := exUnit f.cmd [exTile 1 4 4] [exTile 1 4 4] []
    let ts := [(1, [exTile 1 4 4]), (2, [exTile 1 4 4])]
    ∃ sv a : Opd, s.unitFlight 1 = some f ∧ cOp f.cmd = 0x20 ∧ uProd f.cmd = op ∧ s.blockInputs f = some ts
      ∧ operandAt ts 0 (s.stepsLeft f.cmd) (prodByRows op) = some sv ∧ operandAt ts 1 (s.stepsLeft f.cmd) (op == 3) = some a
      ∧ pairOk sv.fmt a.fmt = true ∧ s.maskBad f.cmd (prodVecs op sv a).1.length (prodVecs op sv a).2.length = none
      ∧ (s.suspOf f.cmd).any (fun p => p.m != (prodVecs op sv a).1.length || p.n != (prodVecs op sv a).2.length) = false
      ∧ uDest f.cmd = dest := by
  obtain rfl | rfl | rfl | rfl : op = 0 ∨ op = 1 ∨ op = 2 ∨ op = 3 := by omega
  all_goals
    obtain rfl | rfl | rfl : dest = 0 ∨ dest = 1 ∨ dest = 2 := by omega
    all_goals exact ⟨_, _, by decide, by decide, by decide, rfl, rfl, rfl, rfl, rfl, rfl, by decide⟩

/-- One tile of three is there: the block is suspended. -/
theorem witness_ProductRunsOnOperands_short :
    let f := exFlight (exProduct 0 1 300)
    let s := exUnit f.cmd [exTile 1 128 4] [exTile 1 4 128] []
    ∃ ts, s.unitFlight 1 = some f ∧ cOp f.cmd = 0x20 ∧ uProd f.cmd = 0 ∧ s.blockInputs f = some ts
      ∧ operandAt ts 0 (s.stepsLeft f.cmd) (prodByRows 0) = none := ⟨_, by decide, by decide, by decide, rfl, rfl⟩

/-- A suspended block of 4 by 4 that has taken two steps of four. -/
theorem witness_ProductRunsOnOperands_resumed :
    let f := exFlight (exProduct 0 1)
    let s0 := exUnit f.cmd [exTile 1 2 4] [exTile 1 4 2] []
    let s : State := { s0 with bnc := { s0.bnc with parts :=
      [{ key := suspKey f.cmd, r := 2, m := 4, n := 4, cells := List.replicate 4 (List.replicate 4 (0, 0)) }] } }
    ∃ ts, ∃ sv a : Opd, s.unitFlight 1 = some f ∧ cOp f.cmd = 0x20 ∧ uProd f.cmd = 0 ∧ s.blockInputs f = some ts
      ∧ operandAt ts 0 (s.stepsLeft f.cmd) (prodByRows 0) = some sv ∧ operandAt ts 1 (s.stepsLeft f.cmd) false = some a
      ∧ pairOk sv.fmt a.fmt = true ∧ s.maskBad f.cmd (prodVecs 0 sv a).1.length (prodVecs 0 sv a).2.length = none
      ∧ (s.suspOf f.cmd).any (fun p => p.m != (prodVecs 0 sv a).1.length || p.n != (prodVecs 0 sv a).2.length) = false
      ∧ (s.suspOf f.cmd).isSome = true ∧ uDest f.cmd = 1 :=
  ⟨_, _, _, by decide, by decide, by decide, rfl, rfl, rfl, rfl, rfl, rfl, by decide, by decide⟩

/-- The product is given to DROPOUT. -/
def exChained : State :=
  { exUnit (exProduct (16 * 10) 3) [] [] [] with
    stms := [(1, exInbox [exTile 1 4 4]), (2, exInbox [exTile 1 4 4]), (3, { (default : Stream) with st := 1 })] }
def exOpds (op : Nat) : Opd × Opd := ((mkOpd [exTile 1 4 4] 4 (prodByRows op)).getD Opd.empty, (mkOpd [exTile 1 4 4] 4 (op == 3)).getD Opd.empty)
def exTs : List (Nat × List Bytes) := [(1, [exTile 1 4 4]), (2, [exTile 1 4 4])]

theorem witness_ProductRunsOnOperands_chained :
    let f := exFlight (exProduct (16 * 10) 3)
    let s := exChained
    s.unitFlight 1 = some f ∧ cOp f.cmd = 0x20 ∧ uProd f.cmd = 0 ∧ s.blockInputs f = some exTs
      ∧ operandAt exTs 0 (s.stepsLeft f.cmd) (prodByRows 0) = some (exOpds 0).1
      ∧ operandAt exTs 1 (s.stepsLeft f.cmd) false = some (exOpds 0).2
      ∧ uDest f.cmd = 3 ∧ rowShapes (uChain f.cmd) 4 4 (operandAt exTs 2 4 false) none = true :=
  ⟨by decide, by decide, by decide, rfl, rfl, rfl, by decide, rfl⟩

theorem witness_ProductRunsOnOperands_chainedRuns :
    let f := exFlight (exProduct (16 * 10) 3)
    let s := exChained
    let y := prodMat s.nmSpill (s.maskEntries f.cmd 4 4) (prodVecs 0 (exOpds 0).1 (exOpds 0).2).1 (prodVecs 0 (exOpds 0).1 (exOpds 0).2).2
    let t := s.runRow f exTs (uChain f.cmd) 4 y (((operandAt exTs 2 4 false).map rowMat).getD []) [] (matBad y)
    t.flights.any (· == f) = false ∧ t.flights.any (fun g => g.queue == f.queue && g.cmd == f.cmd && g.ran) = true := by
  decide +kernel

/-- A PRODUCT whose block has no room in the partial store waits. -/
def exNoRoom : State :=
  let s := exAside (exProduct 0 0)
  let dst (n : Nat) : Stream := { (default : Stream) with dst := word n }
  { s with part := { s.part with set := 1 }, stms := [(1, dst 0x4000000000000001), (2, dst 0x4000000000000011), (3, dst 0x1000000000000000)] }

theorem witness_IssueTestsHead_noRoom :
    exNoRoom.ringBad 1 = false ∧ exNoRoom.atIssue 1 = none ∧ exNoRoom.waitsForPart 1 (exProduct 0 0) none = true
      ∧ exNoRoom.testHead 1 exNoRoom.stuck = .pass (exProduct 0 0) none exNoRoom :=
  ⟨by decide, by decide, by decide, rfl⟩

theorem witness_ProductElementIsDot : ([[none], [none]] : List (List (Option Fp)))[1]? = some [none] := rfl

theorem witness_RowOperationRuns (op : Nat) (h : op < 11) :
    let f := exFlight (exCmd 0x22 [(0x1C, 1, 1), (0x1D, 1, op), (0x20, 2, 1), (0x22, 2, 2), (0x24, 2, 3), (0x28, 4, 4)])
    let b := if op = 4 ∨ op = 5 ∨ op = 6 then exTile 0 2 4 else exTile 1 4 4
    let s := exUnit f.cmd [exTile 1 4 4] [b] [exTile 1 4 4]
    ∃ ts x, s.unitFlight 1 = some f ∧ cOp f.cmd = 0x22 ∧ uRow f.cmd = op ∧ s.inputsOf f = some ts
      ∧ operandAt ts 0 (uSteps f.cmd) false = some x
      ∧ rowShapes op (uSteps f.cmd) x.rows (operandAt ts 1 (uSteps f.cmd) false) (operandAt ts 2 (uSteps f.cmd) false) = true := by
  obtain rfl | rfl | rfl | rfl | rfl | rfl | rfl | rfl | rfl | rfl | rfl : op = 0 ∨ op = 1 ∨ op = 2 ∨ op = 3 ∨ op = 4 ∨ op = 5
    ∨ op = 6 ∨ op = 7 ∨ op = 8 ∨ op = 9 ∨ op = 10 := by omega
  all_goals exact ⟨_, _, by decide, by decide, by decide, rfl, rfl, rfl⟩

theorem witness_RowOperationRuns_elements :
    ([[some (v32 0x3F800000)]] : Mat)[0]? = some [some (v32 0x3F800000)] ∧ [some (v32 0x3F800000)][0]? = some (some (v32 0x3F800000)) :=
  ⟨rfl, rfl⟩

/-- PAIRED with `w` streamed tiles of X and `d` of W for each stationary tile. -/
def exPaired (w d : Nat) : Flight :=
  exFlight (exCmd 0x21 [(0x1C, 1, 1), (0x1F, 1, 0xFF), (0x20, 2, 1), (0x22, 2, 2), (0x24, 2, 2), (0x26, 2, 3), (0x28, 2, w), (0x2A, 2, d),
    (0x37, 1, 0xFF)])

set_option maxRecDepth 60000 in
theorem witness_PairedAccumulates (w d : Nat) (h : (w = 1 ∧ d = 0) ∨ (w = 0 ∧ d = 1) ∨ (w = 1 ∧ d = 1)) :
    let f := exPaired w d
    let s := exUnit f.cmd [exTile 1 4 4] [exTile 1 4 4] []
    let ts := (1, [exTile 1 4 4]) :: List.replicate (w + d) (2, [exTile 1 4 4])
    let p := (pairedOf f.cmd ts).1
    let g := (pairedOf f.cmd ts).2
    s.unitFlight 1 = some f ∧ cOp f.cmd = 0x21 ∧ s.inputsOf f = some ts ∧ p.ok = true ∧ p.w = w ∧ p.d = d
      ∧ s.maskBad f.cmd p.wRows (p.wCols g) = none ∧ p.done.length = p.ss.length * (p.w + p.d) := by
  obtain ⟨rfl, rfl⟩ | ⟨rfl, rfl⟩ | ⟨rfl, rfl⟩ := h
  all_goals exact ⟨by decide, by decide, rfl, by decide +kernel, by decide, by decide, rfl, by decide +kernel⟩

/-! ## Completion, the closing of a step, deadlock -/

/-- A finished command of queue 1 that adds 3 to bell 2. -/
def exDone : Flight := { exFlight (exCmd 0 [(2, 1, 0x10), (8, 2, 2), (0x14, 4, 3)]) with done := true }

theorem witness_CompletionAppliesSignals :
    let s : State := { exS with flights := [exDone] }
    s.calm ∧ s.oldestOver 1 = some exDone ∧ exDone.tag = none ∧ cmdArrivals exDone.cmd = [] ∧ exS.oldestOver 1 = none := by
  unfold State.calm; decide

/-- A LEARN section of two periods and one entry, of four commands, at queue 0. -/
def exLearn : Bytes := leBytes 2 2 ++ leBytes 2 1 ++ leBytes 8 0 ++ leBytes 4 0x40 ++ leBytes 4 0x60 ++ leBytes 0x2C 0
  ++ (leBytes 6 0 ++ leBytes 2 0xFFFF ++ leBytes 8 0) ++ (leBytes 6 0 ++ leBytes 2 1 ++ leBytes 4 5 ++ leBytes 4 0)
  ++ (leBytes 8 0 ++ leBytes 4 4 ++ leBytes 4 0x80) ++ leBytes 16 0 ++ (List.range 4).flatMap fun _ => leBytes 64 0

/-- A learning term runs: period `p` has started, `d` have drained, and the sequencer is in phase `ph`. -/
def exTerm (ph p d : Nat) : State :=
  { exWith [(tyObjects, exObjects), (tyMarker, exMarker), (tyLearn, exLearn)] with
    tut := { Tutor.reset with st := 1, phase := ph, term := 1, mainTerm := 1, started := p, drained := d } }

theorem witness_ClosingOfStep_start :
    let s := exTerm 1 2 2
    s.tut.phase = 1 ∧ s.tut.st = 1 ∧ s.tut.drained = ttPeriods s.ttSect ∧ s.tut.drained ≠ 0 ∧ exS.tut.phase ≠ 1 := by decide

theorem witness_ClosingOfStep_outside :
    let s : State := { exS with tut := { Tutor.reset with boundary := true } }
    s.tut.boundary = true ∧ s.tut.st = 0 ∧ exS.tut.boundary = false := by decide

/-- The form has arrived at the closing assembly, and a round of it has completed; HALT was written or not. -/
def exArrivedAt (halt : Bool) : State :=
  let s := exTerm 2 0 0
  { s with tut := { s.tut with closing := .arrive, boundary := true, haltPending := halt } }

theorem witness_ClosingOfStep_inside (halt : Bool) :
    let s := exArrivedAt halt
    s.tut.boundary = true ∧ s.tut.phase = 2 ∧ s.tut.closing = .arrive ∧ s.tut.st ≠ 0 := by
  revert halt; decide

/-- With an abort held for the boundary the tutor stands HALTED after it, and otherwise it goes on. -/
theorem witness_ClosingOfStep_abort (held : Bool) :
    let s0 := exArrivedAt false
    let s : State := { s0 with err := { s0.err with held := if held then some (evSwAbort.code, 0, 0) else none } }
    let u : State := { s with tut := { s.tut with boundary := decide (s.tut.extra ≠ 0), extra := s.tut.extra - 1 } }
    let v := u.closeRelease.boundaryActs
    let w := ({ v with tut := { v.tut with
      phase := 0, closing := .idle, termSteps := min 0xFFFF (v.tut.termSteps + 1), between := [1, 2, 3, 4]
      runs := v.tut.runs.filter fun r => r.kind != 0 } } : State).applyHeld
    (w.tut.st = 0) = (held = true) := by
  revert held; decide

theorem witness_DeadlockReportsOnce :
    let s : State := { exWith [(tyObjects, exObjects), (tySync, leBytes 4 100 ++ leBytes 0x18 0 ++ leBytes 2 4 ++ leBytes 0x22 0)] with
      ques := [(1, { (default : Que) with aside := some (exWait, none), waiting := true })] }
    s.isStalled = true ∧ s.deadlockUs ≠ 0 ∧ s.sync.dlLogged = false ∧ exS.isStalled = false := by decide

/-! ## The timetable -/

/-- Period 1 has been copied, and the bell of period 2 stands at 5. -/
def exReady : State := { exTerm 1 1 0 with bells := [(1, 5)] }

theorem witness_PeriodsAndEntries_period :
    let s := exReady
    let p := s.tut.started + 1
    (s.tut.phase = 1 ∨ s.tut.phase = 3) ∧ s.tut.st ≠ 0 ∧ s.tut.started ≠ 0 ∧ p ≤ ttPeriods s.ttSect
      ∧ s.perCopied s.tut.started = true ∧ (ttPer s.ttSect p 6 2 = 0xFFFF ∨ ttPer s.ttSect p 8 4 ≤ s.bell (ttPer s.ttSect p 6 2)) := by
  decide

/-- An entry of period 1 of which nothing has been copied. -/
def exRunOf : EntRun :=
  { kind := 0, run := 0, entry := 0, period := 1, copied := 0, doneCount := 0, ended := false, deemed := [], signalled := [], finished := [] }

/-- Three of its four commands have been copied. -/
def exCopied : State := { exReady with tut := { exReady.tut with runs := [{ exRunOf with copied := 3 }] } }

theorem witness_PeriodsAndEntries_entry :
    let r := { exRunOf with copied := 3 }
    let s := exCopied
    s.tut.runs.find? (fun r => r.kind == (0 : BitVec 2).toNat && r.run == (0 : BitVec 18).toNat && r.entry == (0 : BitVec 16).toNat)
        = some r
      ∧ s.nextEntry (s.entQue r) = some r ∧ s.queFull (s.entQue r) = false ∧ s.entLen r = r.copied + 1
      ∧ (let u : State := { s with ques := [(0, { (default : Que) with tail := 4, tags := List.replicate 4 none })] }
         u.nextEntry (u.entQue r) = some r ∧ u.queFull (u.entQue r) = true) := by
  decide

/-- The closing sequence stands at the sweep, with the gate's verdict `skip`. -/
def exGated (skip : Bool) : State :=
  let s := exTerm 2 2 2
  { s with tut := { s.tut with closing := .clip }, mkr := { s.mkr with gateDone := true, skip := skip } }

theorem witness_SweepTakesOneEpoch (skip : Bool) :
    (exGated skip).tut.closing = .clip ∧ (exGated skip).mkr.gateDone = true ∧ (exGated skip).mkr.skip = skip
      ∧ (exGated skip).mkClipEn = false ∧ (exGated skip).recordsComing = false ∧ (exGated skip).ckptRuns = false
      ∧ (exGated skip).exp = none ∧ ((exGated skip).reg aLkrEpoch).toNat + 1 < 2 ^ 64 := by
  revert skip; decide

theorem witness_SweepTakesOneEpoch_end :
    let s : State := { exGated false with mkr := { (exGated false).mkr with phase := 4, epoch := 1 } }
    s.mkr.phase = 4 ∧ s.mkr.recWrites = 0 ∧ Tab.wf s.regs = true := by decide

/-- The tutor halted, with a LEARN section and a form that serves. -/
def exHalted : State := { exTerm 0 0 0 with tut := Tutor.reset }

/-- No LEARN, EXAM or other term's section in force. -/
def exNoTerm : State := exWith [(tyObjects, exObjects), (tyMarker, exMarker)]

theorem witness_TimetableControl :
    exHalted.fullLoading = false ∧ exHalted.runAllowed = true ∧ exHalted.runTerm ≠ 0 ∧ (exTerm 1 1 0).runAllowed = false
      ∧ exNoTerm.runAllowed = true ∧ exNoTerm.runTerm = 0
      ∧ (exTerm 1 1 0).tut.st = 1 ∧ exHalted.tut.st ≠ 1
      ∧ (fld (0 : Word) 32 32 + 2 ^ 32 - exHalted.stepCtr.toNat) % 2 ^ 32 < 2 ^ 31
      ∧ 2 ^ 31 ≤ (fld (0xFFFFFFFF00000000 : Word) 32 32 + 2 ^ 32 - exHalted.stepCtr.toNat) % 2 ^ 32 := by decide

theorem witness_TermAndCheckpointEnd :
    (exTerm 5 0 0).tut.phase = 5 ∧ (exTerm 5 0 0).drainedAll = true ∧ exS.tut.phase ≠ 5 := by decide

theorem witness_TermAndCheckpointEnd_ckpt (base : Option Word) (h : base = none ∨ base = some 0 ∨ base = some 0x800000000000000) :
    let k : Ckpt := { index := [], base := base, key := 0, writes := 0, phase := 0 }
    let s : State := { exHalted with ckp := some k, tut := { Tutor.reset with ckpt := true } }
    s.ckp = some k ∧ s.tut.ckpt = true ∧ k.phase = 0 ∧ k.writes = 0 ∧ s.ckptStreamed = true
      ∧ (0 : Word) = 0 ∧ sealFab 0 = false ∧ sealFab 0x800000000000000 = true := by
  obtain rfl | rfl | rfl := h <;> decide

/-! ## Staging runs and timeouts -/

/-- A staging run that waits for room. -/
def exStage : StageRun :=
  ⟨1, 0, 0, 1, 1, none, 0, [], 0, [], none, 0, false, none⟩

theorem witness_RoomAndTimeouts_alloc :
    let n := ((List.range (exMk.pcNm 0 - 0)).find? fun n => decide ((4#12).toNat ≤ (exMk.runTiles 0 0 (n + 1)).length)).getD 0 + 1
    ((0#18).toNat < exMk.mkPieces ∧ (0#16).toNat < exMk.pcNm (0#18).toNat ∧ (4#12).toNat ≤ exMk.mkBucketTiles
      ∧ exMk.runMeets 0 0 n exMk.stageStep = false)
      ∧ exMk.mkPieces ≤ (1#18).toNat ∧ exMk.pcNm 0 ≤ (1#16).toNat ∧ exMk.mkBucketTiles < (5#12).toNat := by decide

theorem witness_RoomAndTimeouts_place :
    let s : State := { exS with pln := { exS.pln with held := [⟨1, exOpen⟩] } }
    s.pln.held.find? (·.queue == 1) = some ⟨1, exOpen⟩ ∧ s.calm ∧ (s.que 1).late = false
      ∧ ({ s with tut := { s.tut with st := 1 } } : State).tut.st ≠ 0 := by unfold State.calm; decide

theorem witness_RoomAndTimeouts_stage :
    (({ exMk with mkr := { exMk.mkr with runs := [exStage] } } : State).mkr.runs.find? fun r =>
      r.piece == (0#18).toNat && r.first == (0#16).toNat && r.place.isNone) = some exStage := by decide

/-! ## Streams -/

/-- Objects, and a cloakroom of 64 KiB of rings, 1 MiB of lockers, 1 MiB of window and 64 KiB of scratch. -/
def exCloak : State := exWith [(tyObjects, exObjects),
  (tyCloakroom, leBytes 8 0 ++ leBytes 4 1 ++ leBytes 4 16 ++ leBytes 4 16 ++ leBytes 4 0 ++ leBytes 4 1 ++ leBytes 36 0)]

/-- From the T0 window, by the entries' numbers, to bench 0: two entries at the start of SCRATCH. -/
def exStm (st : Nat) : Stream := { (default : Stream) with
  index := word (at_ 32 2 + exCloak.t0Scratch), src := word (at_ 60 2), dst := word (at_ 60 4), st := st }

/-- Context 1 of `exCloak` in state `st`. -/
def exStms (st : Nat) : State := { exCloak with stms := [(1, exStm st)] }

theorem witness_StreamStarts (st : Nat) (h : st = 0 ∨ st = 1 ∨ st = 2 ∨ st = 3) :
    (exStms st).fullLoading = false ∧ (1#12).toNat < limStreams (exStms st).part.set ∧ bitAt (1 : Word) 1 = false
      ∧ bitAt (3 : Word) 1 = true
      ∧ (let u := (exStms st).modStm 1 fun x => { x with ctrl := (1 : Word) &&& stmCtrlMask }
         (u.stm 1).st = st
           ∧ (st = 0 → u.startBad (u.stm 1) false = false ∧ u.genStale (u.stm 1).src = false ∧ u.dstStale (u.stm 1).dst = false)) := by
  obtain rfl | rfl | rfl | rfl := h <;> decide

theorem witness_StreamStarts_illegal :
    let u := exCloak.modStm 1 fun x => { x with ctrl := (1 : Word) &&& stmCtrlMask }
    (u.stm 1).st = 0 ∧ u.startBad (u.stm 1) false = true := by decide

/-- Locker 1 as destination under GEN 5, whose GEN is 3. -/
def exStale : State := { exCloak with
  lkrs := [(1, { (default : Locker) with e := { (default : LkrEnt) with st := lkOpen, len := 1, gen := 3 } })]
  stms := [(1, { exStm 0 with dst := word (at_ 60 1 + at_ 32 1 + 5) })] }

theorem witness_StreamStarts_stale :
    let u := exStale.modStm 1 fun x => { x with ctrl := (1 : Word) &&& stmCtrlMask }
    (u.stm 1).st = 0 ∧ u.startBad (u.stm 1) false = false ∧ u.dstStale (u.stm 1).dst = true := by decide

/-- The STREAM command for context 1 of the same set-up. -/
def exStreamCmd : Cmd := exCmd 0x30 [(0x1C, 2, 1), (0x24, 4, 2), (0x28, 4, exCloak.t0Scratch), (0x2C, 8, 2 ^ 61), (0x34, 8, 2 ^ 62)]

theorem witness_StreamStarts_command :
    let s := exIssued exCloak exStreamCmd
    let c := sCtx exStreamCmd
    let r := s.streamRegs exStreamCmd
    let u := s.modStm c fun x => { x with ctrl := r.1, index := r.2.1, src := r.2.2.1, dst := r.2.2.2 }
    s.issuedTo 1 0x30 = some (exStreamCmd, none) ∧ Tab.wf s.stms = true ∧ s.ckptCmd 1 = false ∧ (s.stm c).st = 0
      ∧ u.startBad (u.stm c) false = false ∧ u.genStale (u.stm c).src = false ∧ u.dstStale (u.stm c).dst = false
      ∧ ((exIssued (exStms 1) exStreamCmd).stm (sCtx exStreamCmd)).st = 1
      ∧ (exIssued (exStms 1) exStreamCmd).issuedTo 1 0x30 = some (exStreamCmd, none) := by decide

/-- A STREAM command without an index list. -/
theorem witness_StreamStarts_commandRefused :
    let c := exCmd 0x30 [(0x1C, 2, 1)]
    let s := exIssued exCloak c
    let r := s.streamRegs c
    let u := s.modStm (sCtx c) fun x => { x with ctrl := r.1, index := r.2.1, src := r.2.2.1, dst := r.2.2.2 }
    s.issuedTo 1 0x30 = some (c, none) ∧ s.ckptCmd 1 = false ∧ (s.stm (sCtx c)).st = 0
      ∧ u.startBad (u.stm (sCtx c)) false = true := by decide

/-- Context 1 runs, by the index on the destination side, from a unit or from the T0 window to `dst`; its first index entry is `e`. -/
def exRunning (e : Nat) (fed : Bool) (dst : Word) : State := { exCloak with
  t0 := (List.range 4).foldl (fun t i => Tab.put t (exCloak.t0Scratch + i) ((leBytes 4 e).getD i 0)) []
  stms := [(1, { exStm 1 with fed := fed, dst := dst })] }

/-- Engine channel 0, and the T0 window. -/
def exChannel : Word := word (at_ 60 6)
def exWindow : Word := word (at_ 60 2)

theorem witness_StreamEntriesAndEnd_issue :
    let ready (s : State) : Prop :=
      let x := s.stm 1
      x.st = 1 ∧ x.issued < x.passEnd ∧ x.ents.length < 16 ∧ s.isCkptCtx 1 = false ∧ s.dstHeld 1 = false ∧ bitAt x.ctrl 16 = false
        ∧ s.t0Bad (x.addr + 4 * x.issued) 4 = false
    let e (s : State) : Nat := leNat (s.t0Read (s.stm 1).addr 4)
    ready (exRunning 0xFFFFFFFF true exChannel) ∧ e (exRunning 0xFFFFFFFF true exChannel) = 0xFFFFFFFF
      ∧ ready (exRunning 7 true exChannel) ∧ e (exRunning 7 true exChannel) = 7
      ∧ ((exRunning 7 true exChannel).stm 1).fed = true ∧ (exRunning 7 true exChannel).itemOk 1 exChannel true 0 = true
      ∧ ready (exRunning 7 false exChannel) ∧ (exRunning 7 false exChannel).itemOk 1 (exStm 1).src false 7 = true
      ∧ ((exRunning 7 false exChannel).stm 1).fed = false ∧ epKind (exStm 1).src ≤ 3 := by decide

theorem witness_StreamEntriesAndEnd_range :
    (exRunning 0x1000000 false exChannel).itemOk 1 (exStm 1).src false 0x1000000 = false
      ∧ ((exRunning 0x1000000 false exChannel).stm 1).fed = false
      ∧ leNat ((exRunning 0x1000000 false exChannel).t0Read (exStm 1).addr 4) = 0x1000000
      ∧ (let s : State := { exStale with
           t0 := (exRunning 7 true exWindow).t0, stms := [(1, { exStm 1 with fed := true, dst := word (at_ 60 1 + at_ 32 2) })] }
         (s.stm 1).st = 1 ∧ leNat (s.t0Read (s.stm 1).addr 4) = 7
           ∧ s.itemOk 1 (s.stm 1).dst true (if (s.stm 1).idxSide then 7 else 0) = false) := by decide

theorem witness_StreamEntriesAndEnd_waits :
    let x := { exStm 1 with ctrl := word (at_ 48 3 + at_ 16 1) }
    let s : State := { exCloak with stms := [(1, x)] }
    (s.stm 1).st = 1 ∧ (s.stm 1).issued < (s.stm 1).passEnd ∧ bitAt (s.stm 1).ctrl 16 = true
      ∧ s.bell (fld (s.stm 1).ctrl 48 16) < (s.stm 1).issued + 1 := by decide

theorem witness_StreamEntriesAndEnd_poisoned :
    let s : State := { exStms 1 with t0Poison := [(exCloak.t0Scratch / 8, true)] }
    (s.stm 1).st = 1 ∧ bitAt (s.stm 1).ctrl 16 = false ∧ s.dstHeld 1 = false
      ∧ s.t0Bad ((s.stm 1).addr + 4 * (s.stm 1).issued) 4 = true := by decide

/-- The header of a satchel of one FP32 element, with its check code. -/
def exHdr : Bytes :=
  let h := leBytes 1 0 ++ leBytes 1 1 ++ leBytes 2 0 ++ leBytes 2 1 ++ leBytes 2 1 ++ leBytes 52 0
  h ++ leBytes 4 (crc32c h).toNat

/-- Context 1 runs towards an engine channel with a credit; its first entry's satchel `sat` has come. -/
def exArrived (sat : Bytes) : State := { exCloak with
  eng := { exCloak.eng with credit := [(0, 1)] }
  stms := [(1, { exStm 1 with fed := true, dst := word (at_ 60 6), issued := 1, ents := [⟨0, 0, 0, 2, false, sat⟩] })] }

set_option maxRecDepth 30000 in
theorem witness_StreamEntriesAndEnd_satchel :
    (exArrived exHdr).nextReady 1 = some ⟨0, 0, 0, 2, false, exHdr⟩ ∧ satOk exHdr ((exArrived exHdr).destFmt 1) = true
      ∧ (exArrived []).nextReady 1 = some ⟨0, 0, 0, 2, false, []⟩ ∧ satOk [] ((exArrived []).destFmt 1) = false := by decide

theorem witness_StreamEntriesAndEnd_chain :
    let s : State := { exCloak with stms := [(1, { exStm 1 with dst := word (at_ 60 8) })] }
    (s.stm 1).running = true ∧ epKind (s.stm 1).dst = 8 ∧ exCloak.nextReady 1 = none := by decide

theorem witness_StreamEntriesAndEnd_end :
    let s : State := { exCloak with stms := [(1, { exStm 1 with issued := 2 })] }
    s.fullLoading = false ∧ Tab.wf s.stms = true ∧ (1#12).toNat < limStreams s.part.set ∧ (s.stm 1).runBy = none
      ∧ (s.stm 1).bound = none ∧ (s.stm 1).pers = false ∧ s.mc 1 = none ∧ s.passOver 1 = true ∧ (exStms 1).passOver 1 = false
      ∧ limStreams ({ s.part with set := 0 } : Part).set ≤ (4095#12).toNat := by decide

/-! ## Couriers -/

/-- A courier from 0x1000 to 0x2000 in the cloakroom, 16 KiB. -/
def exCr (st : Nat) : Courier := { (default : Courier) with src := 0x1000, dst := 0x2000, count := 0x4000, st := st }

/-- Couriers 0 and 1 of `exCloak`. -/
def exCrs (a b : Courier) : State := { exCloak with crs := [(0, a), (1, b)] }

theorem witness_CourierStartAndControl_start :
    let s := exCrs (exCr 0) (exCr 1)
    let u := s.modCr 0 fun x => { x with ctrl := ((1 : Word) ||| 1) &&& crsCtrlMask }
    let v := exCloak.modCr 0 fun x => { x with ctrl := ((1 : Word) ||| 1) &&& crsCtrlMask }
    s.fullLoading = false ∧ (0#6).toNat < limCouriers s.part.set ∧ bitAt (1 : Word) 1 = false ∧ bitAt (1 : Word) 2 = false
      ∧ (s.cr 0).st = 0 ∧ u.crsBad 0 (u.cr 0) = false ∧ (s.cr 1).st ≠ 0 ∧ (exCloak.cr 0).st = 0 ∧ v.crsBad 0 (v.cr 0) = true := by
  decide

/-- The COURIER command of the same set-up at courier 0, with this COUNT. -/
def exCourierCmd (n : Nat) : Cmd := exCmd 0x31 [(0x24, 8, 0x1000), (0x2C, 8, 0x2000), (0x20, 4, n)]

theorem witness_CourierStartAndControl_command :
    let good (c : Cmd) : Prop :=
      let s := exIssued exCloak c
      let u := s.modCr (kCourier c) fun x => { x with
        src := word (kSrc c) &&& ~~~7#64, dst := word (kDst c) &&& ~~~7#64, count := word (kCount c)
        ctrl := word (kCtrl c) &&& crsCtrlMask, pace := word (kPeriod c) }
      s.issuedTo 1 0x31 = some (c, none) ∧ (s.cr (kCourier c)).st = 0 ∧ (s.cr (kCourier c)).runBy ≠ some 1 ∧ kSrc c % 8 = 0
        ∧ kDst c % 8 = 0 ∧ u.crsBad (kCourier c) (u.cr (kCourier c)) = decide (kCount c = 0)
    good (exCourierCmd 0x4000) ∧ good (exCourierCmd 0)
      ∧ ((exIssued (exCrs (exCr 1) (exCr 0)) (exCourierCmd 8)).cr (kCourier (exCourierCmd 8))).st ≠ 0 := by decide

/-- Courier 1 is paced by the timer and has this many events waiting; courier 0 is HALTED and in the engine's service or not. -/
def exPaced (st pend : Nat) (busy : Option Nat) : State :=
  { exCrs (exCr 2) { exCr st with ctrl := word (at_ 6 1), pendingEv := pend } with crsEng := { exCloak.crsEng with busy := busy } }

theorem witness_CourierStartAndControl_control (busy : Option Nat) (h : busy = none ∨ busy = some 0) :
    (exPaced 1 0 busy).fullLoading = false ∧ (0#6).toNat < limCouriers (exPaced 1 0 busy).part.set
      ∧ (exPaced 1 0 busy).crsEng.busy = busy ∧ ((exPaced 1 0 busy).cr 0).st = 2 ∧ ((exPaced 1 0 busy).cr 1).st ≠ 2
      ∧ (exPaced 1 0 busy).flights = [] ∧ ((exPaced 1 0 busy).cr 0).paceSrc ≠ 1 ∧ ((exPaced 1 0 busy).cr 1).paceSrc = 1
      ∧ ((exPaced 1 0 busy).cr 1).st ≠ 0 ∧ ((exPaced 1 0 busy).cr 1).pendingEv < 255
      ∧ 255 ≤ ((exPaced 1 255 busy).cr 1).pendingEv ∧ ((exPaced 0 0 busy).cr 1).st = 0 := by
  obtain rfl | rfl := h <;> decide

theorem witness_CourierBursts :
    let s := exCrs (exCr 1) (exCr 0)
    let x := s.cr 0
    Tab.wf s.crs = true ∧ s.crsEng.phase = 0 ∧ s.nextCourier = some 0 ∧ ceSpace x.src = 0 ∧ ceSpace x.dst = 0
      ∧ s.crsFirstBad 0 false (ceAddr x.src + x.bytes) x.rdLen = none ∧ s.t0FirstBad (ceAddr x.src + x.bytes) x.rdLen = none
      ∧ x.ready = true ∧ 0 < limCouriers s.part.set ∧ ({ s with crsEng := { s.crsEng with phase := 3 } } : State).crsEng.phase ≠ 0 := by
  decide

/-- The destination's range of a burst of this length. -/
theorem witness_CourierBursts_dest : exCloak.crsFirstBad 0 true 0x2000 4096 = none
    ∧ (Courier.outBytes (exCr 1) (List.replicate 4096 0)).length = 4096 := by
  exact ⟨by decide, by decide +kernel⟩

theorem witness_CourierBursts_done :
    let s : State := { exCrs (exCr 1) (exCr 0) with crsEng := { exCloak.crsEng with busy := some 0, phase := 3 } }
    Tab.wf s.crs = true ∧ s.crsEng.busy = some 0 ∧ s.crsEng.phase = 3 ∧ s.crsEng.fail = none ∧ s.crsEng.abortReq = false
      ∧ (s.cr 0).bytes + 4096 < (s.cr 0).cnt ∧ (s.cr 0).bytes < (s.cr 0).cnt / 2 ∧ exCloak.crsEng.busy = none
      ∧ (let t : State := { s with crs := [(0, { exCr 1 with bytes := 0x1000 }), (1, exCr 0)] }
         (t.cr 0).bytes < (t.cr 0).cnt / 2 ∧ (t.cr 0).cnt / 2 ≤ (t.cr 0).bytes + (t.cr 0).burst) := by decide

/-! ## The memory ports, the engines, the host port -/

/-- A request outstanding at port 0 under tag `t`. -/
def exOut (t : Nat) (wr : Bool) : MemOut :=
  { tag := t, req := { port := 0, wr := wr, cls := if wr then .write else .read, unit := 0, mask := 0, data := [], who := 4112, job := 0, idx := 0 }, retried := false }

/-- Courier 0's request of a burst in service. -/
def exCrOut (t : Nat) : MemOut := { exOut t true with req := { (exOut t true).req with who := 4096 } }

theorem witness_MemoryResponses :
    let s : State := { exS with mem := { exS.mem with out := [exOut 3 false, exOut 4 true, { exOut 5 true with retried := true }] } }
    s.outAt 0 3 false = some (exOut 3 false) ∧ s.outAt 0 4 true = some (exOut 4 true) ∧ (exOut 4 true).retried = false
      ∧ s.courierWrite (exOut 4 true) = false ∧ s.outAt 0 4 false = none ∧ s.outAt 0 3 true = none
      ∧ s.outAt 0 5 true = some { exOut 5 true with retried := true } ∧ exOut 3 false ∈ s.mem.out
      ∧ (s.noteLate (exOut 4 true)).courierWrite (exOut 4 true) = false := by decide

theorem witness_OutstandingTags :
    let s : State := { exS with mem := { exS.mem with out := [exOut 0 false, exOut 1 true], late := [(0, 2)] } }
    s.freeTag 0 = some 3 ∧ (s.usedTags 0).length < s.tagsOf 0 ∧ s.usedTags 0 = [0, 1, 2] ∧ (s.usedTags 0).Nodup := by decide

theorem witness_OutstandingTags_pump : ∀ port, (State.reset.usedTags port).Nodup := fun _ => List.nodup_nil

theorem witness_CreditsAndChannels_ports : exS.mem.wait = [] ∧ exS.pins.farUp = false ∧ (1 : Nat) < 2
    ∧ ({ exS with mem := { exS.mem with credit1 := 0 } } : State).credits 1 = 0 := by decide

theorem witness_CreditsAndChannels_channels :
    let s : State := { exS with stms := [(1, { exStm 1 with src := word (at_ 60 6) })] }
    let u : State := { s with eng := { s.eng with granted := Tab.put s.eng.granted 0 (Tab.get s.eng.granted 0 - 1) } }
    u.engineSource 0 = some 1 ∧ s.engineSource 0 = some 1 ∧ s.engineDest 0 = none ∧ exS.engineSource 0 = none
      ∧ exS.engineDest 0 = none := by decide

theorem witness_CreditsAndChannels_stuck :
    let s : State := { exCloak with
      stms := [(1, { exStm 1 with fed := true, dst := word (at_ 60 6), issued := 1, ents := [⟨0, 0, 0, 2, false, []⟩] })] }
    s.engineDest 0 = some 1 ∧ (Tab.get s.eng.credit 0 == 0 && (s.stm 1).ents.any fun e => e.stage == 2) = true := by decide

/-- A package of four forms, seen from form `f`. -/
def exFour (f : Nat) : State := { exS with part := { exS.part with fed := 2, form := f } }

theorem witness_HostAndDebugAccess_write :
    (exFour 0).part.form = 0 ∧ (0xFE : BitVec 8) ≠ 0xFF ∧ (exFour 0).forms ≤ addrForm (0x7000000#27).toNat
      ∧ addrForm (0x68#27).toNat = 0 ∧ addrForm (0x3000000#27).toNat ≠ 0 ∧ addrForm (0x3000000#27).toNat < (exFour 0).forms
      ∧ inUnits (addrOff (0x3000000#27).toNat) = false ∧ inUnits (addrOff (0x3400000#27).toNat) = true
      ∧ (exFour 0).fullLoading = false
      ∧ ({ exFour 0 with load := { Loader.reset with phase := 2, kind := 1 } } : State).fullLoading = true
      ∧ (exFour 3).part.form ≠ 0 := by decide

theorem witness_HostAndDebugAccess_tap :
    let s := exWith [(tyObjects, exObjects), (tySecurity, leBytes 2 0 ++ leBytes 1 1 ++ leBytes 61 0)]
    s.tapDebug = true ∧ exS.tapDebug = false ∧ addrForm (0#31).toNat = s.part.form ∧ addrForm (0#31).toNat < s.forms
      ∧ s.forms ≤ addrForm (0x8000000#31).toNat := by decide

theorem witness_HostAndDebugAccess_doorbell :
    (exFour 0).part.form = 0 ∧ (3#3) ≠ 0 ∧ (3#3).toNat < (exFour 0).forms ∧ (exFour 0).forms ≤ (4#3).toNat
      ∧ (exFour 0).fullLoading = false ∧ (65535#16).toNat < limBells (exFour 0).part.set
      ∧ ({ exFour 0 with load := { Loader.reset with phase := 2, kind := 1 } } : State).fullLoading = true
      ∧ (exFour 3).part.form ≠ 0 := by decide

/-! ## The error log, links and frames -/

theorem witness_LoggedEventSetsBitAndEntry :
    Tab.wf State.reset.regs = true ∧ errAddr evTtbRefused.unit = some aTtbErr ∧ evTtbRefused.code < 2 ^ 16
      ∧ State.reset.part.form < 8 ∧ evTtbRefused.unit < 32 ∧ State.reset.err.armed = true
      ∧ (State.reset.logEv evTtbRefused 0).err.armed = false := by decide

/-- `exS` with port `p` in this state. -/
def exPort (p : Nat) (l : FLink) : State := { exS with fab := { exS.fab with links := [(p, l)] } }

/-- A port in link state `st`. -/
def exLink (st : Nat) : FLink := { (default : FLink) with st := st, aligned := true }

theorem witness_PortStates_fabric :
    let s := exPort 0 (exLink lsDown)
    (0#3).toNat < 2 ∧ s.portLive 0 = true ∧ (s.flink 0).st = lsDown ∧ s.heldDown 0 = false ∧ (s.flink 0).retryWait = false
      ∧ lsDown < ((exPort 0 (exLink lsUp)).flink 0).st ∧ ((exPort 0 (exLink lsUp)).flink 0).st ≠ lsDetained
      ∧ 2 ≤ (2#3).toNat := by decide

theorem witness_PortStates_federation :
    let s := exPort 2 (exLink lsDown)
    s.portLive (2 + (0#2).toNat) = true ∧ (s.flink 2).st ≤ lsDown ∧ (s.flink 3).aligned = false
      ∧ ((exPort 2 (exLink lsUp)).flink 2).aligned = true ∧ lsDown < ((exPort 2 (exLink lsUp)).flink 2).st := by decide

theorem witness_PortStates_release :
    let s := exPort 0 (exLink lsDetained)
    s.fullLoading = false ∧ s.portLive 0 = true ∧ (s.flink 0).st = lsDetained ∧ (s.flink 1).st ≠ lsDetained ∧ (1#3).toNat < 2
      ∧ ((exPort 0 { exLink lsUp with held := [[1], [2]] }).flink 0).held = [[1], [2]] ∧ (s.flink 0).held = [] := by decide

theorem witness_LinkTimersAndFailures_timers :
    ((exPort 0 (exLink lsHello)).flink 0).st = lsHello ∧ ((exPort 0 (exLink lsUp)).flink 0).st ≠ lsHello
      ∧ (let l := (exPort 0 { exLink lsKeying with offer := some [1] }).flink 0
         l.st = lsKeying ∧ l.offerIn = none ∧ l.offer.isSome = true)
      ∧ (let l := (exPort 0 (exLink lsKeying)).flink 0
         l.st = lsKeying ∧ l.offerIn = none ∧ l.offer = none)
      ∧ (let s := exPort 0 { exLink lsDown with retryWait := true }
         (s.flink 0).retryWait = true ∧ (s.flink 0).st ≤ lsDown ∧ s.portLive 0 = true)
      ∧ (let l := (exPort 0 { exLink lsUp with txLsn := 2 ^ 47 }).flink 0
         l.st = lsUp ∧ l.renewing = false ∧ 2 ^ 47 ≤ l.txLsn)
      ∧ (exPort 0 (exLink lsUp)).isUp 0 = true ∧ exS.isUp 0 = false := by decide

theorem witness_LinkTimersAndFailures_failures :
    let s := exPort 0 { exLink lsUp with txLsn := 2 ^ 48 - 1, replay := [⟨0, [], 3, []⟩] }
    s.isUp 0 = true ∧ (s.flink 0).exhausted = true ∧ (s.flink 0).replay ≠ [] ∧ exS.isUp 0 = false := by decide

/-- An UP port with credits, and with this room left for the replay. -/
def exSender (replay : List Sent) (queue : List QFrame) : State :=
  exPort 0 { exLink lsUp with
    limit := [9, 9, 9, 9], sent := [0, 0, 0, 0], deficit := [0, 0, 0, 0], replay := replay, queue := queue }

set_option maxRecDepth 100000 in
theorem witness_FrameSendTakesNextLsn :
    let s := exSender [] [⟨0, List.replicate 24 0, [1, 2, 3]⟩]
    (s.flink 0).st = lsUp ∧ (drr s 0 4096 (s.flink 0)).isSome = true ∧ replayRoom 0 (s.flink 0) 100 = true
      ∧ (exS.flink 0).st ≠ lsUp ∧ drr (exSender [] []) 0 4096 ((exSender [] []).flink 0) = none
      ∧ replayRoom 0 ((exSender [] []).flink 0) (2 ^ 22) = false := by
  decide

/-- A HELLO frame with an empty payload at port 0, and a KEY frame. -/
def exPlainFrame (t n : Nat) : Bytes :=
  let f := List.replicate 12 0 ++ [0x88, 0xB5] ++ leBytes 1 (16 + t) ++ leBytes 1 0 ++ leBytes 2 n ++ List.replicate (20 + n) 0
  f ++ leBytes 4 (crc32e f).toNat

/-- What the receive checks say of a frame: the type that is accepted, with its endpoint. -/
def RxRes.gotTyp : RxRes → Option (Nat × Nat)
  | .got h _ _ => some (h.typ, h.ep)
  | .drop _ => none

theorem witness_FrameTypes_plain :
    ((exPort 0 (exLink lsHello)).receive (0#3).toNat (exPlainFrame tHello 32) false).gotTyp = some (tHello, 0)
      ∧ ((exPort 0 (exLink lsKeying)).receive (0#3).toNat (exPlainFrame tKey 0x1B8) false).gotTyp = some (tKey, 0) := by
  decide +kernel

theorem witness_FrameTypes_dropped :
    ((exPort 0 (exLink lsHello)).receive (0#3).toNat [] false).gotTyp = none ∧ (exS.receive (0#3).toNat [] false).gotTyp = none := by
  decide +kernel

/-! ## Sequenced frames -/

/-- A roster of one package, identity 5, which is this one; its federation link 0 is UP with receive key 9. -/
def exUp : State :=
  let s := exWith [(tyObjects, exObjects), (tyRoster, leBytes 0x40 1 ++ leBytes 0x10 0 ++ leBytes 48 5)]
  { s with sec := { s.sec with pkg := 5 }
           fab := { s.fab with links := [(2, { exLink lsUp with rx0 := some 9, granted := [9, 9, 9, 9], rxCells := [0, 0, 0, 0] })] } }

/-- The virtual channel of a type. -/
def exVc (t : Nat) : Nat := if t = tData then 2 else if t = tRedUp ∨ t = tRedDown then 1 else 0

/-- Envelope and header of a frame of type `t` from form 1 of the own package for endpoint `e`, with `n` bytes of payload. -/
def exHead (t e n : Nat) : WHdr :=
  { (default : WHdr) with ver := 1, typ := t, vc := exVc t, len := n, sform := 1, ep := e, cls := if t = tLink then 1 else 0 }
def exAad (t e n : Nat) : Bytes := List.replicate 4 0 ++ (exHead t e n).bytes

/-- The frame, sealed with key 9, up to its check value; and the whole frame. -/
def exBody (t e : Nat) (pay : Bytes) : Bytes :=
  let n := linkNonce (exHead t e 0).cls 0 0
  let ct := gcmText 9 n pay
  exAad t e pay.length ++ (ct ++ gcmTag 9 n (exAad t e pay.length) ct)
def exFrame (t e : Nat) (pay : Bytes) : Bytes :=
  exBody t e pay ++ (leBytes 4 (crc32c (exBody t e pay)).toNat
    ++ List.replicate (roundUp (pay.length + 48) 64 - (pay.length + 48)) 0)

theorem exAad_length (t e n : Nat) : (exAad t e n).length = 28 := by simp [exAad, WHdr.bytes]

theorem exBody_length (t e : Nat) (pay : Bytes) : (exBody t e pay).length = pay.length + 44 := by
  simp only [exBody, List.length_append, gcmText_length, gcmTag_length, exAad_length]
  omega

theorem exFrame_sum (t e : Nat) (pay : Bytes) (h : WHdr) (hl : h.len = pay.length) (hp : plainType h.typ = false) :
    frameSumOk 2 (exFrame t e pay) h = true := by
  have hn := exBody_length t e pay
  have hb : hdrOff 2 + 24 + h.len + (if plainType h.typ then 0 else 16) = (exBody t e pay).length := by
    rw [hl, hp, hn, show hdrOff 2 = 4 from rfl]
    simp only [Bool.false_eq_true, if_false]
    omega
  have ht : (exFrame t e pay).take (exBody t e pay).length = exBody t e pay := by rw [exFrame, List.take_left']; rfl
  have hv := leAt_mid (exBody t e pay) (List.replicate (roundUp (pay.length + 48) 64 - (pay.length + 48)) 0) 4
    (crc32c (exBody t e pay)).toNat
  unfold frameSumOk
  rw [if_pos (by decide)]
  simp only [hb, ht]
  rw [show leAt (exFrame t e pay) (exBody t e pay).length 4 = _ from hv]
  simp only [Bool.and_eq_true, decide_eq_true_eq, beq_iff_eq]
  refine ⟨by simp only [exFrame, List.length_append, length_leBytes]; omega, ?_⟩
  exact Nat.mod_eq_of_lt (BitVec.isLt _)

/-- What the links hold does not say which package and form this is. -/
theorem modFlink_own (s : State) (p : Nat) (f : FLink → FLink) : (s.modFlink p f).ownCoord = s.ownCoord
    ∧ (s.modFlink p f).part.form = s.part.form ∧ (s.modFlink p f).entryOfCoord 0 = s.entryOfCoord 0 := ⟨rfl, rfl, rfl⟩

theorem exUp_own (f : FLink → FLink) : (exUp.modFlink 2 f).ownCoord = 0 ∧ (exUp.modFlink 2 f).part.form = 0
    ∧ ((exUp.modFlink 2 f).entryOfCoord 0).isNone = false := by
  have h := modFlink_own exUp 2 f
  rw [h.1, h.2.1, h.2.2]
  decide

theorem exUp_relays (f : FLink → FLink) (h : WHdr) (hd : h.dst = 0) (hf : h.dform = 0) :
    (exUp.modFlink 2 f).relays 2 h = false := by
  unfold State.relays
  rw [(exUp_own f).1, (exUp_own f).2.1, hd, hf]
  rfl

/-- Such a frame, for the own package and form, is accepted: what it gives is its header, its payload, and the state with the link's
counters moved on. -/
theorem exFrame_received (t e : Nat) (pay : Bytes) (hh : WHdr.read (slice (exAad t e pay.length) 4 24) = exHead t e pay.length)
    (hp : plainType t = false) (hr : typeReserved 2 t = false) (hf : (fixedLen t).any (· != pay.length) = false)
    (hv : (!vcAllowed t (exVc t)) = false) (hn : pay.length ≤ 512) (hc : exVc t < 4) :
    ∃ f, exUp.receive 2 (exFrame t e pay) false = .got (exHead t e pay.length) pay (exUp.modFlink 2 f) := by
  have hd : hdrOff 2 = 4 := rfl
  have ha := exAad_length t e pay.length
  have hb := exBody_length t e pay
  have hlen : (exFrame t e pay).length = roundUp (pay.length + 48) 64 := by
    have : pay.length + 48 ≤ roundUp (pay.length + 48) 64 := by unfold roundUp; omega
    simp only [exFrame, List.length_append, hb, length_leBytes, List.length_replicate]
    omega
  have h1 : WHdr.read (slice (exFrame t e pay) (hdrOff 2) 24) = exHead t e pay.length := by
    rw [hd, exFrame, slice_left _ _ _ _ (by rw [hb]; omega), exBody, slice_left _ _ _ _ (by rw [ha]), hh]
  have hs : frameSumOk 2 (exFrame t e pay) (exHead t e pay.length) = true := exFrame_sum t e pay _ rfl hp
  have hpay : slice (exFrame t e pay) (hdrOff 2 + 24) pay.length = gcmText 9 (linkNonce (exHead t e 0).cls 0 0) pay := by
    have := slice_mid (exAad t e pay.length) (gcmText 9 (linkNonce (exHead t e 0).cls 0 0) pay)
      (gcmTag 9 (linkNonce (exHead t e 0).cls 0 0) (exAad t e pay.length) (gcmText 9 (linkNonce (exHead t e 0).cls 0 0) pay))
    rw [ha, gcmText_length] at this
    rw [hd, exFrame, slice_left _ _ _ _ (by rw [hb]; omega), exBody, this]
  have haad : (exFrame t e pay).take (hdrOff 2 + 24) = exAad t e pay.length := by
    rw [hd, exFrame, List.take_append_of_le_length (by rw [hb]; omega), exBody, List.take_left' ha]
  have htag : slice (exFrame t e pay) (hdrOff 2 + 24 + pay.length) 16
      = gcmTag 9 (linkNonce (exHead t e 0).cls 0 0) (exAad t e pay.length) (gcmText 9 (linkNonce (exHead t e 0).cls 0 0) pay) := by
    have := slice_mid (exAad t e pay.length ++ gcmText 9 (linkNonce (exHead t e 0).cls 0 0) pay)
      (gcmTag 9 (linkNonce (exHead t e 0).cls 0 0) (exAad t e pay.length) (gcmText 9 (linkNonce (exHead t e 0).cls 0 0) pay)) []
    rw [List.length_append, ha, gcmText_length, gcmTag_length, List.append_nil, List.append_assoc] at this
    rw [hd, exFrame, slice_left _ _ _ _ (by rw [hb]; omega), exBody, this]
  have hfl : frameLen 2 t pay.length = roundUp (pay.length + 48) 64 := by
    have : frameLen 2 t pay.length = roundUp (28 + pay.length + (if plainType t then 0 else 16) + 4) 64 := rfl
    rw [this, hp]
    congr 1
    simp only [Bool.false_eq_true, if_false]
    omega
  have hcells : cellsOf pay.length ≤ 9 := by unfold cellsOf; omega
  have hplus : (exHead t e pay.length).typ = t ∧ (exHead t e pay.length).len = pay.length ∧ (exHead t e pay.length).ver = 1
    ∧ (exHead t e pay.length).key = 0 ∧ (exHead t e pay.length).lsn = 0 ∧ (exHead t e pay.length).vc = exVc t
    ∧ (exHead t e pay.length).cls = (exHead t e 0).cls := ⟨rfl, rfl, rfl, rfl, rfl, rfl, rfl⟩
  obtain ⟨e1, e2, e3, e4, e5, e6, e7⟩ := hplus
  unfold State.receive
  simp only [h1, hs, e1, e2, e3, e4, e5, e6, e7, hlen, hp, hr, hf, hpay, haad, htag]
  rw [if_neg (by decide), if_neg (by decide), if_neg (by simp [isFed]), if_neg (by decide)]
  rw [if_neg (by rw [hfl]; simp; omega), if_neg (by decide), if_neg (by decide)]
  simp only [if_true]
  rw [show (exUp.flink 2).rx0 = some 9 from rfl]
  dsimp only
  rw [gcmOpen_seal]
  dsimp only
  by_cases ht : t = tLink
  · subst ht
    rw [if_pos (show (exHead tLink e 0).cls = 1 from rfl), if_neg (by decide), if_neg]
    · exact ⟨_, rfl⟩
    · exact show ¬ (tLink ≠ tLink ∨ (0 : Nat) ≠ 0 ∨ (0 : Nat) ≠ 0 ∨ (0 : Nat) ≠ 0 ∨ (0 : Nat) ≠ 0 ∨ (0 : Nat) ≠ 0) by decide
  · have hcls : (exHead t e 0).cls = 0 := by simp [exHead, ht]
    rw [hcls, if_neg (by decide), if_neg (by decide), if_neg (by decide), if_neg (by decide), if_neg, if_neg, if_neg, if_neg, if_neg, if_neg]
    · exact ⟨_, rfl⟩
    · intro hx
      exact absurd hx (Bool.eq_false_iff.mp (exUp_own _).2.2)
    · intro hx
      rw [(exUp_own _).1, (exUp_own _).2.1] at hx
      exact absurd hx (show ¬ ((0 : Nat) ≠ 0 ∨ (0 : Nat) ≠ 0) by decide)
    · intro hx
      rw [exUp_relays _ _ rfl rfl] at hx
      cases hx
    · have hg : ∀ v, v < 4 → (exUp.flink 2).granted.getD v 0 = 9 ∧ (exUp.flink 2).rxCells.getD v 0 = 0 := by decide
      rw [(hg _ hc).1, (hg _ hc).2]
      simp
      omega
    · exact Bool.eq_false_iff.mp hv
    · exact show ¬ ((0 : Nat) ≠ 0 ∨ (0 : Nat) ≠ 0 ∨ (0 : Nat) ≠ 0 ∨ (0 : Nat) ≠ 0) by decide

theorem witness_FrameTypes_types (t e n : Nat)
    (h : (t, e, n) ∈ [(tLink, 0, 48), (tData, 0, 16), (tData, 0xE400, 16), (tMack, 0, 16), (tDetach, 0, 16), (tRepair, 0, 16), (tFed, 0, 16)]) :
    ∃ h' pay u, exUp.receive (2#3).toNat (exFrame t e (List.replicate n 0)) false = .got h' pay u ∧ h'.typ = t ∧ h'.ep = e
      ∧ u.serviceLevel ≠ 0 := by
  have hl : (List.replicate n (0 : Byte)).length = n := List.length_replicate
  have hk : WHdr.read (slice (exAad t e n) 4 24) = exHead t e n ∧ plainType t = false ∧ typeReserved 2 t = false
      ∧ (fixedLen t).any (· != n) = false ∧ (!vcAllowed t (exVc t)) = false ∧ n ≤ 512 ∧ exVc t < 4 := by
    simp only [List.mem_cons, Prod.mk.injEq, List.not_mem_nil, or_false] at h
    obtain ⟨rfl, rfl, rfl⟩ | ⟨rfl, rfl, rfl⟩ | ⟨rfl, rfl, rfl⟩ | ⟨rfl, rfl, rfl⟩ | ⟨rfl, rfl, rfl⟩ | ⟨rfl, rfl, rfl⟩ | ⟨rfl, rfl, rfl⟩ := h
    all_goals decide
  obtain ⟨k1, k2, k3, k4, k5, k6, k7⟩ := hk
  obtain ⟨f, hf⟩ := exFrame_received t e (List.replicate n 0) (by rw [hl]; exact k1) k2 k3 (by rw [hl]; exact k4) k5 (by rw [hl]; exact k6) k7
  exact ⟨_, _, _, hf, rfl, rfl, show exUp.serviceLevel ≠ 0 by decide⟩

/-- The payload of a collective's frame of type `t` within this package. -/
def exCollPay (t : Nat) : Bytes :=
  leBytes 14 0 ++ leBytes 2 (b2n (t == tRcUp || t == tRedUp)) ++ leBytes 16 0
    ++ (if t = tNotice then leBytes 8 1 else if t = tRedUp ∨ t = tRedDown then leBytes 4 0
        else if t = tAbort then leBytes 8 0 else leBytes 72 0)

/-- The types of collectives' frames. -/
def exCollTypes : List Nat := [tRcExch, tRcUp, tRcDown, tRedUp, tRedDown, tNotice, tAbort]

/-- What the header of such a frame says, and what the checks of its type say of it. -/
theorem exColl_head : ∀ t ∈ exCollTypes, ∀ e ∈ [0xFFFD, 0xF123],
    WHdr.read (slice (exAad t e (exCollPay t).length) 4 24) = exHead t e (exCollPay t).length ∧ plainType t = false
      ∧ typeReserved 2 t = false ∧ (fixedLen t).any (· != (exCollPay t).length) = false ∧ (!vcAllowed t (exVc t)) = false
      ∧ (exCollPay t).length ≤ 512 ∧ exVc t < 4 := by decide +kernel

theorem exColl_judged : ∀ t ∈ exCollTypes,
    exUp.collBad (exHead t 0xFFFD (exCollPay t).length) (CHdr.read (exCollPay t)) (exCollPay t) = none
      ∧ (exUp.collMembers (0xFFFD - 0xF000)).isEmpty = false
      ∧ exUp.noState (exHead t 0xFFFD (exCollPay t).length) (CHdr.read (exCollPay t))
        ((CHdr.read (exCollPay t)).root, (CHdr.read (exCollPay t)).rform, 0xFFFD - 0xF000, (CHdr.read (exCollPay t)).seq) = false
      ∧ exUp.collBad (exHead t 0xF123 (exCollPay t).length) (CHdr.read (exCollPay t)) (exCollPay t) = some 0x44 := by decide +kernel

/-- The links' state is not looked at. -/
theorem collJudged_modFlink (s : State) (p : Nat) (f : FLink → FLink) (h : WHdr) (c : CHdr) (k : CKey) (pay : Bytes) :
    (s.modFlink p f).collBad h c pay = s.collBad h c pay ∧ (s.modFlink p f).collMembers k.2.2.1 = s.collMembers k.2.2.1
      ∧ (s.modFlink p f).noState h c k = s.noState h c k := ⟨rfl, rfl, rfl⟩

/-- A frame that is taken, for every type; one to an unknown code is refused. -/
theorem witness_CollectiveFramesAct (t : Nat) (h : t ∈ exCollTypes) :
    ∃ h' pay u, exUp.receive (2#3).toNat (exFrame t 0xFFFD (exCollPay t)) false = .got h' pay u ∧ h'.typ = t
      ∧ u.collBad h' (CHdr.read pay) pay = none ∧ (u.collMembers (h'.ep - 0xF000)).isEmpty = false
      ∧ u.noState h' (CHdr.read pay) ((CHdr.read pay).root, (CHdr.read pay).rform, h'.ep - 0xF000, (CHdr.read pay).seq) = false := by
  obtain ⟨k1, k2, k3, k4, k5, k6, k7⟩ := exColl_head t h 0xFFFD (by simp)
  obtain ⟨f, hf⟩ := exFrame_received t 0xFFFD (exCollPay t) k1 k2 k3 k4 k5 k6 k7
  obtain ⟨j1, j2, j3, -⟩ := exColl_judged t h
  have hm := collJudged_modFlink exUp 2 f (exHead t 0xFFFD (exCollPay t).length) (CHdr.read (exCollPay t))
    ((CHdr.read (exCollPay t)).root, (CHdr.read (exCollPay t)).rform, 0xFFFD - 0xF000, (CHdr.read (exCollPay t)).seq) (exCollPay t)
  exact ⟨_, _, _, hf, rfl, hm.1.trans j1, (congrArg List.isEmpty hm.2.1).trans j2, hm.2.2.trans j3⟩

theorem witness_CollectiveFramesAct_refused (t : Nat) (h : t ∈ exCollTypes) :
    ∃ h' pay u, exUp.receive (2#3).toNat (exFrame t 0xF123 (exCollPay t)) false = .got h' pay u ∧ h'.typ = t
      ∧ u.collBad h' (CHdr.read pay) pay = some 0x44 := by
  obtain ⟨k1, k2, k3, k4, k5, k6, k7⟩ := exColl_head t h 0xF123 (by simp)
  obtain ⟨f, hf⟩ := exFrame_received t 0xF123 (exCollPay t) k1 k2 k3 k4 k5 k6 k7
  obtain ⟨-, -, -, j4⟩ := exColl_judged t h
  exact ⟨_, _, _, hf, rfl, (collJudged_modFlink exUp 2 f _ _ default _).1.trans j4⟩

theorem witness_FrameTypes_detach :
    let m : Mcast := { group := 0, vc := 3, root := 0, rform := 0, form := 0, pos := 0, parent := 0, issued := 9
                       children := [⟨1, 0, 0, 9, true, none⟩], detachAt := none, repairing := false, base := 0, kept := [] }
    let s : State := { exS with
      fab := { exS.fab with mcast := [(1, m)] }, stms := [(1, { exStm 1 with ents := [⟨9, 0, 0, 2, false, []⟩] })] }
    s.mc 1 = some m ∧ m.window = false ∧ s.treeReady 1 = true ∧ exS.mc 1 = none ∧ ({ m with children := [] } : Mcast).window = true
      ∧ ({ s with stms := [] } : State).treeReady 1 = false := by
  decide

/-! ## Collectives -/

/-- The package of `exUp`, with a cloakroom that has SCRATCH and STAGING, a marker and command `c` issued at queue 1. -/
def exColl (c : Cmd) : State :=
  exIssued { exWith [(tyObjects, exObjects), (tyCloakroom, leBytes 8 0 ++ leBytes 4 1 ++ leBytes 4 16 ++ leBytes 4 0 ++ leBytes 4 4
      ++ leBytes 4 1 ++ leBytes 36 0), (tyRoster, leBytes 0x40 1 ++ leBytes 0x10 0 ++ leBytes 48 5), (tyMarker, exMarker)] with
    sec := { State.reset.sec with pkg := 5 } } c

/-- A roll call of the own package, one slot added, and one of a code without a group. -/
def exRollCmd (g : Nat) : Cmd := exCmd 0x40 [(0x1C, 2, g), (0x20, 4, 1), (0x24, 4, 0x1000), (0x28, 4, 0x1040), (0x2C, 2, 0xFFFF)]

/-- `n` collectives of a kind in progress. -/
def exManyColls (s : State) (bucket : Bool) (n : Nat) : State :=
  { s with rcl := { s.rcl with colls := (List.range n).map fun i =>
    { root := 9, rform := 0, group := 0xFFD, seq := i, bucket := bucket, issued := true, queue := some 1, cmd := 0, sig := 0, slotops := 0
      issuedAt := 0, timeoutUs := 0, holdNs := 0, merge := 0, homework := 0, step := 0, levels := [], rchunks := [], rsums := []
      contrib := 0, written := false, noticed := false, complete := false, late := false, homeSent := [], homeIn := [], timerSent := false } } }

theorem witness_CollectivesStartOrRefuse_roll :
    let s := exColl (exRollCmd 0xFFD)
    let c := exRollCmd 0xFFD
    s.ownEntry.isSome = true ∧ s.issuedTo 1 0x40 = some (c, none) ∧ s.groupRefusal c = none ∧ s.rollIllegal c = false
      ∧ s.t0Bad (s.t0Scratch + rSrc c) 64 = false ∧ s.rollsFull c = false ∧ (exManyColls s false 256).rollsFull c = true := by
  decide +kernel

/-- A bucket of one block of piece 0 to this package. -/
def exBucketCmd : Cmd := exCmd 0x41 [(0x1C, 2, 0xFFD), (0x20, 4, 32768)]

theorem witness_CollectivesStartOrRefuse_bucket :
    let s := exColl exBucketCmd
    let c := exBucketCmd
    s.ownEntry.isSome = true ∧ s.issuedTo 1 0x41 = some (c, none) ∧ s.groupRefusal c = none ∧ s.bucketIllegal c = false
      ∧ s.t0Bad (s.t0Staging + bSrcAddr c) (4 * bCount c) = false ∧ s.collsOf true < 64
      ∧ 64 ≤ (exManyColls s true 64).collsOf true
      ∧ (exManyColls s true 64).keyHeld c ((s.coordOfNode (bRoot c)).getD 0) (bRootForm c) = false := by decide +kernel

theorem witness_CollectivesStartOrRefuse_refused :
    let s := exColl (exRollCmd 5)
    s.ownEntry.isSome = true ∧ s.calm ∧ s.groupRefusal (exRollCmd 5) = some evRclIllegal
      ∧ s.issuedTo 1 0x40 = some (exRollCmd 5, none) ∧ (s.que 1).late = false := by unfold State.calm; decide

theorem witness_RollCallAddsSlots :
    (∀ p ∈ [(0, List.replicate 8 (1 : Word)), (1, List.replicate 8 (2 : Word))], p.2.length = 8) ∧ slotCode 1 0 = 1 ∧ slotCode 1 1 = 0 := by
  decide

/-- A bucket of group 0xFFD issued here, with a deadline of 20 µs, whose tray level has started and admitted this package. -/
def exIssuedColl : Coll :=
  { root := 0, rform := 0, group := 0xFFD, seq := 4, bucket := true, issued := true, queue := some 1
    cmd := exCmd 0x41 [(0x1C, 2, 0xFFD), (0x20, 4, 32768), (0x38, 4, 20)], sig := 0, slotops := 0, issuedAt := 0, timeoutUs := 50000
    holdNs := 0, merge := 0, homework := 0, step := 0
    levels := [{ (default : Level) with lvl := 1, started := true, admitted := [0] }], rchunks := [], rsums := [], contrib := 0
    written := false, noticed := false, complete := false, late := false, homeSent := [], homeIn := [], timerSent := false }

theorem witness_CollectiveTimersEnd :
    let s : State := { exColl exBucketCmd with level := 2, rcl := { exS.rcl with colls := [exIssuedColl] } }
    let mine (c : Coll) : Bool := c.issued && c.group == (0xFFD#12).toNat && c.seq == (4#32).toNat
    (s.rcl.colls.find? fun c => mine c && !c.timerSent) = some exIssuedColl ∧ s.level ≠ 3
      ∧ (s.rcl.colls.find? fun c => mine c && !c.noticed && !c.written) = some exIssuedColl
      ∧ ({ s with level := 3 } : State).level = 3 ∧ exS.rcl.colls = [] := by decide

theorem witness_CollectiveTimersEnd_deadline (adm : List Nat) (h : adm = [0] ∨ adm = []) :
    let c : Coll := { exIssuedColl with levels := [{ (default : Level) with lvl := 1, started := true, admitted := adm }] }
    let s : State := { exColl exBucketCmd with rcl := { exS.rcl with colls := [c] } }
    (s.rcl.colls.find? fun c => c.bucket && c.issued && c.group == (0xFFD#12).toNat && c.seq == (4#32).toNat
        && bDeadline c.cmd != 0 && (c.lev 1).started && !(c.lev 1).closed
        && trayLeader (s.collMembers c.group) c.root s.ownCoord == s.ownCoord) = some c
      ∧ s.head = true
      ∧ ((((s.collMembers c.group).filter fun x => x / 8 == s.ownCoord / 8).filter fun d => !(c.lev 1).admitted.contains (d % 8)) = []
          ↔ adm = [0]) := by
  obtain rfl | rfl := h <;> decide

/-! ## Recovery and the scrub -/

/-- Tile 0 of the kept part of piece 0, read by recovery 1. -/
def exRd : TileRd :=
  { use := .recov 1, tile := .state_ 0 0 0, loc := ⟨1, 0, 0, 0⟩, own := none, fmt := 0, comp := none, anyEp := true, pass := false, phase := 1 }

/-- Recovery 1 asks source `n`; `g` has been found. -/
def exRecov (n : Nat) (g : Option TileGot) (stopped : Bool := false) : Recovery :=
  { id := 1, rd := exRd, source := n, waiters := [], found := g, writing := false, stopped := stopped, need := [], got := [], peer := 0 }

/-- The form with that recovery. -/
def exRecovers (r : Recovery) : State := { exS with err := { exS.err with recov := [r] } }

/-- A tile that reads well, and one that does not. -/
def exGot (ok : Bool) : TileGot := ⟨ok, [], [], [], false⟩

theorem witness_RecoveryAndScrub_recovery :
    exS.recovery 1 = none ∧ (exRecovers (exRecov 0 none)).recovery 1 = some (exRecov 0 none) ∧ (exRecov 0 none).source = 0
      ∧ (exRecovers (exRecov 2 none)).recovery 1 = some (exRecov 2 none) ∧ (exRecov 2 none).source ≠ 0 ∧ (exRecov 2 none).writing = false
      ∧ ((exRecovers (exRecov 2 none)).sourceResult (exRecov 2 none) true []).1 = none
      ∧ (exRecovers (exRecov 2 (some (exGot true)))).recovery 1 = some (exRecov 2 (some (exGot true)))
      ∧ ((exRecovers (exRecov 2 (some (exGot true)))).sourceResult (exRecov 2 (some (exGot true))) true []).1 = some (exGot true)
      ∧ ((exRecovers (exRecov 2 (some (exGot false)))).sourceResult (exRecov 2 (some (exGot false))) true []).1 = some (exGot false)
      ∧ State.recovFits exRd (exGot true) = true ∧ State.recovFits exRd (exGot false) = false
      ∧ ((exRecovers (exRecov 2 (some (exGot true)) true)).sourceResult (exRecov 2 (some (exGot true)) true) true []).1 = some (exGot true)
      ∧ ((exRecovers (exRecov 6 none)).sourceResult (exRecov 6 none) false []).1 = some .failed := by decide +kernel

theorem witness_RecoveryAndScrub_scrub :
    exS.reg aErrScrub ≠ 0 ∧ (1#24).toNat < cloakMiB exS.part.set * 131072 ∧ 2 ≤ (2#2).toNat ∧ (exS.setReg aErrScrub 0).reg aErrScrub = 0
      ∧ cloakMiB exS.part.set * 131072 ≤ (0xFFFFFF#24).toNat ∧ (1#2) ≠ 0 := by decide

theorem witness_RecoveryAndScrub_array (v : BitVec 24) :
    Sys2Proof.SramAt.control 0 ≠ .peer ∧ Sys2Proof.SramAt.control 0 ≠ .scrub v ∧ Sys2Proof.SramAt.control 0 ≠ .cloak v
      ∧ Sys2Proof.SramAt.cloak 1 ≠ .peer ∧ Sys2Proof.SramAt.cloak 1 ≠ .scrub v
      ∧ (Sys2Proof.SramAt.cloak 1 = .cloak v → v.toNat < cloakMiB exS.part.set * 131072) := by
  refine ⟨by simp, by simp, by simp, by simp, by simp, ?_⟩
  rintro ⟨⟩
  decide

theorem witness_SoftwareAbortAndRearm : exS.tut.st = 0 ∧ exS.err.due = none ∧ (exTerm 1 1 0).tut.st ≠ 0 ∧ (exTerm 1 1 0).err.due = none := by
  decide

/-! ## Security -/

/-- A request of this code, with nothing in it. -/
def exReq (code : Nat) : Bytes := leBytes 1 (if code = rqGetVersion then 0x10 else 0x13) ++ leBytes 1 code ++ leBytes 2 0

/-- The head form with its algorithms negotiated, a certificate chain and a session. -/
def exSession (up : Bool) : State :=
  { exS with sec := { exS.sec with noIdentity := false, negotiated := true, chain := [1], session := some 7, sessionUp := up } }

theorem witness_SpdmResponder (code : Nat) (h : code ∈ [rqGetVersion, rqGetCapabilities, rqNegotiate, rqGetDigests, rqGetCertificate,
      rqChallenge, rqGetMeasurements, rqSetCertificate, rqKeyExchange, rqFinish, rqEndSession]) :
    (exSession false).head = true ∧ (exSession false).spdmRefused (exReq code) = none ∧ spdmAt (exReq code) 1 1 = code
      ∧ (exSession false).sec.negotiated = true ∧ (exSession false).sec.chain ≠ [] ∧ (exSession false).sec.session = some 7
      ∧ (exSession false).sec.sessionUp = false := by
  revert code; decide

theorem witness_SpdmResponder_states :
    (exSession false).sec.session.isSome = true
      ∧ ({ exSession false with sec := { (exSession false).sec with negotiated := false } } : State).sec.negotiated = false
      ∧ ({ exSession false with sec := { (exSession false).sec with chain := [] } } : State).sec.chain = []
      ∧ ({ exSession false with sec := { (exSession false).sec with session := none } } : State).sec.session = none := by decide

theorem witness_SpdmResponder_unsupported :
    (exSession false).head = true ∧ (exSession false).spdmRefused (exReq 0x20) = some erUnsupported ∧ Tab.wf (exSession false).regs = true
      ∧ ({ exS with part := { exS.part with form := 1 } } : State).head = false := by decide

theorem witness_DomainKeyNeedsSession_refused :
    Tab.wf exS.regs = true ∧ exS.head = true ∧ exS.sec.sessionUp = false
      ∧ ({ exS with exp := some ⟨0, 0, 0, 0⟩ } : State).secBusyNow = true ∧ State.reset.domainOk [] = false := by decide

/-- An owner's key, and its signatures of the two messages below for package 5, made outside the model. -/
def exOwner : Bytes := beBytes 96
  0x7ae9e1db1160794c70c1ef071be5191f6c66240f4608fbe8a44ecd36c3ed5db97500f2e4d84e3fb45850fd6f4303302bd8ac21444cd80d241538d8034b399a0dee3636eb5cb00b9499d061a571db0f14bb47ed79453948ed63f3a6ccbbf6e74f
def exSign (k : Nat) : Bytes := beBytes 96 (if k = 1 then
  0x9f4235c8734d951d5071a1f8bc9759e145f08f32c1002bc4de99aff5f57124728bb3c10a4394cd3c139ad8da958e9371059521d1c0ce7fa9909cc6020899d4c5f0cc76106f02eaca4fb3e6a9fc46f4b352bc06a8c5ddef486e8e97d0e902736d else
  0x9f4235c8734d951d5071a1f8bc9759e145f08f32c1002bc4de99aff5f57124728bb3c10a4394cd3c139ad8da958e9371dc31afd834895d2ebd989e4c38e05f29aca0c0f41691606cbdfadaf9d5d82be5ff79d0cd9ee9db1a28c7b9e5d0793db6)

/-- A DOMAIN_KEY message of kind `k` for serial 7 with a key of zeros, and fuses that hold the owner's hash. -/
def exDomain (k : Nat) : Bytes := leBytes 1 k ++ leBytes 3 0 ++ leBytes 4 7 ++ leBytes 0x38 0 ++ exOwner ++ exSign k
def exFuses : List Word := [0, 0, 0, 0, 0x500ecaef09b33849, 0x49d84ab49f9b9ca, 0x903616c06a675a5c, 0x6d9194e7a2a82ab,
  0xf45b3c35292c7950, 0x7002639514331f46]

theorem witness_DomainKeyNeedsSession (k : Nat) (hk : k = 1 ∨ k = 2) :
    let s0 := exSession true
    let s : State := { s0 with part := { exS.part with fuses := exFuses }, sec := { s0.sec with pkg := 5 } }
    Tab.wf s.regs = true ∧ s.sec.sessionUp = true ∧ s.secBusyNow = false ∧ s.domainOk (exDomain k) = true ∧ leAt (exDomain k) 0 1 = k := by
  obtain rfl | rfl := hk <;> exact ⟨by decide, by decide, by decide, by decide +kernel, by decide⟩

/-- A restore whose last writes are on the way or have ended. -/
def exRestore (writes : Nat) : Restore :=
  { step := 5, epoch := 9, next := 0, records := 0, key := 0, head := [], index := [], kept := [], writes := writes, last := true }

theorem witness_RestoreAndExportRun_restore :
    let s (w : Nat) : State := { exS with rst := some (exRestore w) }
    (s 0).rst = some (exRestore 0) ∧ (exRestore 0).last = true ∧ (exRestore 0).writes = 0 ∧ (exRestore 1).writes ≠ 0
      ∧ (s 0).rst.isSome = true ∧ exS.tut.st = 0 ∧ exS.rst = none ∧ exS.exp = none ∧ (exTerm 1 1 0).tut.st ≠ 0 := by decide

theorem witness_RestoreAndExportRun_export :
    let s : State := { exS with exp := some ⟨0, 0, 0, 0⟩ }
    bitAt (1 : Word) 0 = true ∧ State.reset.syl = none ∧ ¬ (exS.syl = none ∨ 3 ≤ exS.mkr.phase ∨ exS.rst.isSome = true ∨ exS.tut.ckpt = true
        ∨ exS.exp.isSome = true)
      ∧ bitAt (0 : Word) 0 = false ∧ s.exp = some ⟨0, 0, 0, 0⟩ ∧ s.exportTiles 0 ≤ 0 ∧ (⟨0, 0, 0, 1⟩ : ExportRun).writes ≠ 0
      ∧ 0 < exMk.exportTiles 0 := by decide

theorem witness_ZeroiseAndSideband :
    exS.head = true ∧ ({ exS with part := { exS.part with form := 1 } } : State).head = false ∧ (exS.flink (2 + (0#2).toNat)).aligned = false
      ∧ ((exPort 2 (exLink lsUp)).flink (2 + (0#2).toNat)).aligned = true := by decide

/-! ## Power -/

/-- A quiet form with RECESS_EN set, and its clock pins so. -/
def exClock (req en : Bool) (st : Nat) (applying entering : Bool) : State :=
  { exS.setF aPwrCtrl 8 1 1 with pins := { exS.pins with fclkReq := req, fclkEn := en }
                                 pwr := { exS.pwr with st := st, applying := applying, entering := entering } }

theorem witness_RecessFollowsClockPins :
    let s := exClock true true 2 false false
    s.recessEn = true ∧ s.pins.fclkReq = true ∧ s.pins.fclkEn = true ∧ s.quiet = true ∧ (exS.setF aPwrCtrl 8 1 0).recessEn = false
      ∧ (let t := exClock false true 2 true false
         t.pins.fclkReq = false ∧ t.pwr.applying = true)
      ∧ (let t := exClock false true 2 false true
         t.pins.fclkReq = false ∧ t.pwr.applying = false ∧ t.pwr.pend = none ∧ t.pwr.entering = true)
      ∧ (let t := exClock true false 1 false false
         t.pins.fclkEn = false ∧ t.pins.fclkReq = true ∧ t.pwr.st ≠ 3)
      ∧ (exClock true false 3 false false).pwr.st = 3 ∧ (exClock false false 3 false false).pins.fclkReq = false := by decide

theorem witness_DutyOfBenches :
    let s := exTerm 1 1 0
    s.tut.st ≠ 0 ∧ exS.tut.st = 0 ∧ Tab.wf s.regs = true ∧ max (100#16).toNat 10 < (200#16).toNat ∧ 1 < s.pwr.duty
      ∧ ({ s with pwr := { s.pwr with duty := 1 } } : State).pwr.duty ≤ 1 ∧ 16 * (75#16).toNat ≤ 15 * max (80#16).toNat 10
      ∧ 15 * max (100#16).toNat 10 < 16 * (100#16).toNat ∧ (100#16).toNat ≤ max (100#16).toNat 10
      ∧ s.pins.droop = false ∧ ({ s with pins := { s.pins with droop := true } } : State).pins.droop = true := by decide

/-- A reading is due; REF is this. -/
def exReading (ref : Option Nat) (confirm : Bool) : State :=
  { exS with pwr := { exS.pwr with readDue := true, ref := ref, confirm := confirm } }

theorem witness_ReadingsAndTelemetry (confirm : Bool) :
    let t := exReading (some 70) confirm
    Tab.wf t.regs = true ∧ exS.pwr.readDue = false ∧ (exReading none confirm).pwr.ref = none ∧ (exReading none confirm).pwr.readDue = true
      ∧ t.pwr.ref = some 70 ∧ t.pwr.confirm = confirm ∧ (0#12).toNat < t.slackMin
      ∧ ¬ ((60#12).toNat < t.slackMin ∨ (t.pwr.confirm = false ∧ (60#12).toNat + 20 ≤ 70))
      ∧ (confirm = false → t.pwr.confirm = false ∧ (50#12).toNat + 20 ≤ 70)
      ∧ (1023#16).toNat < 1024 ∧ telemField (0x8B#8).toNat = none ∧ State.reset.pwr.vfLocked = false
      ∧ ({ exS with pwr := { exS.pwr with vfLocked := true } } : State).pwr.vfLocked = true := by
  revert confirm; decide

/-! ## Signed images -/

/-- The sections of an image for one form of set 1 with a package of one: type and bytes. -/
def exSects : List (Nat × Bytes) :=
  [(1, leBytes 8 1 ++ leBytes 8 0xFFFFFFFFFFFFFF00 ++ leBytes 48 0), (2, leBytes 64 0),
   (3, leBytes 8 0 ++ leBytes 4 1 ++ leBytes 4 1 ++ leBytes 8 0 ++ leBytes 4 13 ++ leBytes 36 0), (4, leBytes 128 0x8000000),
   (5, [4, 128, 8, 8, 2, 4, 4, 2].flatMap (leBytes 4) ++ leBytes 32 0),
   (6, leBytes 4 1 ++ leBytes 4 0x80 ++ leBytes 56 0 ++ leBytes 6 0 ++ leBytes 10 1 ++ leBytes 112 5), (7, leBytes 64 0),
   (0x12, leBytes 3 0 ++ leBytes 5 1 ++ leBytes 4 1 ++ leBytes 18 0 ++ [1, 1, 1] ++ leBytes 3 0 ++ leBytes 4 100 ++ leBytes 8 2
     ++ List.replicate 12 1 ++ leBytes 68 0),
   (0x13, leBytes 8 0 ++ [8, 0, 0xFF] ++ leBytes 5 0 ++ leBytes 8 0x80 ++ leBytes 48 786432 ++ leBytes 56 0x80),
   (0x14, leBytes 20 0 ++ leBytes 8 0x80 ++ leBytes 8 0x3F800000 ++ leBytes 4 0x3F800000 ++ leBytes 12 0x3F800000
     ++ leBytes 4 0x3F800000 ++ leBytes 4 0x3F800000 ++ leBytes 2 1 ++ leBytes 2 128 ++ leBytes 64 100),
   (0x22, leBytes 4 1 ++ leBytes 4 1 ++ leBytes 4 1 ++ leBytes 4 0x40 ++ leBytes 4 0x80 ++ leBytes 44 0xC0
     ++ leBytes 2 0 ++ leBytes 2 1 ++ leBytes 2 0 ++ leBytes 58 0xFFFF ++ leBytes 8 0 ++ leBytes 4 1 ++ leBytes 52 0xFFFF ++ leBytes 64 0)]

/-- Directory entries of sections that stand one after another from `off`. -/
def exDir : Nat → List (Nat × Bytes) → Bytes
  | _, [] => []
  | off, x :: r => leBytes 2 x.1 ++ leBytes 2 1 ++ leBytes 4 off ++ leBytes 8 x.2.length ++ exDir (off + x.2.length) r

/-- An image of this kind with these sections, signed by the owner `exOwner`. -/
def exSigned (kind serial base : Nat) (sects : List (Nat × Bytes)) (sig : Nat) : Bytes :=
  let n := sects.length + 1
  let start := (0x40 + 16 * n + 63) / 64 * 64
  let body := (sects.map Prod.snd).flatten
  let all := sects ++ [(0xFFFF, exOwner ++ beBytes 96 sig ++ leBytes 64 0)]
  leBytes 4 0x5A53594C ++ leBytes 2 3 ++ leBytes 1 kind ++ leBytes 1 2 ++ leBytes 4 (start + body.length + 256) ++ leBytes 2 n ++ leBytes 2 0x101
    ++ leBytes 4 serial ++ leBytes 4 base ++ leBytes 40 0 ++ exDir start all ++ List.replicate (start - 0x40 - 16 * n) 0
    ++ body ++ exOwner ++ beBytes 96 sig ++ leBytes 64 0

def exFull1 : Bytes := exSigned 1 7 0 exSects 0x9f4235c8734d951d5071a1f8bc9759e145f08f32c1002bc4de99aff5f57124728bb3c10a4394cd3c139ad8da958e9371066c58acdffee1d20ee0cd4eb324591189971ece395c62f2f5fd40bb576274ec76187c1b1ad29ca242a8752b019935c6
def exPart1 : Bytes := exSigned 2 8 7 [(0x10, [50, 30, 20] ++ leBytes 61 0)] 0x9f4235c8734d951d5071a1f8bc9759e145f08f32c1002bc4de99aff5f57124728bb3c10a4394cd3c139ad8da958e93711a085f3b9af995f3d9bc886bc3849233ad0e6513898d4314bea523875a88e5e62821acd0ef59237268e206ad5ea3ef9f

/-- A form of set 1, package 5, whose fuses hold the owner's hash, fetching an image of this kind. -/
def exLoads (kind : Nat) : State :=
  { State.reset with
    part := { State.reset.part with set := 1, form := 0, fed := 0, compat := 0, fuses := exFuses, whole := true }
    sec := { State.reset.sec with pkg := 5 }
    load := { Loader.reset with phase := 1, kind := kind } }

/-- The form after `exFull1` is installed, fetching a partial image. -/
def exLoads2 : State := { exLoads 2 with syl := some (imgOf exFull1 0), level := 2 }

theorem witness_ImageIsVerifiedOrRefused_full :
    let s := exLoads 1
    s.head = true ∧ s.part.whole = true ∧ s.load.phase = 1 ∧ s.load.push = false
      ∧ (s.emit (.store true (s.secondHalf s.part.form) exFull1.length)).verify s.load.kind exFull1 = none
      ∧ (imgOf exFull1 s.part.form).kind = 1 := by decide +kernel

theorem witness_ImageIsVerifiedOrRefused_partial :
    let s := exLoads2
    s.head = true ∧ s.part.whole = true ∧ s.load.phase = 1 ∧ s.load.push = false
      ∧ (s.emit (.store true (s.secondHalf s.part.form) exPart1.length)).verify s.load.kind exPart1 = none
      ∧ (imgOf exPart1 s.part.form).kind ≠ 1 := by decide +kernel
/-! ## WellFormed: an ill-formed term for each check, refused -/

/-- Straps of form `f` in a package of 2^`n` forms. -/
def exStraps (n : BitVec 2) (f : BitVec 3) : Sys2Proof.Straps := ⟨3, f, n, 3, 0, true⟩

theorem wf_fuses : Sys2Proof.Instr.wellFormed (.coldReset (exStraps 3 0) []) = false := by decide
theorem wf_fuses_ok : Sys2Proof.Instr.wellFormed (.coldReset (exStraps 3 7) (List.replicate 16 0)) = true := by decide
theorem wf_form_cold : Sys2Proof.Instr.wellFormed (.coldReset (exStraps 1 2) (List.replicate 16 0)) = false := by decide
theorem wf_form_warm : Sys2Proof.Instr.wellFormed (.warmReset (exStraps 0 1)) = false := by decide
theorem wf_queues_twice : Sys2Proof.Instr.wellFormed (.commandComplete [3, 3] []) = false := by decide
theorem wf_mem_port : Sys2Proof.Instr.wellFormed (.memReadTimeout 3 0) = false := by decide
theorem wf_mem_beat : Sys2Proof.Instr.wellFormed (.memReadResponse 0 0 [] false false) = false := by decide
theorem wf_mem_read_port : Sys2Proof.Instr.wellFormed (.memReadResponse 3 0 (List.replicate 256 0) false false) = false := by decide
theorem wf_link : Sys2Proof.Instr.wellFormed (.pcsAlign 6) = false := by decide
theorem wf_frame_link : Sys2Proof.Instr.wellFormed (.hello 7 [] false) = false := by decide
theorem wf_frame_length : Sys2Proof.Instr.wellFormed (.data 0 (List.replicate 16385 0) false) = false := by
  show (Sys2Proof.linkOk 0 && decide ((List.replicate 16385 (0 : Byte)).length ≤ 16384)) = false
  rw [List.length_replicate]
  rfl
theorem wf_message : Sys2Proof.Instr.wellFormed (.getVersion (List.replicate 65537 0)) = false := by
  show decide ((List.replicate 65537 (0 : Byte)).length ≤ 65536) = false
  rw [List.length_replicate]
  rfl
theorem wf_satchel : Sys2Proof.Instr.wellFormed (.engineSatchel 0 [] false) = false := by decide
theorem wf_scrub : Sys2Proof.Instr.wellFormed (.scrubRead (.scrub 0) 3) = false := by decide
theorem wf_scrub_array : Sys2Proof.Instr.wellFormed (.scrubRead (.control 5) 1) = false := by decide
theorem wf_entry_kind : Sys2Proof.Instr.wellFormed (.entryCopy 3 0 0) = false := by decide
theorem wf_run_tiles : Sys2Proof.Instr.wellFormed (.stagingRunAlloc 0 0 0) = false := by decide
theorem wf_queue_count (qs : List (BitVec 13)) (h : 8192 < qs.length) : Sys2Proof.Instr.wellFormed (.commandComplete qs []) = false := by
  simp [Sys2Proof.Instr.wellFormed]; omega

/-! ## Values that the spec gives -/

/-- The ASCII bytes 123456789. -/
def exDigits : Bytes := [0x31, 0x32, 0x33, 0x34, 0x35, 0x36, 0x37, 0x38, 0x39]

/-- The check value of R189. -/
theorem test_crc64 : crc64 exDigits = 0x6C40DF5F0B497347 := by decide
/-- The check value of R215. -/
theorem test_crc32c : crc32c exDigits = 0xE3069283 := by decide
/-- The outputs for seed 0 and counter 0 are the reset values of BNC_PHILOX_OUT_LO and _HI. -/
theorem test_philox : philox 0 0 0 0 0 = (0x6627E8D5, 0xE169C58D, 0xBC57AC4C, 0x9B00DBD8) := by decide
/-- 1 + 2^-24 in FP32 rounds to the even neighbour, 1. -/
theorem test_round_even : rne32 (v32 0x3F800000 |>.add (v32 0x33800000)) = 0x3F800000 := by decide
/-- 1.5 × −2 is −3. -/
theorem test_mul : rne32 ((v32 0x3FC00000).mul (v32 0xC0000000)) = 0xC0400000 := by decide
/-- The largest finite FP32 number doubled is infinity. -/
theorem test_overflow : rne32 ((v32 0x7F7FFFFF).add (v32 0x7F7FFFFF)) = 0x7F800000 := by decide
/-- The square root of 2, and the reciprocal square root of 4. -/
theorem test_sqrt : rne32 (v32 0x40000000).sqrt = 0x3FB504F3 := by decide
theorem test_rsqrt : rne32 (v32 0x40800000).rsqrt = 0x3F000000 := by decide
/-- A dot product of two elements, 1·2 + 3·4. -/
theorem test_dot : dotF 0 [some (v32 0x3F800000), some (v32 0x40400000)] [some (v32 0x40000000), some (v32 0x40800000)]
    = some (v32 0x41600000) := by decide

/-- FIPS 180-4: the digest of the bytes abc. -/
theorem test_sha384 : sha384 [0x61, 0x62, 0x63] = BitVec.ofNat 384 (leNat (beBytes 48
    0xcb00753f45a35e8bb5a03d699ac65007272c32ab0eded1631a8b605a43ff5bed8086072ba1e7cc2358baeca134c825a7)) := by decide +kernel
/-- FIPS 197: the example of a key of 256 bits. -/
theorem test_aes : aesEnc (aesKeys (leNat ((List.range 32).map (BitVec.ofNat 8)))) ((List.range 16).map fun i => BitVec.ofNat 8 (17 * i))
    = beBytes 16 0x8ea2b7ca516745bfeafc49904b496089 := by decide +kernel
/-- GCM's test case 14: a block of zeros under a key and a nonce of zeros. -/
theorem test_gcm : gcmSeal 0 0 [] (leBytes 16 0) = beBytes 32 0xcea7403d4d606b6e074ec5d3baf39d18d0d1c8a799996bf0265b98b5d48ab919 := by
  decide +kernel
/-- IEEE 1619's vector 10: its first block, of data unit 0xFF. -/
theorem test_xts : xtsEnc (leNat (beBytes 32 0x2718281828459045235360287471352662497757247093699959574966967627))
    (leNat (beBytes 32 0x3141592653589793238462643383279502884197169399375105820974944592)) 0xFF ((List.range 16).map (BitVec.ofNat 8))
    = beBytes 16 0x1c3b3a102f770386e4836c99e370cf9b := by decide +kernel
/-- RFC 4493's scheme with a key of 256 bits (SP 800-38B, example D.3): a block, its first eight bytes. -/
theorem test_cmac : cmac (leNat (beBytes 32 0x603deb1015ca71be2b73aef0857d77811f352c073b6108d72d9810a30914dff4))
    (beBytes 16 0x6bc1bee22e409f96e93d7e117393172a) = BitVec.ofNat 64 (leNat (beBytes 8 0x28a7023f452e8f82)) := by decide +kernel

/-- Example: layer 12 under light contention. The three round trips of 1,360 tiles. -/
theorem test_round_trips :
    tNs 44564480 307200 + tNs 44564480 512000 = 232107 ∧ 2 * tNs 44564480 121000 = 736604 := by decide
/-- Example: two re-plans on a ZR-X form. The slack predicted at steps 7 and 6. -/
theorem test_predicted : State.reset.predicted 98 7 7 = 98 ∧ State.reset.predicted 45 7 7 = 45 ∧ State.reset.predicted 45 7 6 = 64 := by
  decide
/-- Example: OFC_CONFIG of form 3 of an eight-form package; OFC_LIMITS on ZR-X. -/
theorem test_config : ({ State.reset with part := { State.reset.part with form := 3 } } : State).ofcConfig = 0x00104A08406000F3
    ∧ ofcLimits 3 = 0x0006120C0A100D0C := by decide
/-- Example: one block added and spilled. 2^24 + 18.625 in FP32. -/
theorem test_block_add : rne32 ((v32 0x4B800000).add (v32 0x41950000)) = 0x4B800009 := by decide
/-- Example: a scale update in layer 30. History 13.75 gives code 129, the tile that reaches 29.5 gives 130. -/
theorem test_scale : startCode 7 1 0x415C0000 = 129 ∧ raiseCode 7 1 129 [0x41EC0000] = 130 := by decide

/-- Example: one round with an early, a re-entered and a far-ahead arrival, up to the completion of round 10. -/
def exRound : State :=
  let s : State := { exS with asms := [(1, { (default : Asm) with mask := 7, round := 10 })] }
  let s := (s.arrive 1 0 0 0).1
  let s := (s.arrive 1 1 0 1).1
  let s := (s.arrive 1 0 1 0).1
  let s := (s.arrive 1 1 0 1).1
  (s.arrive 1 2 0 2).1
theorem test_round :
    let a := (exRound.asm 1).complete
    a.round = 11 ∧ a.count 0 = 3 ∧ a.count 1 = 1 ∧ a.drain 0 = true ∧ a.drain 1 = false := by decide

/-! ## One step each -/

/-- R244: an ordinary bell takes the sum; at level 2 it wraps, at level 3 it stops at the top. -/
theorem test_bell_top : (({ exS with bells := [(1, 0xFFFFFFFF)] } : State).signalAll [(1, 2)]).bell 1 = 0xFFFFFFFF := by decide
theorem test_bell_wrap : (({ exS with bells := [(1, 0xFFFFFFFF)], level := 2 } : State).signalAll [(1, 2)]).bell 1 = 1 := by decide
/-- R398: the benches' duty goes down by one when the estimate is above the grant. -/
theorem test_duty : (match exec (.governorWindow 100 200 0) exS with
    | .next t => t.pwr.duty
    | _ => 99) = exS.pwr.duty - 1 := by decide
/-- R56: a host write of a doorbell window during a full load is refused. -/
theorem test_no_signal_in_load : (match exec (.signal 1 0x500000000) { exS with load := { Loader.reset with phase := 2, kind := 1 } } with
    | .next t => t.bell 1
    | _ => 99) = 0 := by decide
/-- R261: a result posted twice before it is taken is overwritten. -/
theorem test_overwrite :
    (match exec (.post 1) { exIssued exS exPost with slots := [(2, { (default : ResSlot) with valid := true, seq := 4 })] } with
    | .next t => ((Tab.get t.slots 2).value, (Tab.get t.slots 2).overw, (Tab.get t.slots 2).seq)
    | _ => (0, false, 0)) = (9, true, 5) := by decide
/-- R366: an event that is logged takes the next place of the log. -/
theorem test_log_next : (exS.logEv evTtbRefused 0).regF aErrLogPtr 0 8 = 1 := by decide
/-- An idle step lets one cycle of the hall clock pass. -/
theorem test_idle : (match step State.reset with
    | .next t => t.hall
    | _ => 0) = 1 := by decide
/-- A step takes the command at the front. -/
theorem test_front : (match step { State.reset with pending := [.rearmFirst, .swAbort] } with
    | .next t => t.pending.length
    | _ => 0) = 1 := by decide

end Sys2Proof.Machine
end

section
/-! SUPPORT. The courier engine (R212 to R217): whose turn it is, what a grant leaves, a burst within the cloakroom, and the
end of a burst. -/

namespace Sys2Proof.Machine

/-! ## A round robin over `n` numbers -/

/-- How far `j` stands behind `p` in ascending number, wrapping at `n`. -/
def turnFrom (n p j : Nat) : Nat := (j + n - p % n) % n

theorem add_turnFrom_mod {n j : Nat} (p : Nat) (h : j < n) : (p + turnFrom n p j) % n = j := by
  have hp : p % n < n := Nat.mod_lt _ (by omega)
  calc (p + turnFrom n p j) % n = (p % n + (j + n - p % n)) % n := by rw [turnFrom, Nat.add_mod_mod, Nat.mod_add_mod]
    _ = (j + n) % n := by congr 1; omega
    _ = j := by rw [Nat.add_mod_right, Nat.mod_eq_of_lt h]

theorem turnFrom_add_mod {n i : Nat} (p : Nat) (h : i < n) : turnFrom n p ((p + i) % n) = i := by
  have hp : p % n < n := Nat.mod_lt _ (by omega)
  rw [turnFrom, ← Nat.mod_add_mod]
  by_cases hw : p % n + i < n
  · rw [Nat.mod_eq_of_lt hw, show p % n + i + n - p % n = i + n by omega, Nat.add_mod_right, Nat.mod_eq_of_lt h]
  · have hsub : (p % n + i) % n = p % n + i - n := by rw [Nat.mod_eq_sub_mod (by omega), Nat.mod_eq_of_lt (by omega)]
    rw [hsub, show p % n + i - n + n - p % n = i by omega, Nat.mod_eq_of_lt h]

/-- A search that starts at `p` and wraps finds, of the numbers that qualify, the one with the nearest turn. -/
theorem find?_wrapping_eq_some {n p k : Nat} {P : Nat → Bool}
    (h : ((List.range n).map fun i => (p + i) % n).find? P = some k) :
    k < n ∧ P k = true ∧ ∀ j < n, P j = true → turnFrom n p k ≤ turnFrom n p j := by
  rw [List.find?_map, Option.map_eq_some_iff] at h
  obtain ⟨i, hi, rfl⟩ := h
  obtain ⟨hP, hin, hbefore⟩ := List.find?_range_eq_some.mp hi
  have hin : i < n := List.mem_range.mp hin
  refine ⟨Nat.mod_lt _ (by omega), hP, fun j hj hPj => ?_⟩
  rw [turnFrom_add_mod p hin]
  by_contra hlt
  have hno := hbefore (turnFrom n p j) (by omega)
  simp [add_turnFrom_mod p hj, hPj] at hno

/-- A search that wraps fails only when no number qualifies. -/
theorem find?_wrapping_eq_none {n p j : Nat} {P : Nat → Bool}
    (h : ((List.range n).map fun i => (p + i) % n).find? P = none) (hj : j < n) : P j = false := by
  have hn : 0 < n := by omega
  have hmem : j ∈ (List.range n).map fun i => (p + i) % n :=
    List.mem_map.mpr ⟨turnFrom n p j, List.mem_range.mpr (Nat.mod_lt _ hn), add_turnFrom_mod p hj⟩
  simpa using List.find?_eq_none.mp h j hmem

/-! ## Whose turn it is (R216) -/

variable (s : State) (k : Nat)

theorem Courier.ready_iff (x : Courier) : x.ready = true ↔ x.st = 1 ∧ (x.paceSrc = 0 ∨ 0 < x.pendingEv) := by
  simp [Courier.ready]

theorem Courier.prio_lt (x : Courier) : x.prio < 4 := Nat.mod_lt _ (by decide)

/-- The ready courier of level `v` whose turn it is. -/
def State.courierAt (v : Nat) : Option Nat :=
  ((List.range (limCouriers s.part.set)).map fun i => (s.crsEng.from_ v + i) % limCouriers s.part.set).find?
    fun k => (s.cr k).ready && (s.cr k).prio == v

/-- The levels are asked from the highest down. -/
theorem State.nextCourier_eq_or :
    s.nextCourier = (s.courierAt 3).or ((s.courierAt 2).or ((s.courierAt 1).or (s.courierAt 0))) := by
  change (match s.courierAt 3, s.courierAt 2, s.courierAt 1, s.courierAt 0 with
    | some k, _, _, _ => some k
    | _, some k, _, _ => some k
    | _, _, some k, _ => some k
    | _, _, _, r => r) = _
  cases s.courierAt 3 <;> cases s.courierAt 2 <;> cases s.courierAt 1 <;> rfl

variable {s k}

theorem State.courierAt_some {v : Nat} (h : s.courierAt v = some k) :
    k < limCouriers s.part.set ∧ (s.cr k).ready = true ∧ (s.cr k).prio = v ∧
      ∀ j < limCouriers s.part.set, (s.cr j).ready = true → (s.cr j).prio = v →
        turnFrom (limCouriers s.part.set) (s.crsEng.from_ v) k ≤ turnFrom (limCouriers s.part.set) (s.crsEng.from_ v) j := by
  obtain ⟨hk, hP, hfirst⟩ := find?_wrapping_eq_some h
  simp only [Bool.and_eq_true, beq_iff_eq] at hP hfirst
  exact ⟨hk, hP.1, hP.2, fun j hj hr hv => hfirst j hj ⟨hr, hv⟩⟩

theorem State.courierAt_none {v j : Nat} (h : s.courierAt v = none) (hj : j < limCouriers s.part.set)
    (hr : (s.cr j).ready = true) : (s.cr j).prio ≠ v := by
  have hno := find?_wrapping_eq_none h hj
  simpa [hr] using hno

/-- The courier chosen is the one of its own level, and no higher level has one. -/
theorem State.nextCourier_some (h : s.nextCourier = some k) :
    s.courierAt (s.cr k).prio = some k ∧ ∀ w < 4, (s.cr k).prio < w → s.courierAt w = none := by
  have key : ∀ v, s.courierAt v = some k → (∀ w < 4, v < w → s.courierAt w = none) →
      s.courierAt (s.cr k).prio = some k ∧ ∀ w < 4, (s.cr k).prio < w → s.courierAt w = none := by
    intro v hv hup
    obtain ⟨-, -, rfl, -⟩ := State.courierAt_some hv
    exact ⟨hv, hup⟩
  simp only [State.nextCourier_eq_or, Option.or_eq_some_iff] at h
  obtain h3 | ⟨n3, h2 | ⟨n2, h1 | ⟨n1, h0⟩⟩⟩ := h
  · exact key 3 h3 fun w hw hv => by omega
  · refine key 2 h2 fun w hw hv => ?_
    obtain rfl : w = 3 := by omega
    exact n3
  · refine key 1 h1 fun w hw hv => ?_
    obtain rfl | rfl : w = 2 ∨ w = 3 := by omega
    exacts [n2, n3]
  · refine key 0 h0 fun w hw hv => ?_
    obtain rfl | rfl | rfl : w = 1 ∨ w = 2 ∨ w = 3 := by omega
    exacts [n1, n2, n3]

/-- No courier is chosen only when no level has a ready one. -/
theorem State.courierAt_none_of_nextCourier (h : s.nextCourier = none) {v : Nat} (hv : v < 4) : s.courierAt v = none := by
  simp only [State.nextCourier_eq_or, Option.or_eq_none_iff] at h
  obtain ⟨n3, n2, n1, n0⟩ := h
  obtain rfl | rfl | rfl | rfl : v = 0 ∨ v = 1 ∨ v = 2 ∨ v = 3 := by omega
  exacts [n0, n1, n2, n3]

/-- The courier chosen is ready, and every ready one is of no higher level and, within its level, of no nearer turn. -/
theorem State.nextCourier_first (h : s.nextCourier = some k) :
    k < limCouriers s.part.set ∧ (s.cr k).ready = true ∧
      ∀ j < limCouriers s.part.set, (s.cr j).ready = true → (s.cr j).prio ≤ (s.cr k).prio ∧
        ((s.cr j).prio = (s.cr k).prio →
          turnFrom (limCouriers s.part.set) (s.crsEng.from_ (s.cr k).prio) k
            ≤ turnFrom (limCouriers s.part.set) (s.crsEng.from_ (s.cr k).prio) j) := by
  obtain ⟨hat, hup⟩ := State.nextCourier_some h
  obtain ⟨hk, hr, -, hfirst⟩ := State.courierAt_some hat
  refine ⟨hk, hr, fun j hj hrj => ⟨?_, hfirst j hj hrj⟩⟩
  by_contra hlt
  exact State.courierAt_none (hup _ (Courier.prio_lt _) (by omega)) hj hrj rfl

theorem State.nextCourier_ne_none {j : Nat} (hj : j < limCouriers s.part.set) (hr : (s.cr j).ready = true) :
    s.nextCourier ≠ none := fun h =>
  State.courierAt_none (State.courierAt_none_of_nextCourier h (Courier.prio_lt (s.cr j))) hj hr rfl

/-! ## The grant of a burst -/

variable (s k)

/-- The state with the courier engine `g`. -/
def State.withEng (g : CrsEng) : State := { s with crsEng := g }

@[simp] theorem State.withEng_cr (g : CrsEng) : (s.withEng g).cr k = s.cr k := rfl

/-- The engine once it has taken courier `k` of level `v`. -/
def CrsEng.serve (g : CrsEng) (v k : Nat) : CrsEng :=
  { g with
    busy := some k, abortReq := false
    last0 := if v = 0 then k + 1 else g.last0
    last1 := if v = 1 then k + 1 else g.last1
    last2 := if v = 2 then k + 1 else g.last2
    last3 := if v = 3 then k + 1 else g.last3 }

theorem CrsEng.from_serve (g : CrsEng) {v : Nat} (hv : v < 4) : (g.serve v k).from_ v = k + 1 := by
  obtain rfl | rfl | rfl | rfl : v = 0 ∨ v = 1 ∨ v = 2 ∨ v = 3 := by omega
  all_goals rfl

/-- A paced courier spends one of its pacing events on a burst. -/
def Courier.spend (x : Courier) : Courier := if x.paceSrc = 0 then x else { x with pendingEv := x.pendingEv - 1 }

/-- The state in which the burst granted to courier `k` begins its reads. -/
def State.granted : State := (s.withEng (s.crsEng.serve (s.cr k).prio k)).modCr k Courier.spend

theorem State.courierBurst_busy {s : State} (hp : s.crsEng.phase ≠ 0) : s.courierBurst = s := if_pos hp

theorem State.courierBurst_granted {s : State} {k : Nat} (hp : s.crsEng.phase = 0) (hn : s.nextCourier = some k) :
    s.courierBurst = (s.granted k).crsRead k := by
  unfold State.courierBurst
  rw [if_neg (not_not.mpr hp), hn]
  rfl

/-! ## What an access of a burst leaves of the engine -/

@[simp] theorem State.sendReq_crsEng (r : MemReq) (b : Bool) : (s.sendReq r b).crsEng = s.crsEng := by
  unfold State.sendReq
  split <;> rfl

theorem pumpLoop_crsEng (n : Nat) : (pumpLoop n s).crsEng = s.crsEng := by
  induction n generalizing s with
  | zero => rfl
  | succ n ih =>
    rw [pumpLoop]
    split
    · rfl
    · simp [ih]

@[simp] theorem State.startJob_crsEng (kind : JobKind) (f : Nat → List MemReq) : (s.startJob kind f).crsEng = s.crsEng :=
  pumpLoop_crsEng _ _

/-- The engine `h` serves the burst that `g` serves: only how far it has come may differ. -/
def CrsEng.SameService (g h : CrsEng) : Prop := h = { g with phase := h.phase, data := h.data, fail := h.fail }

theorem CrsEng.SameService.trans {g h i : CrsEng} (e : g.SameService h) (e' : h.SameService i) : g.SameService i := by
  rw [CrsEng.SameService, e', e]

theorem CrsEng.SameService.busy_eq {g h : CrsEng} (e : g.SameService h) : h.busy = g.busy := by rw [e]

theorem CrsEng.SameService.from_eq {g h : CrsEng} (e : g.SameService h) (v : Nat) : h.from_ v = g.from_ v := by rw [e]; rfl

theorem State.crsWrite_sameService (data : Bytes) (old : List (Nat × Bytes)) :
    s.crsEng.SameService (s.crsWrite k data old).crsEng := by
  unfold State.crsWrite
  extract_lets x a sp out
  split
  · rfl
  · split
    · rfl
    · rw [State.startJob_crsEng]
      rfl

theorem State.crsRead_sameService : s.crsEng.SameService (s.crsRead k).crsEng := by
  unfold State.crsRead
  extract_lets x a sp da dsp edge bad eng s'
  have hs' : s.crsEng.SameService s'.crsEng := rfl
  clear_value bad s'
  split
  · rfl
  · split
    · simp only [State.crsFail, State.logEv_crsEng]
      rfl
    · split
      · exact hs'.trans (s'.crsWrite_sameService k _ _)
      · rw [State.startJob_crsEng]
        exact hs'

/-- A grant takes the courier whose turn it is and is remembered at its level. -/
theorem State.courierBurst_serves {s : State} {k : Nat} (hp : s.crsEng.phase = 0) (hn : s.nextCourier = some k) :
    s.courierBurst.crsEng.busy = some k ∧ s.courierBurst.crsEng.from_ (s.cr k).prio = k + 1 := by
  rw [State.courierBurst_granted hp hn]
  have hs := (s.granted k).crsRead_sameService k
  exact ⟨hs.busy_eq, (hs.from_eq _).trans (CrsEng.from_serve k _ (Courier.prio_lt _))⟩

/-! ## A burst within the cloakroom -/

/-- The address at which the next burst of a courier reads. -/
def Courier.srcAt (x : Courier) : Nat := ceAddr x.src + x.bytes

/-- The address at which the next burst of a courier writes. -/
def Courier.dstAt (x : Courier) : Nat := ceAddr x.dst + x.bytes

/-- The next burst of courier `x` moves bytes from cloakroom to cloakroom, in ranges that exist and hold no uncorrectable
error. -/
structure State.Clear (x : Courier) : Prop where
  src : ceSpace x.src = 0
  dst : ceSpace x.dst = 0
  readable : s.crsFirstBad 0 false x.srcAt x.rdLen = none
  sound : s.t0FirstBad x.srcAt x.rdLen = none
  writable : s.crsFirstBad 0 true x.dstAt (x.outBytes (s.t0Read x.srcAt x.rdLen)).length = none

/-- A grant concerns neither the cloakroom nor what its addresses allow, and of the courier only its pacing events. -/
theorem State.Clear.granted {s : State} {k : Nat} {x : Courier} (h : s.Clear x) : (s.granted k).Clear x.spend := by
  obtain ⟨h1, h2, h3, h4, h5⟩ := h
  unfold Courier.spend
  split <;> exact ⟨h1, h2, h3, h4, h5⟩

variable {s k}

theorem State.cr_modCr_same (f : Courier → Courier) (h : Tab.wf s.crs = true) : (s.modCr k f).cr k = f (s.cr k) :=
  Tab.get_put_same k _ h

theorem State.crsRead_clear (h : s.Clear (s.cr k)) :
    s.crsRead k = (s.withEng { s.crsEng with phase := 1 }).crsWrite k (s.t0Read (s.cr k).srcAt (s.cr k).rdLen) [] := by
  obtain ⟨hsrc, hdst, hrd, hok, -⟩ := h
  rw [Courier.srcAt] at hrd hok
  simp only [State.crsRead, hsrc, hdst, hrd, hok, if_true, true_or, List.isEmpty_nil, and_self]
  rfl

theorem State.crsWrite_clear {data : Bytes} (hdst : ceSpace (s.cr k).dst = 0)
    (hwr : s.crsFirstBad 0 true (s.cr k).dstAt ((s.cr k).outBytes data).length = none) :
    s.crsWrite k data [] =
      (s.t0Write (s.cr k).dstAt ((s.cr k).outBytes data)).withEng { s.crsEng with phase := 3, data := data } := by
  rw [Courier.dstAt] at hwr
  simp only [State.crsWrite, hdst, hwr, if_true]
  rfl

/-- The pacing event that a grant spends has no part in what the burst reads and writes. -/
theorem Courier.spend_reads (x : Courier) :
    x.spend.srcAt = x.srcAt ∧ x.spend.dstAt = x.dstAt ∧ x.spend.rdLen = x.rdLen ∧ x.spend.outBytes = x.outBytes := by
  unfold Courier.spend
  split <;> exact ⟨rfl, rfl, rfl, rfl⟩

/-- A granted burst within the cloakroom is over at once, and its bytes stand at the destination. -/
theorem State.courierBurst_clear (hwf : Tab.wf s.crs = true) (hp : s.crsEng.phase = 0) (hn : s.nextCourier = some k)
    (h : s.Clear (s.cr k)) :
    s.courierBurst =
      ((s.granted k).t0Write (s.cr k).dstAt ((s.cr k).outBytes (s.t0Read (s.cr k).srcAt (s.cr k).rdLen))).withEng
        { s.crsEng.serve (s.cr k).prio k with phase := 3, data := s.t0Read (s.cr k).srcAt (s.cr k).rdLen } := by
  have hcr : (s.granted k).cr k = (s.cr k).spend := State.cr_modCr_same _ hwf
  have hg : (s.granted k).Clear ((s.granted k).cr k) := hcr ▸ h.granted
  have hread := State.crsRead_clear hg
  have hwrite := State.crsWrite_clear (s := (s.granted k).withEng { (s.granted k).crsEng with phase := 1 }) hg.dst hg.writable
  obtain ⟨e1, e2, e3, e4⟩ := (s.cr k).spend_reads
  rw [State.courierBurst_granted hp hn, hread, hwrite, State.withEng_cr, hcr, e1, e2, e3, e4]
  rfl

/-! ## The end of a burst -/

theorem State.courierBurstDone_waits (h : s.crsEng.busy = none ∨ s.crsEng.phase ≠ 3) : s.courierBurstDone = s := by
  unfold State.courierBurstDone
  cases hb : s.crsEng.busy with
  | none => rfl
  | some k => exact if_pos (h.resolve_left (by simp [hb]))

/-- The burst of courier `k` accounted for, as failed or as done. -/
def State.crsAccount (s : State) (k : Nat) : State :=
  match s.crsEng.fail with
  | some (space, addr, wr, cause) => s.crsHalt k space addr wr cause
  | none => s.crsAdvance k s.crsEng.data

theorem State.crsAccount_done (h : s.crsEng.fail = none) : s.crsAccount k = s.crsAdvance k s.crsEng.data := by
  rw [State.crsAccount, h]

/-- The engine free for the next grant. -/
def State.engFreed (s : State) : State :=
  s.withEng { s.crsEng with busy := none, phase := 0, data := [], fail := none, abortReq := false }

@[simp] theorem State.engFreed_cr (s : State) (k : Nat) : s.engFreed.cr k = s.cr k := rfl

theorem State.courierBurstDone_over (hb : s.crsEng.busy = some k) (hp : s.crsEng.phase = 3) :
    s.courierBurstDone =
      if s.crsEng.abortReq = true then (s.crsAccount k).engFreed.modCr k fun x => { x with st := 0, runBy := none }
      else (s.crsAccount k).engFreed := by
  unfold State.courierBurstDone
  rw [hb]
  exact if_neg (not_not.mpr hp)

/-- Courier `x` after a burst inside its pass that read `data`: BYTES and the CRC move on, and HALF is set at half of COUNT. -/
def Courier.advanced (x : Courier) (data : Bytes) : Courier :=
  { x with
    bytes := x.bytes + x.burst
    crc := if x.crcEn then ~~~(crcRun polyC (~~~x.crc) (data.take x.burst)) else x.crc
    bits := Nat.lor x.bits (if x.bytes < x.cnt / 2 ∧ x.cnt / 2 ≤ x.bytes + x.burst then csHalf else 0) }

/-- A burst that is not the last of its pass only moves its courier on. -/
theorem State.crsAdvance_inside (data : Bytes) (h : (s.cr k).bytes + 4096 < (s.cr k).cnt) :
    s.crsAdvance k data = s.modCr k fun x => x.advanced data := by
  have hlast : (s.cr k).lastBurst = false := by simp [Courier.lastBurst, h]
  have hdone : (s.cr k).bytes + (s.cr k).burst ≠ (s.cr k).cnt := by
    rw [Courier.burst]
    omega
  simp only [State.crsAdvance, hlast, hdone, if_false, Bool.false_and, Bool.false_eq_true, Nat.add_zero]
  rfl

/-! ## The commands -/

theorem exec_courierBurst : exec .courierBurst s = .next s.courierBurst := rfl
theorem exec_courierBurstDone : exec .courierBurstDone s = .next s.courierBurstDone := rfl

/-- COURIER_BURST_DONE of a burst that did not fail and is not the last of its pass. -/
theorem runs_courierBurstDone_inside (hwf : Tab.wf s.crs = true) (hb : s.crsEng.busy = some k) (hp : s.crsEng.phase = 3)
    (hf : s.crsEng.fail = none) (ha : s.crsEng.abortReq = false) (hin : (s.cr k).bytes + 4096 < (s.cr k).cnt) :
    Runs .courierBurstDone s fun t => t.cr k = (s.cr k).advanced s.crsEng.data ∧ t.crsEng.busy = none ∧ t.crsEng.phase = 0
      ∧ t.t0 = s.t0 := by
  refine ⟨_, exec_courierBurstDone, ?_⟩
  rw [State.courierBurstDone_over hb hp, if_neg (by simp [ha]), State.crsAccount_done hf, State.crsAdvance_inside _ hin]
  exact ⟨(State.engFreed_cr _ k).trans (State.cr_modCr_same _ hwf), rfl, rfl, rfl⟩

/-- Settles O38: the choice is a search of each level from the highest down, which wraps at the courier after the one last
served there; a burst within the cloakroom runs through its reads and writes at once; and the end of a burst inside a pass
changes only its courier and the engine. -/
theorem courierBursts : Obligations.CourierBursts := by
  refine ⟨⟨Courier.ready_iff, fun _ _ => State.nextCourier_first, fun _ _ => State.nextCourier_ne_none,
    fun s hp => ?busy, fun k s hp hn => ⟨_, exec_courierBurst, State.courierBurst_serves hp hn⟩⟩,
    ?clear, fun k s hb hp => ?ended, ?inside, fun s h => ?waits⟩
  case busy => rw [exec_courierBurst, State.courierBurst_busy hp]
  case ended => exact congrArg _ (State.courierBurstDone_over hb hp)
  case waits => rw [exec_courierBurstDone, State.courierBurstDone_waits h]
  case clear =>
    intro k s hwf hp hn x a da out hsrc hdst hrd hok hwr
    refine ⟨_, exec_courierBurst, ?_⟩
    rw [State.courierBurst_clear hwf hp hn ⟨hsrc, hdst, hrd, hok, hwr⟩]
    exact ⟨rfl, rfl, rfl, rfl, rfl⟩
  case inside =>
    intro k s hwf hb hp hf ha hin
    obtain ⟨t, ht, hcr, hbusy, hphase, ht0⟩ := runs_courierBurstDone_inside hwf hb hp hf ha hin
    refine ⟨t, ht, ?_, ?_, hbusy, hphase, ht0, fun hlt hle => ?_⟩
    · rw [hcr, Courier.advanced]
    · rw [hcr, Courier.advanced]
    · rw [hcr, Courier.advanced, if_pos ⟨hlt, hle⟩]

end Sys2Proof.Machine
end

section
/-! SUPPORT. Signals to a bell (R240, R243, R244): its new value at each level, what the other bells read, and the frame. -/

namespace Sys2Proof.Machine

variable {s : State} {m n : Nat} {vs : List Nat}

/-! ## The bells after an update -/

@[simp] theorem State.logEv_bell (s : State) (e : Ev) (low n : Nat) : (s.logEv e low).bell n = s.bell n := by
  rw [State.bell, State.logEv_bells, State.bell]

@[simp] theorem State.wake_bell (s : State) (n : Nat) : s.wake.bell n = s.bell n := by
  rw [State.bell, State.wake_bells, State.bell]

theorem State.bell_lt (s : State) (n : Nat) : s.bell n < 2 ^ 32 := (Tab.get s.bells n).isLt

/-- A bell holds 32 bits of the value written to it. -/
theorem State.bell_setBell_same (v : Nat) (hwf : Tab.wf s.bells = true) : (s.setBell n v).bell n = v % 2 ^ 32 := by
  rw [State.bell, State.setBell, Tab.get_put_same n _ hwf, BitVec.toNat_ofNat]

theorem State.bell_setBell_ne (v : Nat) (h : m ≠ n) : (s.setBell n v).bell m = s.bell m :=
  congrArg BitVec.toNat (Tab.get_put_ne _ h)

/-! ## The signals of one cycle to one bell -/

/-- R240: the exact sum, held at the greatest value at level 3, else modulo 2^32. -/
theorem State.bell_signalBell_plain (hf : s.isFlag n = false) (hwf : Tab.wf s.bells = true) :
    (s.signalBell n vs).bell n =
      if s.level = 3 then min (2 ^ 32 - 1) (s.bell n + vs.sum) else (s.bell n + vs.sum) % 2 ^ 32 := by
  have hlt := s.bell_lt n
  simp only [State.signalBell, hf, Bool.false_eq_true, if_false]
  by_cases h0 : vs.sum = 0
  · rw [if_pos h0, h0]
    split <;> omega
  by_cases hsat : s.level = 3 ∧ 2 ^ 32 - 1 < s.bell n + vs.sum
  · rw [if_neg h0, if_pos hsat, State.logEv_bell, State.bell_setBell_same _ hwf, if_pos hsat.1]
    omega
  · rw [if_neg h0, if_neg hsat, State.bell_setBell_same _ hwf]
    split <;> omega

/-- R243: a flag bell is set by any signal that is not 0. -/
theorem State.bell_signalBell_flag (hf : s.isFlag n = true) (hwf : Tab.wf s.bells = true) :
    (s.signalBell n vs).bell n = if vs.countP (· != 0) = 0 then s.bell n else 1 := by
  simp only [State.signalBell, hf, if_true]
  split
  · rfl
  · split
    · rw [State.logEv_bell, State.bell_setBell_same _ hwf, Nat.mod_eq_of_lt (by norm_num)]
    · rw [State.bell_setBell_same _ hwf, Nat.mod_eq_of_lt (by norm_num)]

/-- All that the signals to a bell can do: nothing, a write of the bell, and an event logged with it. -/
theorem State.signalBell_cases (s : State) (n : Nat) (vs : List Nat) :
    s.signalBell n vs = s ∨ ∃ v, s.signalBell n vs = s.setBell n v ∨ ∃ e low, s.signalBell n vs = (s.setBell n v).logEv e low := by
  unfold State.signalBell
  extract_lets v k s' sum
  split <;> split
  · exact .inl rfl
  · refine .inr ⟨1, ?_⟩
    split
    · exact .inr ⟨_, _, rfl⟩
    · exact .inl rfl
  · exact .inl rfl
  · split
    · exact .inr ⟨_, .inr ⟨_, _, rfl⟩⟩
    · exact .inr ⟨_, .inl rfl⟩

theorem State.bell_signalBell_ne (h : m ≠ n) : (s.signalBell n vs).bell m = s.bell m := by
  obtain e | ⟨v, e | ⟨ev, low, e⟩⟩ := s.signalBell_cases n vs
  · rw [e]
  · rw [e, State.bell_setBell_ne v h]
  · rw [e, State.logEv_bell, State.bell_setBell_ne v h]

/-- The two states agree in everything but the bells and what a logged event changes. -/
def State.sameButBells (s t : State) : Prop :=
  t = { s with bells := t.bells, regs := t.regs, err := { s.err with armed := t.err.armed } }

theorem State.signalBell_frame (s : State) (n : Nat) (vs : List Nat) : s.sameButBells (s.signalBell n vs) := by
  obtain e | ⟨v, e | ⟨ev, low, e⟩⟩ := s.signalBell_cases n vs
  · rw [e]; rfl
  · rw [e]; rfl
  · rw [e, State.sameButBells, State.logEv_bells]
    exact (s.setBell n v).logEv_frame ev low

/-! ## A host write of BEL_n (R244) -/

theorem State.signalAll_single (s : State) (n v : Nat) : s.signalAll [(n, v)] = (s.signalBell n [v]).wake := by
  simp [State.signalAll, nub]

theorem exec_signal {n : BitVec 16} (v : Word) (hl : s.fullLoading = false) (hn : n.toNat < limBells s.part.set) :
    exec (.signal n v) s = .next (s.signalBell n.toNat [fld v 32 32]).wake := by
  have h : exec (.signal n v) s = .next (s.hostWrites (s.hostSignal n.toNat (fld v 32 32))) := rfl
  rw [h, State.hostWrites, hl, if_neg Bool.false_ne_true, State.hostSignal, if_pos hn, State.signalAll_single]

theorem State.wake_frame_of_sameButBells {t : State} (h : s.sameButBells t) :
    t.wake = { s with bells := t.wake.bells, regs := t.wake.regs, err := { s.err with armed := t.wake.err.armed }
                      pins := { s.pins with fclkReq := t.wake.pins.fclkReq } } := by
  rw [State.wake_bells, State.wake_regs, State.wake_err, State.wake_frame]
  generalize t.wake.pins.fclkReq = b
  rw [h]

/-- Settles O11: the write is one signal of one cycle to its bell, and a wake event. -/
theorem signalAddsToBell : Obligations.SignalAddsToBell := by
  intro n v s hl hn _ hwf
  refine ⟨_, exec_signal v hl hn, fun hf => ?plain, fun hf => ?flag, ?frame, fun m hm => ?other⟩
  case plain => rw [State.wake_bell, State.bell_signalBell_plain hf hwf, List.sum_singleton]
  case flag =>
    rw [State.wake_bell, State.bell_signalBell_flag hf hwf]
    simp
  case frame =>
    exact State.wake_frame_of_sameButBells (s.signalBell_frame n.toNat [fld v 32 32])
  case other => rw [State.wake_bell, State.bell_signalBell_ne hm]

end Sys2Proof.Machine
end

section
/-! SUPPORT. The result slots (R261, R262): POST, the two reads, and the empty slots that a full load leaves. -/

namespace Sys2Proof.Machine

variable {s : State}

/-! ## NOP and POST -/

theorem exec_nop {q : BitVec 13} {x : Cmd × Option EntTag} (h : s.issuedTo q.toNat 0x00 = some x) :
    exec (.nop q) s = .next (s.acceptCmd q.toNat true) := by
  have he : exec (.nop q) s = .next (s.doNop q.toNat) := rfl
  rw [he, State.doNop, h]

theorem exec_post {q : BitVec 13} {c : Cmd} {tag : Option EntTag} (h : s.issuedTo q.toNat 0x01 = some (c, tag)) :
    exec (.post q) s = .next ((s.post (cSlot c) (word (cValue c)) q.toNat).acceptCmd q.toNat true) := by
  have he : exec (.post q) s = .next (s.doPost q.toNat) := rfl
  rw [he, State.doPost, h]

/-- A slot that holds a value is no default, so it reads back from any table. -/
theorem Tab.get_put_valid {t : Tab ResSlot} (k : Nat) {r : ResSlot} (hv : r.valid = true) : Tab.get (Tab.put t k r) k = r :=
  Tab.get_put_of_ne k fun h => by
    rw [h] at hv
    exact absurd hv (by decide)

/-! ## The slots after a full load -/

theorem foldl_slots {α : Type} (f : State → α → State) (h : ∀ s a, (f s a).slots = s.slots) (l : List α) (s : State) :
    (l.foldl f s).slots = s.slots :=
  List.foldlRecOn l f (motive := fun t => t.slots = s.slots) rfl fun t ht a _ => (h t a).trans ht

@[simp] theorem State.sendReq_slots (s : State) (r : MemReq) (b : Bool) : (s.sendReq r b).slots = s.slots := by
  unfold State.sendReq
  split <;> rfl

theorem pumpLoop_slots (n : Nat) (s : State) : (pumpLoop n s).slots = s.slots := by
  induction n generalizing s with
  | zero => rfl
  | succ n ih =>
    rw [pumpLoop]
    split
    · rfl
    · rw [ih, State.sendReq_slots]

@[simp] theorem State.fetchTile_slots (s : State) (rd : TileRd) : (s.fetchTile rd).slots = s.slots := pumpLoop_slots _ _

@[simp] theorem State.readRecords_slots (s : State) : s.readRecords.slots = s.slots := by
  unfold State.readRecords
  split
  · rfl
  · exact foldl_slots _ (fun _ _ => State.fetchTile_slots _ _) _ s

@[simp] theorem State.setMasks_slots (s : State) : s.setMasks.slots = s.slots := by
  unfold State.setMasks
  rfl

@[simp] theorem State.fenceLinks_slots (s : State) : s.fenceLinks.slots = s.slots := by
  unfold State.fenceLinks
  refine foldl_slots _ (fun s p => ?_) _ s
  dsimp only
  split <;> split <;> rfl

@[simp] theorem State.clearRegs_slots (s : State) : s.clearRegs.slots = s.slots := by
  unfold State.clearRegs
  extract_lets cleared counted
  have hcleared : cleared.slots = s.slots := foldl_slots _ (fun _ _ => State.setReg_slots _ _ _) _ s
  have hcounted : counted.slots = cleared.slots := foldl_slots _ (fun s i => by split <;> rfl) _ cleared
  rw [State.setF_slots, hcounted, hcleared]

theorem State.loadClear_slots (s : State) : s.loadClear.slots = [] := by
  unfold State.loadClear
  extract_lets
  rfl

theorem State.loadInstall_slots (s : State) (im : Image) (cycles : Nat) : (s.loadInstall im cycles).slots = s.slots := by
  unfold State.loadInstall
  extract_lets n begun load sec pwr installed traced tables serials timed
  have htables : tables.slots = s.slots := by
    rw [State.clearRegs_slots, State.fenceLinks_slots, State.setMasks_slots]
    rfl
  rw [State.readRecords_slots, State.logPlain_slots, State.setReg_slots, State.setReg_slots, State.setF_slots, State.setF_slots,
    htables]

theorem exec_fullLoadApply_done {im : Image} (cycles : BitVec 32) (h : s.load.verified = some im) :
    exec (.fullLoadApply cycles .done) s = .next (s.loadClear.loadInstall im cycles.toNat) := by
  have he : exec (.fullLoadApply cycles .done) s = .next (s.fullLoadApply cycles.toNat .done) := rfl
  rw [he]
  unfold State.fullLoadApply
  rw [h]

/-! ## The reads -/

theorem State.hostReads_resRead {slot : Nat} (hl : s.fullLoading = false) (hn : slot < limSlots s.part.set) (r : Word × State) :
    s.hostReads (s.resRead slot r) = r.2.emit (.hostResp r.1 false) := by
  rw [State.hostReads, hl, if_neg Bool.false_ne_true, State.resRead, if_pos hn, State.answer]

theorem exec_resStatusRead {slot : BitVec 12} (hl : s.fullLoading = false) (hn : slot.toNat < limSlots s.part.set) :
    exec (.resStatusRead slot) s =
      .next ((s.readResStatus slot.toNat).2.emit (.hostResp (s.readResStatus slot.toNat).1 false)) :=
  congrArg _ (State.hostReads_resRead hl hn _)

theorem exec_resTake {slot : BitVec 12} (hl : s.fullLoading = false) (hn : slot.toNat < limSlots s.part.set) :
    exec (.resTake slot) s = .next ((s.readResTake slot.toNat).2.emit (.hostResp (s.readResTake slot.toNat).1 false)) :=
  congrArg _ (State.hostReads_resRead hl hn _)

/-- Settles O16: POST and the reads are each one update of their slot, and a full load leaves no slot but the default. -/
theorem resultSlots : Obligations.ResultSlots := by
  refine ⟨⟨fun q c tag s h => exec_nop h, fun q c tag s h => ⟨exec_post h, Tab.get_put_valid _ rfl⟩, fun cycles im s h => ?load⟩,
    fun slot s hl hn => ⟨exec_resStatusRead hl hn, fun hv => ?taken, fun hv => ?empty⟩⟩
  case load =>
    refine ⟨_, exec_fullLoadApply_done cycles h, fun i => ?_⟩
    rw [State.loadInstall_slots, State.loadClear_slots, Tab.get_nil]
    rfl
  case taken =>
    rw [exec_resTake hl hn, State.readResTake, if_pos hv]
    rfl
  case empty =>
    rw [exec_resTake hl hn, State.readResTake, if_neg (by simp [hv])]
    rfl

end Sys2Proof.Machine
end

section
/-! SUPPORT. The timers of collectives (R310, R317 to R319): the collective that each concerns, what it does to that one, and
that it does nothing when there is none. -/

namespace Sys2Proof.Machine

variable {s : State} {group seq : Nat}

/-! ## The collective of a timer -/

/-- The collective is under way under this group and SEQ. -/
def Coll.underWay (group seq : Nat) (c : Coll) : Bool := c.issued && c.group == group && c.seq == seq

/-- The collective whose TIMEOUT_US timer is still to be told. -/
def State.untoldColl (s : State) (group seq : Nat) : Option Coll :=
  s.rcl.colls.find? fun c => c.underWay group seq && !c.timerSent

/-- The collective that has neither a notice nor a written result. -/
def State.unendedColl (s : State) (group seq : Nat) : Option Coll :=
  s.rcl.colls.find? fun c => c.underWay group seq && !c.noticed && !c.written

/-- The bucket whose admission this package, the leader of its tray, still keeps open under a deadline (R310). -/
def State.openTrayColl (s : State) (group seq : Nat) : Option Coll :=
  s.rcl.colls.find? fun c => c.bucket && c.issued && c.group == group && c.seq == seq && bDeadline c.cmd != 0
    && (c.lev 1).started && !(c.lev 1).closed && trayLeader (s.collMembers c.group) c.root s.ownCoord == s.ownCoord

/-! ## What each timer does to its collective -/

/-- The record of an abort that this form makes at a timer's end: its offender is a free value (log 1). -/
def State.timerRecord (s : State) (e : Ev) : AbortRec :=
  { code := e.code, off := s.draw16.1, form := 0, switch := false, det := s.ownCoord }

/-- The collective ends here with the event `e`. -/
def State.timerAborts (s : State) (e : Ev) (c : Coll) : State := s.draw16.2.collAborted c (s.timerRecord e) false

/-- The root hears of the timeout: it is this form, or a NOTICE of reason TIMEOUT goes to it (R317). -/
def State.timeoutToRoot (s : State) (c : Coll) : State :=
  let u := s.draw16.2.modColl c.key fun c => { c with timerSent := true }
  if u.isRootHead c.key then u.rootAbort c.key c.sig (s.timerRecord evCeTimeout)
  else u.sendColl c tNotice c.root 0 (default : CHdr) (leBytes 1 2 ++ leBytes 7 0)

/-- The packages of this tray that the bucket has not admitted. -/
def State.unadmitted (s : State) (c : Coll) : List Nat :=
  ((s.collMembers c.group).filter fun x => x / 8 == s.ownCoord / 8).filter fun d => !(c.lev 1).admitted.contains (d % 8)

/-- The admission of the bucket closed, with those packages excluded. -/
def State.trayClosed (s : State) (c : Coll) : State :=
  s.modColl c.key fun c' => c'.setLev { c.lev 1 with closed := true, excluded := (s.unadmitted c).map (· % 8) }

/-- One more late bucket, counted for gate slot 2 and in RCL_LATE (R311). -/
def State.lateCounted (s : State) : State :=
  ({ s with mkr := { s.mkr with gate2 := s.mkr.gate2 + 1 } } : State).incF aRclLate 48 16 1

/-- The excluded packages told, by the notice LATE of R312, and what is whole then sent up. -/
def State.excludedTold (s : State) (c : Coll) : State :=
  ((s.unadmitted c).foldl (fun t d =>
    if d = s.ownCoord then t.lateNotice c.key c.sig
    else t.sendColl c tNotice d 0 (default : CHdr) (leBytes 1 1 ++ leBytes 7 0)) (s.trayClosed c).lateCounted).chunksUp c.key 1

/-- TIMEOUT_US has passed: below level 3 the collective ends here, at level 3 the root decides. -/
def State.timedOut (s : State) (c : Coll) : State :=
  if s.level ≠ 3 then s.timerAborts evCeTimeout c else s.timeoutToRoot c

/-- DEADLINE_US has passed: only the head form keeps an admission. -/
def State.deadlinePassed (s : State) (c : Coll) : State :=
  if !s.head then s else if (s.unadmitted c).isEmpty then s.trayClosed c else s.excludedTold c

theorem State.collTimeout_eq_elim : s.collTimeout group seq = (s.untoldColl group seq).elim s s.timedOut := by
  unfold State.collTimeout State.untoldColl Coll.underWay
  cases s.rcl.colls.find? _ <;> rfl

theorem State.collLost_eq_elim :
    s.collLost group seq = (s.unendedColl group seq).elim s (s.timerAborts evCeMemberLost) := by
  unfold State.collLost State.unendedColl Coll.underWay
  cases s.rcl.colls.find? _ <;> rfl

theorem State.bucketDeadline_eq_elim :
    s.bucketDeadline group seq = (s.openTrayColl group seq).elim s s.deadlinePassed := by
  unfold State.bucketDeadline State.openTrayColl
  cases s.rcl.colls.find? _ <;> rfl

/-! ## No collective under way -/

section
variable (h : ∀ c ∈ s.rcl.colls, c.underWay group seq = false)
include h

/-- A search that asks for the collective under way, whatever else it asks, finds none. -/
theorem State.find?_colls_eq_none {p : Coll → Bool} (hp : ∀ c, p c = true → c.underWay group seq = true) :
    s.rcl.colls.find? p = none :=
  List.find?_eq_none.mpr fun c hc hpc => by simpa [h c hc] using hp c hpc

theorem State.untoldColl_eq_none : s.untoldColl group seq = none :=
  State.find?_colls_eq_none h fun c hc => by
    simp only [Bool.and_eq_true] at hc
    exact hc.1

theorem State.unendedColl_eq_none : s.unendedColl group seq = none :=
  State.find?_colls_eq_none h fun c hc => by
    simp only [Bool.and_eq_true] at hc
    exact hc.1.1

theorem State.openTrayColl_eq_none : s.openTrayColl group seq = none :=
  State.find?_colls_eq_none h fun c hc => by
    simp only [Bool.and_eq_true] at hc
    simp only [Coll.underWay, hc, Bool.and_true]

end

/-! ## The commands -/

theorem exec_collectiveTimeout (g : BitVec 12) (q : BitVec 32) :
    exec (.collectiveTimeout g q) s = .next (s.collTimeout g.toNat q.toNat).wake.settle := rfl

theorem exec_collectiveLostTimeout (g : BitVec 12) (q : BitVec 32) :
    exec (.collectiveLostTimeout g q) s = .next (s.collLost g.toNat q.toNat).wake.settle := rfl

theorem exec_bucketDeadline (g : BitVec 12) (q : BitVec 32) :
    exec (.bucketDeadline g q) s = .next (s.bucketDeadline g.toNat q.toNat).wake.settle := rfl

/-- Settles O51: each command looks for the collective of its timer; it does to the one it finds what the timer's equation
says, and nothing when none is under way. -/
theorem collectiveTimersEnd : Obligations.CollectiveTimersEnd := by
  refine fun g q s => ⟨fun c (hc : s.untoldColl g.toNat q.toNat = some c) => ⟨fun hl => ?below, fun hl => ?atLevel3⟩,
    fun c (hc : s.unendedColl g.toNat q.toNat = some c) => ?lost,
    fun c (hc : s.openTrayColl g.toNat q.toNat = some c) hd => ⟨fun hgone => ?allAdmitted, fun hgone => ?someGone⟩,
    fun h => ⟨?timeoutIdle, ?lostIdle, ?deadlineIdle⟩⟩
  case below =>
    rw [exec_collectiveTimeout, State.collTimeout_eq_elim, hc, Option.elim_some, State.timedOut, if_pos hl]
    rfl
  case atLevel3 =>
    rw [exec_collectiveTimeout, State.collTimeout_eq_elim, hc, Option.elim_some, State.timedOut, if_neg (not_not.mpr hl)]
    rfl
  case lost =>
    rw [exec_collectiveLostTimeout, State.collLost_eq_elim, hc]
    rfl
  case allAdmitted =>
    have hempty : (s.unadmitted c).isEmpty = true := List.isEmpty_iff.mpr hgone
    rw [exec_bucketDeadline, State.bucketDeadline_eq_elim, hc, Option.elim_some, State.deadlinePassed, if_neg (by simp [hd]),
      if_pos hempty]
    rfl
  case someGone =>
    have hempty : ¬ (s.unadmitted c).isEmpty = true := fun he => hgone (List.isEmpty_iff.mp he)
    rw [exec_bucketDeadline, State.bucketDeadline_eq_elim, hc, Option.elim_some, State.deadlinePassed, if_neg (by simp [hd]),
      if_neg hempty]
    rfl
  case timeoutIdle => rw [exec_collectiveTimeout, State.collTimeout_eq_elim, State.untoldColl_eq_none h, Option.elim_none]
  case lostIdle => rw [exec_collectiveLostTimeout, State.collLost_eq_elim, State.unendedColl_eq_none h, Option.elim_none]
  case deadlineIdle => rw [exec_bucketDeadline, State.bucketDeadline_eq_elim, State.openTrayColl_eq_none h, Option.elim_none]

end Sys2Proof.Machine
end

section
/-! SUPPORT. What every part of a command leaves alone: the waiting commands, the canonical form of the cloakroom and, for a part
that does not write it, the cloakroom itself. One lemma per function of the model that gives a state, in the model's order: each
follows the branches of its function through the lemmas of the functions that it calls. -/

namespace Sys2Proof.Machine

/-- What a part of a command leaves of the state: the waiting commands and the form's part are those of `s`; the cloakroom is canonical
when that of `s` is and, unless `w`, the very same. -/
structure State.Frame (w : Prop) (s t : State) : Prop where
  pending : t.pending = s.pending
  t0 : w ∨ t.t0 = s.t0
  part : t.part = s.part
  memOk : s.memOk → t.memOk

/-- The state that the checks of a received frame leave. -/
def RxRes.state : RxRes → State
  | .drop u => u
  | .got _ _ u => u

namespace State.Frame
variable {w : Prop} {s t u : State}

protected theorem rfl : Frame w s s := ⟨Eq.refl _, .inr (Eq.refl _), Eq.refl _, id⟩

theorem trans (h : Frame w s t) (h' : Frame w t u) : Frame w s u where
  pending := h'.pending.trans h.pending
  t0 := h'.t0.elim .inl fun e' => h.t0.imp_right fun e => e'.trans e
  part := h'.part.trans h.part
  memOk := h'.memOk ∘ h.memOk

theorem ite {c : Prop} {_ : Decidable c} (h : Frame w s t) (h' : Frame w s u) : Frame w s (if c then t else u) := by
  split
  exacts [h, h']

theorem foldl {α : Type} {f : State → α → State} {l : List α} (h : Frame w s t) (hf : ∀ u a, Frame w s u → Frame w s (f u a)) :
    Frame w s (l.foldl f t) :=
  List.foldlRecOn l f (motive := Frame w s) h fun u hu a _ => hf u a hu

theorem upd {pins hall regs stepCtr level t0Poison syl load bells asms ques flights slots sync tut lkrs pln mem stms crs crsEng eng bnc mkr
    fab rcl err sec rst exp ckp pwr tap out free} (h : Frame w s t) :
    Frame w s ⟨t.part, pins, hall, regs, stepCtr, level, t.t0, t0Poison, syl, load, bells, asms, ques, flights, slots, sync, tut, lkrs, pln, mem,
      stms, crs, crsEng, eng, bnc, mkr, fab, rcl, err, sec, rst, exp, ckp, pwr, tap, out, free, t.pending⟩ := ⟨h.pending, h.t0, h.part, h.memOk⟩
theorem getD {o : Option State} (ho : ∀ u, o = some u → Frame w s u) (h : Frame w s t) : Frame w s (o.getD t) := by
  cases o with
  | none => exact h
  | some u => exact ho u (Eq.refl _)

theorem fst {α : Type} {p : State × α} {a : α} (h : Frame w s p.1) (e : p = (u, a)) : Frame w s u := by rwa [e] at h
theorem snd {α : Type} {p : α × State} {a : α} (h : Frame w s p.2) (e : p = (a, u)) : Frame w s u := by rwa [e] at h

theorem iteSnd {α : Type} {c : Prop} {_ : Decidable c} {p q : α × State} (h : Frame w s p.2) (h' : Frame w s q.2) :
    Frame w s (if c then p else q).2 := by
  split
  exacts [h, h']

theorem iteMk {α : Type} {c : Prop} {_ : Decidable c} {a b : α} (h : Frame w s t) (h' : Frame w s u) :
    Frame w s (if c then (a, t) else (b, u)).2 := by
  split
  exacts [h, h']

theorem pair {α : Type} {a : α} (h : Frame w s t) : Frame w s (a, t).2 := h

theorem pairFst {α : Type} {a : α} (h : Frame w s t) : Frame w s (t, a).1 := h

/-! ## The named operations over the register table, the event registers and the error log -/

theorem setReg {a1 v} (h : Frame w s t) : Frame w s (t.setReg a1 v) :=
  h.upd

theorem setF {a1 lo len v} (h : Frame w s t) : Frame w s (t.setF a1 lo len v) :=
  h.setReg

theorem incF {a1 lo len n} (h : Frame w s t) : Frame w s (t.incF a1 lo len n) :=
  h.setF

theorem logEntry {unit code detail} (h : Frame w s t) : Frame w s (t.logEntry unit code detail) := by
  unfold State.logEntry
  extract_lets a b nx s1 s2
  have hs2 : Frame w s s2 := h.setReg.setReg.incF.setF
  exact .ite hs2.setReg.setReg.upd hs2

theorem setEvBit {u1 i} (h : Frame w s t) : Frame w s (t.setEvBit u1 i) := by
  unfold State.setEvBit
  split
  · exact h
  · exact h.setReg

theorem evSet {e} (h : Frame w s t) : Frame w s (t.evSet e) := by
  unfold State.evSet
  split
  · exact h
  · exact h.setEvBit

theorem logEv {e low} (h : Frame w s t) : Frame w s (t.logEv e low) := by
  unfold State.logEv
  extract_lets u u1
  have hu : Frame w s u := by
    unfold u
    split
    · exact h
    · exact h.setReg
  exact hu.evSet.logEntry

theorem logPlain {e} (h : Frame w s t) : Frame w s (t.logPlain e) :=
  h.evSet.logEntry

theorem draw (h : Frame w s t) : Frame w s t.draw.2 :=
  h.upd

theorem drawBytes {n} (h : Frame w s t) : Frame w s (t.drawBytes n).2 :=
  h.upd

theorem drawKey (h : Frame w s t) : Frame w s t.drawKey.2 :=
  h.upd

theorem emit {o} (h : Frame w s t) : Frame w s (t.emit o) :=
  h.upd

theorem hostWrites {u} (h : Frame w s t) (h' : Frame w s u) : Frame w s (t.hostWrites u) :=
  .ite h.logEv h'

theorem hostReads {u} (h : Frame w s t) (h' : Frame w s u) : Frame w s (t.hostReads u) :=
  .ite h.emit h'

theorem t0Write {a1 bs} (h : Frame True s t) :
    Frame True s (t.t0Write a1 bs) := ⟨h.pending, .inl trivial, h.part, fun hs => Tab.wf_putBytes _ _ (h.memOk hs)⟩

/-! ## Bells and assemblies -/

theorem wake (h : Frame w s t) : Frame w s t.wake := by
  unfold State.wake
  exact .ite h h.upd

theorem takeStep (h : Frame w s t) : Frame w s t.takeStep := by
  unfold State.takeStep
  split
  · exact h
  · exact h.upd

theorem changeStep (h : Frame w s t) : Frame w s t.changeStep := by
  unfold State.changeStep
  exact .ite h (.ite h.takeStep h.upd)

theorem setBell {n v} (h : Frame w s t) : Frame w s (t.setBell n v) :=
  h.upd

theorem signalBell {n vs} (h : Frame w s t) : Frame w s (t.signalBell n vs) := by
  unfold State.signalBell
  extract_lets v k u sum
  have hu : Frame w s u := h.setBell
  exact .ite (.ite h (.ite hu.logEv hu)) (.ite h (.ite h.setBell.logEv h.setBell))

theorem signalAll {sigs} (h : Frame w s t) : Frame w s (t.signalAll sigs) :=
  (h.foldl fun _ _ h1 => h1.signalBell).wake

theorem rebasePair {p} (h : Frame w s t) : Frame w s (t.rebasePair p) :=
  h.setBell.setBell

theorem rebase (h : Frame w s t) : Frame w s t.rebase :=
  h.foldl fun _ _ h1 => h1.rebasePair

theorem setAsm {n a2} (h : Frame w s t) : Frame w s (t.setAsm n a2) :=
  h.upd

theorem unhold {q} (h : Frame w s t) : Frame w s (t.unhold q) :=
  h.upd

theorem testAsm {n} (h : Frame w s t) : Frame w s (t.testAsm n) := by
  unfold State.testAsm
  extract_lets a b u more src
  have hu : Frame w s u := h.setAsm
  exact .ite (.ite hu.upd hu) h

theorem arrive {n p sn q} (h : Frame w s t) : Frame w s (t.arrive n p sn q).1 := by
  unfold State.arrive
  extract_lets a
  split
  · exact pairFst h.logEv
  split
  · exact pairFst h.setAsm
  split
  · exact pairFst h.logEv
  · exact pairFst h.setAsm

theorem admitHeld {n sn} (h : Frame w s t) : Frame w s (t.admitHeld n sn) :=
  h.setAsm.foldl fun _ _ h1 => h1.arrive.unhold

theorem release {n p sn} (h : Frame w s t) : Frame w s (t.release n p sn) := by
  unfold State.release
  exact .ite h.setAsm.admitHeld.testAsm h.setAsm

theorem writeMask {n v} (h : Frame w s t) : Frame w s (t.writeMask n v) := by
  unfold State.writeMask
  exact .ite h (.ite h.logEv h.setAsm)

theorem tryWait {kind obj val u} (h : Frame w s t) (e : t.tryWait kind obj val = some u) : Frame w s u := by
  unfold State.tryWait at e
  split at e
  · cases e
    exact h
  · split at e
    · cases e
      exact h.setBell
    · cases e
  · split at e
    · cases e
      exact h
    · cases e
  · split at e
    · cases e
      exact h.release
    · cases e

theorem tryWaits {c u} (h : Frame w s t) (e : t.tryWaits c = some u) : Frame w s u := by
  unfold State.tryWaits at e
  dsimp only at e
  split at e
  · cases e
  · exact (h.tryWait ‹_›).tryWait e

theorem arriveAll {arr} (h : Frame w s t) : Frame w s (t.arriveAll arr) :=
  (h.foldl fun _ _ h1 => .ite h1.arrive.upd h1.arrive).foldl fun _ _ h1 => h1.testAsm

/-! ## Queues -/

theorem modQue {q f} (h : Frame w s t) : Frame w s (t.modQue q f) :=
  h.upd

theorem advance {q} (h : Frame w s t) : Frame w s (t.advance q) :=
  h.modQue.upd

theorem append {q c tag} (h : Frame True s t) : Frame True s (t.append q c tag) :=
  h.t0Write.modQue

theorem haltQueue {q code} (h : Frame w s t) : Frame w s (t.haltQueue q code) := by
  unfold State.haltQueue
  exact h.modQue.upd.setEvBit

theorem stopQueue {q code} (h : Frame w s t) : Frame w s (t.stopQueue q code) := by
  unfold State.stopQueue
  exact .ite h.modQue h.haltQueue

theorem refuseHead {q obj} (h : Frame w s t) : Frame w s (t.refuseHead q obj) :=
  h.logEv.stopQueue

theorem boundaryHalt {q} (h : Frame w s t) : Frame w s (t.boundaryHalt q) := by
  unfold State.boundaryHalt
  exact .ite h.modQue h

theorem acceptCmd {q done} (h : Frame w s t) : Frame w s (t.acceptCmd q done) := by
  unfold State.acceptCmd
  split
  · exact h
  · exact (Frame.ite h.advance.modQue (.ite h.modQue h.advance.modQue)).upd

theorem finish {q p} (h : Frame w s t) : Frame w s (t.finish q p) :=
  h.upd

theorem failFlight {q code p} (h : Frame w s t) : Frame w s (t.failFlight q code p) := by
  unfold State.failFlight
  split
  · exact h
  · extract_lets s1
    have hs1 : Frame w s s1 := h.upd
    exact .ite hs1 hs1.modQue.haltQueue

theorem noteTaken {tag} (h : Frame w s t) : Frame w s (t.noteTaken tag) := by
  unfold State.noteTaken
  split
  · exact h
  · exact h.upd

theorem beginWait {q} (h : Frame w s t) : Frame w s (t.beginWait q) := by
  unfold State.beginWait
  extract_lets s1
  have hs1 : Frame w s s1 := h.modQue
  exact .ite hs1 hs1.upd

theorem markIssued {q} (h : Frame w s t) : Frame w s (t.markIssued q) :=
  h.modQue.upd

theorem push {q} (h : Frame True s t) : Frame True s (t.push q) := by
  unfold State.push
  exact .ite h.logEv (.ite h.logEv h.append.wake)

theorem queResume {q} (h : Frame w s t) : Frame w s (t.queResume q) := by
  unfold State.queResume
  exact .ite h.modQue h.logEv

theorem queSkip {q} (h : Frame w s t) : Frame w s (t.queSkip q) := by
  unfold State.queSkip
  exact .ite ((Frame.ite h (.ite h h.advance)).modQue) h.logEv

theorem queFlush {q} (h : Frame w s t) : Frame w s (t.queFlush q) := by
  unfold State.queFlush
  split
  · exact h.logEv
  · exact h.modQue

theorem queHalt {q} (h : Frame w s t) : Frame w s (t.queHalt q) := by
  unfold State.queHalt
  exact .ite h.upd.modQue.boundaryHalt h.logEv

theorem queRun {q} (h : Frame w s t) : Frame w s (t.queRun q) := by
  unfold State.queRun
  exact .ite h.modQue h.logEv

theorem writeQueCtrl {q v} (h : Frame w s t) : Frame w s (t.writeQueCtrl q v) := by
  unfold State.writeQueCtrl
  split
  · exact h
  · exact h.queResume
  · exact h.queSkip
  · exact h.queHalt
  · exact h.queRun
  · exact h.queFlush
  · exact h.logEv

/-! ## The exponent code -/

theorem inc64 {a1 n} (h : Frame w s t) : Frame w s (t.inc64 a1 n) :=
  h.incF

theorem compress {port fmt nocode pay} (h : Frame w s t) : Frame w s (t.compress port fmt nocode pay).2 := by
  unfold State.compress
  split
  · exact h
  · extract_lets u raw r
    have hu : Frame w s u := h.inc64
    have hraw : Frame w s raw := hu.inc64.incF
    split
    · exact hraw
    · split
      · exact hraw
      · exact hu.inc64.incF

theorem codeFail {port step len hdr} (h : Frame w s t) : Frame w s (t.codeFail port step len hdr) :=
  h.logEv.setReg

theorem expand {port hdr pay pass} (h : Frame w s t) : Frame w s (t.expand port hdr pay pass).2 := by
  unfold State.expand
  extract_lets fmt
  split
  · exact h.codeFail
  · split
    · exact h.incF
    · exact h.incF

/-! ## The memory ports and the far port -/

theorem sendReq {r retried} (h : Frame w s t) : Frame w s (t.sendReq r retried) := by
  unfold State.sendReq
  split
  · exact h
  · exact h.upd.emit

theorem pumpLoop {n : Nat} (h : Frame w s t) : Frame w s (pumpLoop n t) := by
  induction n generalizing t with
  | zero => exact h
  | succ n ih =>
    rw [Machine.pumpLoop]
    split
    · exact h
    · exact ih h.upd.sendReq

theorem pump (h : Frame w s t) : Frame w s t.pump :=
  h.pumpLoop

theorem startJob {kind f} (h : Frame w s t) : Frame w s (t.startJob kind f) :=
  h.upd.pump

theorem moreReqs {j rs} (h : Frame w s t) : Frame w s (t.moreReqs j rs) :=
  h.upd.pump

theorem dropJobs {p} (h : Frame w s t) : Frame w s (t.dropJobs p) :=
  h.upd

/-! ## Stream contexts and couriers as the other units see them -/

theorem setStm {c x} (h : Frame w s t) : Frame w s (t.setStm c x) :=
  h.upd

theorem modStm {c f} (h : Frame w s t) : Frame w s (t.modStm c f) :=
  h.setStm

theorem failCtxFlights {c code} (h : Frame w s t) : Frame w s (t.failCtxFlights c code) :=
  h.foldl fun _ _ h1 => h1.failFlight

theorem freeCells {p vc n} (h : Frame w s t) : Frame w s (t.freeCells p vc n) := by
  unfold State.freeCells
  exact .ite h h.upd

theorem closeConns {c} (h : Frame w s t) : Frame w s (t.closeConns c) :=
  h.freeCells.upd

theorem dropCtxWork {c} (h : Frame w s t) : Frame w s (t.dropCtxWork c) := by
  unfold State.dropCtxWork
  exact h.dropJobs.upd.closeConns.modStm

theorem haltWith {c code kind entry} (h : Frame w s t) : Frame w s (t.haltWith c code kind entry) := by
  unfold State.haltWith
  exact h.failCtxFlights.dropCtxWork.modStm

theorem haltCtx {c e kind entry form} (h : Frame w s t) : Frame w s (t.haltCtx c e kind entry form) :=
  h.logEv.haltWith

theorem idleCtx {c} (h : Frame w s t) : Frame w s (t.idleCtx c) :=
  h.dropCtxWork.modStm

theorem setCr {k x} (h : Frame w s t) : Frame w s (t.setCr k x) :=
  h.upd

theorem modCr {k f} (h : Frame w s t) : Frame w s (t.modCr k f) :=
  h.setCr

theorem failCrFlight {k code} (h : Frame w s t) : Frame w s (t.failCrFlight k code) := by
  unfold State.failCrFlight
  split
  · exact h
  · exact h.failFlight.modCr

theorem idleCr {k} (h : Frame w s t) : Frame w s (t.idleCr k) := by
  unfold State.idleCr
  exact (Frame.ite h.upd h).dropJobs.modCr

/-! ## Links -/

theorem setFlink {p l} (h : Frame w s t) : Frame w s (t.setFlink p l) :=
  h.upd

theorem modFlink {p f} (h : Frame w s t) : Frame w s (t.modFlink p f) :=
  h.setFlink

theorem sendPlain {p typ da pay} (h : Frame w s t) : Frame w s (t.sendPlain p typ da pay) :=
  h.emit

theorem enqueue {p h2 pay} (h : Frame w s t) : Frame w s (t.enqueue p h2 pay) :=
  h.modFlink

theorem sendTo {typ vc dst dform ep pay last mcast msg port u} (h : Frame w s t)
    (e : t.sendTo typ vc dst dform ep pay last mcast msg port = some u) : Frame w s u := by
  unfold State.sendTo at e
  dsimp only at e
  split at e
  · cases e
  · cases e
    exact h.enqueue

theorem sendLossy {typ vc dst dform ep pay} (h : Frame w s t) : Frame w s (t.sendLossy typ vc dst dform ep pay) :=
  .getD (fun _ => h.sendTo) h

theorem haltPort {p} (h : Frame w s t) : Frame w s (t.haltPort p) :=
  h.foldl fun _ _ h1 => .ite h1.haltCtx h1

theorem leaveUp {p st cause} (h : Frame w s t) : Frame w s (t.leaveUp p st cause) := by
  unfold State.leaveUp
  extract_lets up u u1 src u2
  have hu : Frame w s u := .ite h.logEv.incF h
  exact (Frame.ite hu.haltPort hu).upd.modFlink

theorem sendLink {p} (h : Frame w s t) : Frame w s (t.sendLink p) := by
  unfold State.sendLink
  exact h.emit.modFlink

theorem sendLinks {a1 a2} (h : Frame w s t) : Frame w s (t.sendLinks a1 a2) := by
  induction a1 generalizing t a2 with
  | zero => exact h
  | succ a1 ih =>
    rw [State.sendLinks]
    exact ih h.sendLink

theorem addNak {p kind reason lsn} (h : Frame w s t) : Frame w s (t.addNak p kind reason lsn) :=
  h.modFlink

theorem violation {p reason kind nakLsn h5 lsnKnown} (h : Frame w s t) : Frame w s (t.violation p reason kind nakLsn h5 lsnKnown) := by
  unfold State.violation
  extract_lets q u nx a b u1 up src u2 u3 u4 u5 u6 u7 u8 w1
  have hu3 : Frame w s u3 := h.logEv.setReg.setReg.upd.incF.setF
  have hu4 : Frame w s u4 := .ite hu3 hu3.incF.incF
  have hu6 : Frame w s u6 := (Frame.ite hu4 hu4.addNak).modFlink
  exact .ite (Frame.ite hu6 hu6.sendLinks).logEv.haltPort.modFlink hu6

theorem resend {p h2 sat} (h : Frame w s t) : Frame w s (t.resend p h2 sat) :=
  h.foldl fun _ _ h1 => h1.enqueue

theorem satForPort {p sat} (h : Frame w s t) : Frame w s (t.satForPort p sat).2 := by
  unfold State.satForPort
  extract_lets h1 r h2
  split
  · exact h
  · split
    · exact h.compress
    · exact h.compress

theorem satExpanded {p pass sat} (h : Frame w s t) : Frame w s (t.satExpanded p pass sat).2 := by
  unfold State.satExpanded
  extract_lets hb h1
  split
  · exact h
  · split
    · exact (h.expand.snd ‹_›)
    · exact (h.expand.snd ‹_›)

theorem relay {i hd pay} (h : Frame w s t) : Frame w s (t.relay i hd pay) := by
  unfold State.relay
  split
  · exact h
  rename_i p _
  refine .ite h.enqueue ?_
  extract_lets sat u v r
  have hv : Frame w s v := h.upd
  refine .ite h.upd ?_
  have hr : Frame w s (if isFed i then (some r.1, r.2) else v.satExpanded i false sat).2 :=
    iteSnd (pair hv.satForPort) hv.satExpanded
  split
  · exact hr.snd ‹_›
  · exact (hr.snd ‹_›).resend

theorem rxIte {c : Prop} {_ : Decidable c} {x y : RxRes} (hx : Frame w s x.state) (hy : Frame w s y.state) :
    Frame w s (if c then x else y : RxRes).state := by
  split
  exacts [hx, hy]
theorem receive {p f bad} (h : Frame w s t) : Frame w s (t.receive p f bad).state := by
  unfold State.receive
  have hd : ∀ {u}, Frame w s u → Frame w s (RxRes.drop u).state := id
  have hg : ∀ {u a b}, Frame w s u → Frame w s (RxRes.got a b u).state := id
  refine rxIte (hd h) (rxIte (hd ?_) ?_)
  · exact .ite (Frame.addNak (.ite h h.incF)) (.ite h h.incF)
  refine rxIte (hd h.violation) (rxIte (hd h.violation) (rxIte (hd h.violation) (rxIte
    (rxIte (hg h) (hd h.violation)) (rxIte (hd h.violation) ?_))))
  split
  · exact hd h.violation
  dsimp only
  split
  · exact hd h.violation
  refine rxIte (rxIte (hd h) (rxIte (hd h.violation) (hg h.modFlink))) (rxIte (hd h) (rxIte (hd ?_) (rxIte (hd h.violation) ?_)))
  · exact .ite h h.addNak.modFlink
  have hm := fun g => h.modFlink (p := p) (f := g)
  exact rxIte (hd (hm _).freeCells.violation) (rxIte (hd (hm _).freeCells.violation) (rxIte (hd (hm _).freeCells.violation)
    (rxIte (hd (hm _).freeCells.relay) (rxIte (hd (hm _).freeCells.violation) (rxIte (hd (hm _).freeCells.violation) (hg (hm _)))))))

theorem transmit {p lsn tries len f} (h : Frame w s t) : Frame w s (t.transmit p lsn tries len f) := by
  unfold State.transmit
  extract_lets inj held
  split
  · exact h.modFlink
  · extract_lets s1
    have hs1 : Frame w s s1 := .ite h h.emit
    exact .ite hs1 ((hs1.foldl fun _ _ h1 => h1.emit).modFlink)

theorem frameSend {p} (h : Frame w s t) : Frame w s (t.frameSend p) := by
  unfold State.frameSend
  extract_lets l
  refine .ite h ?_
  split
  · exact h.setFlink
  · exact .ite h h.setFlink.transmit

theorem reorderTimeout {p} (h : Frame w s t) : Frame w s (t.reorderTimeout p) := by
  unfold State.reorderTimeout
  split
  · exact h
  · exact (h.foldl fun _ _ h1 => h1.emit).modFlink

theorem replayFrom {p lsn} (h : Frame w s t) : Frame w s (t.replayFrom p lsn).1 := by
  unfold State.replayFrom
  extract_lets l again u v x
  have hu : Frame w s u := h.foldl fun _ _ h1 => h1.transmit
  have hv : Frame w s v := .ite hu hu.incF
  exact pairFst hv.modFlink

theorem applyLink {p pay} (h : Frame w s t) : Frame w s (t.applyLink p pay).1 := by
  unfold State.applyLink
  extract_lets ack kind u u1 u2
  have hu : Frame w s u := h.modFlink
  have hu1 : Frame w s u1 := hu.logEv
  have hu2 : Frame w s u2 := .ite (.ite hu1 hu1.incF) hu
  split
  · exact hu2.replayFrom
  · exact hu2

theorem helloTimer {p} (h : Frame w s t) : Frame w s (t.helloTimer p) := by
  unfold State.helloTimer
  exact .ite h.sendPlain h

theorem helloIn {p sa pay} (h : Frame w s t) : Frame w s (t.helloIn p sa pay) := by
  unfold State.helloIn
  extract_lets l u u1
  have hu : Frame w s u := h.modFlink
  exact .ite (.ite hu.sendPlain.modFlink hu) (.ite h.modFlink h)

theorem makeOffer {p idx} (h : Frame w s t) : Frame w s (t.makeOffer p idx) := by
  unfold State.makeOffer
  exact h.upd.upd.upd.modFlink

theorem rosterFail {p detail coord} (h : Frame w s t) : Frame w s (t.rosterFail p detail coord) := by
  unfold State.rosterFail
  extract_lets u u1 src u2
  have hu1 : Frame w s u1 := h.logEv.incF
  exact (Frame.ite hu1.upd hu1).leaveUp.modFlink

theorem sendConfirm {p} (h : Frame w s t) : Frame w s (t.sendConfirm p) := by
  unfold State.sendConfirm
  extract_lets l
  split
  · refine .ite h ?_
    generalize linkKeys _ _ _ = ks
    split
    extract_lets pay
    clear_value pay
    exact h.sendPlain.modFlink
  · exact h

theorem installKeys {p} (h : Frame w s t) : Frame w s (t.installKeys p) := by
  unfold State.installKeys
  extract_lets l cred u ok src u1
  have hu1 : Frame w s u1 := h.modFlink.upd
  exact .ite hu1.modFlink hu1

theorem keyIn {p pay} (h : Frame w s t) : Frame w s (t.keyIn p pay) := by
  unfold State.keyIn
  generalize linkKeys = lk, confirmVal = cv
  as_aux_lemma =>
    extract_lets l idx
    refine .ite h (.ite (.ite h ?_) (.ite ?_ h))
    · split
      · exact h.rosterFail
      · exact (Frame.ite h h.makeOffer).modFlink.sendPlain.sendConfirm
    · split
      · exact .ite h.rosterFail h.installKeys
      · exact h

theorem offerTimer {p} (h : Frame w s t) : Frame w s (t.offerTimer p) := by
  unfold State.offerTimer
  exact .ite (Frame.ite h h.makeOffer).sendPlain h

theorem keyRenewal {p} (h : Frame w s t) : Frame w s (t.keyRenewal p) := by
  unfold State.keyRenewal
  exact .ite h.makeOffer.modFlink.sendPlain h

theorem rosterRetry {p} (h : Frame w s t) : Frame w s (t.rosterRetry p) := by
  unfold State.rosterRetry
  exact .ite h.modFlink h

theorem pcsAlign {p} (h : Frame w s t) : Frame w s (t.pcsAlign p) := by
  unfold State.pcsAlign
  refine .ite h ?_
  extract_lets s1
  have hs1 : Frame w s s1 := h.modFlink
  exact .ite hs1.modFlink hs1

theorem linkTrained {p} (h : Frame w s t) : Frame w s (t.linkTrained p) := by
  unfold State.linkTrained
  exact .ite h.modFlink h

theorem fabRelease {p} (h : Frame w s t) : Frame w s (t.fabRelease p) := by
  unfold State.fabRelease
  exact .ite ((Frame.ite h h.setF).modFlink) h

theorem violWindow {p} (h : Frame w s t) : Frame w s (t.violWindow p) := by
  unfold State.violWindow
  exact (Frame.ite h h.setF).modFlink

/-! ## The locker directory -/

theorem setLkr {l x} (h : Frame w s t) : Frame w s (t.setLkr l x) :=
  h.upd

theorem modLkr {l f} (h : Frame w s t) : Frame w s (t.modLkr l f) :=
  h.setLkr

theorem modEnt {l f} (h : Frame w s t) : Frame w s (t.modEnt l f) :=
  h.modLkr

theorem noteHigh (h : Frame w s t) : Frame w s t.noteHigh := by
  unfold State.noteHigh
  exact .ite h.setF h

theorem takeEpoch (h : Frame w s t) : Frame w s t.takeEpoch.2 :=
  h.setReg

theorem shareLeaves {far n} (h : Frame w s t) : Frame w s (t.shareLeaves far n) :=
  h.setReg

theorem dropShares {l} (h : Frame w s t) : Frame w s (t.dropShares l) := by
  unfold State.dropShares
  exact .ite h h.shareLeaves.modLkr

theorem failReads {l} (h : Frame w s t) : Frame w s (t.failReads l) :=
  h.foldl fun _ _ h1 => h1.haltCtx

theorem freeSlots {l} (h : Frame w s t) : Frame w s (t.freeSlots l) :=
  h.modLkr

theorem freeLkr {l} (h : Frame w s t) : Frame w s (t.freeLkr l) :=
  h.dropShares.freeSlots.modLkr.failReads

theorem settleLkr {l} (h : Frame w s t) : Frame w s (t.settleLkr l) := by
  unfold State.settleLkr
  exact .ite h (.ite h.freeLkr (.ite h.freeSlots h))

theorem stopRecov {l} (h : Frame w s t) : Frame w s (t.stopRecov l) :=
  h.upd

theorem detachJobs {l reads} (h : Frame w s t) : Frame w s (t.detachJobs l reads) := by
  unfold State.detachJobs
  extract_lets drops issued still free gone src u lost u1
  have hu1 : Frame w s u1 := by
    refine h.upd.foldl fun u2 x h1 => ?_
    · split
      · exact .ite h1 h1.shareLeaves
      · exact h1
  exact hu1.dropJobs

theorem releaseLkr {l} (h : Frame w s t) : Frame w s (t.releaseLkr l) := by
  unfold State.releaseLkr
  extract_lets u e produced u1
  have hu : Frame w s u := h.stopRecov
  exact (Frame.ite hu.detachJobs.dropShares hu).modLkr.settleLkr

theorem abortLkr {l} (h : Frame w s t) : Frame w s (t.abortLkr l) :=
  h.detachJobs.upd.freeLkr

theorem refuseLkr {q e l tier} (h : Frame w s t) : Frame w s (t.refuseLkr q e l tier) := by
  unfold State.refuseLkr
  extract_lets u u1
  have hu : Frame w s u := h.logEv
  exact (Frame.ite hu.incF (.ite hu.incF hu)).stopQueue

theorem enterRecalled {l} (h : Frame w s t) : Frame w s (t.enterRecalled l) :=
  h.modEnt.signalAll

theorem beginRecompute {l} (h : Frame w s t) : Frame w s (t.beginRecompute l) :=
  h.upd

theorem startMove {l tier f isRecall recompute} (h : Frame w s t) : Frame w s (t.startMove l tier f isRecall recompute) := by
  unfold State.startMove
  exact (Frame.ite h.setReg.beginRecompute h.setReg).modLkr

theorem applyRecall {l tier u} (h : Frame w s t) (e : t.applyRecall l tier = some u) : Frame w s u := by
  unfold State.applyRecall at e
  dsimp only at e
  split at e
  · cases e
    exact h.enterRecalled
  · split at e
    · cases e
    · cases e
      exact h.startMove

theorem impliedRecall {l u} (h : Frame w s t) (e : t.impliedRecall l = some u) : Frame w s u := by
  unfold State.impliedRecall at e
  dsimp only at e
  split at e
  · cases e
  · cases e
    exact h.logEv.incF.startMove

theorem impliedDue {l} (h : Frame w s t) : Frame w s (t.impliedDue l) := by
  unfold State.impliedDue
  extract_lets e reads u
  refine .ite h ?_
  split
  · exact (h.impliedRecall ‹_›)
  · exact h.logEv.incF.foldl fun _ _ h1 => h1.failFlight

theorem runComplete {l} (h : Frame w s t) : Frame w s (t.runComplete l) := by
  unfold State.runComplete
  extract_lets x u u1 u2
  have hu : Frame w s u := h.modLkr
  have hu1 : Frame w s u1 := .ite hu.incF hu
  have hu2 : Frame w s u2 := hu1.modLkr
  refine .ite h.modLkr.impliedDue (.ite (.ite hu1.enterRecalled ?_) h)
  split
  · exact hu1.impliedDue
  · split
    · exact (hu2.applyRecall ‹_›)
    · exact hu2.logEv.incF

theorem consumeRead {l} (h : Frame w s t) : Frame w s (t.consumeRead l) := by
  unfold State.consumeRead
  extract_lets e u u1 u2
  have hu : Frame w s u := h.modEnt
  exact .ite h (.ite (.ite hu.modEnt.stopRecov.settleLkr.failReads hu) h)

theorem clearLkrView (h : Frame w s t) : Frame w s t.clearLkrView :=
  h.foldl fun _ _ h1 => h1.setReg

theorem writeLkrSel {v} (h : Frame w s t) : Frame w s (t.writeLkrSel v) :=
  h.setReg.clearLkrView

theorem readLkrState (h : Frame w s t) : Frame w s t.readLkrState.2 :=
  h.setReg.setReg.setReg.setReg.setReg

/-! ## NOP and POST, the result slots -/

theorem hostHole (h : Frame w s t) : Frame w s t.hostHole :=
  h.logEv

theorem hostUnmapped (h : Frame w s t) : Frame w s t.hostUnmapped :=
  h.logEv

theorem doNop {q} (h : Frame w s t) : Frame w s (t.doNop q) := by
  unfold State.doNop
  split
  · exact h
  · exact h.acceptCmd

theorem post {slot v q} (h : Frame w s t) : Frame w s (t.post slot v q) := by
  unfold State.post
  extract_lets r s1
  have hs1 : Frame w s s1 := h.upd
  exact .ite hs1.logEv hs1

theorem doPost {q} (h : Frame w s t) : Frame w s (t.doPost q) := by
  unfold State.doPost
  split
  · exact h
  · exact h.post.acceptCmd

theorem readResStatus {slot} (h : Frame w s t) : Frame w s (t.readResStatus slot).2 :=
  h.upd

theorem readResTake {slot} (h : Frame w s t) : Frame w s (t.readResTake slot).2 := by
  unfold State.readResTake
  extract_lets r
  split
  · exact h.upd
  · exact h.upd

theorem answer {r : Word × State} (h : Frame w s r.2) : Frame w s (State.answer r) := h.emit

theorem resRead {slot} {f : Word × State} (h : Frame w s t) (h' : Frame w s f.2) : Frame w s (t.resRead slot f) :=
  .ite h'.answer h.emit

theorem hostSignal {n v} (h : Frame w s t) : Frame w s (t.hostSignal n v) := by
  unfold State.hostSignal
  exact .ite h.signalAll h.hostHole

theorem hostMask {a1 m} (h : Frame w s t) : Frame w s (t.hostMask a1 m) := by
  unfold State.hostMask
  exact .ite h.writeMask h.hostHole

theorem hostQueCtrl {q v} (h : Frame w s t) : Frame w s (t.hostQueCtrl q v) := by
  unfold State.hostQueCtrl
  exact .ite h.writeQueCtrl h.hostHole

theorem reportDeadlock (h : Frame True s t) : Frame True s t.reportDeadlock := by
  unfold State.reportDeadlock
  extract_lets blocked recs bytes u u1 src
  have hu : Frame True s u := h.logEv
  exact (Frame.ite hu hu.t0Write).upd

theorem deadlock (h : Frame True s t) : Frame True s t.deadlock := by
  unfold State.deadlock
  exact .ite h.reportDeadlock h

/-! ## The planner -/

theorem liveEval {i opts} (h : Frame w s t) : Frame w s (t.liveEval i opts).2 := by
  unfold State.liveEval
  extract_lets early ok feas cost pick late ch feasBits lastIn costs pln u
  have hu : Frame w s u := h.upd
  clear_value u ch pick late
  split
  exacts [hu, hu.logEv.incF, hu]

theorem choosePlace {i placement again} (h : Frame w s t) : Frame w s (t.choosePlace i placement again).2 := by
  unfold State.choosePlace
  extract_lets note u p u1
  have hu : Frame w s u := by
    unfold u
    refine .ite (.ite h ?_) h
    · extract_lets u2
      have hu2 : Frame w s u2 := h.logEv
      split
      · exact hu2.incF
      · exact hu2
  have hu1 : Frame w s u1 := by
    unfold u1
    refine .ite hu ?_
    · extract_lets u2
      have hu2 : Frame w s u2 := hu.logEv
      split
      · exact hu2.incF
      · exact hu2
  split
  · exact h.liveEval
  · split
    · split
      · exact hu1
      · refine (Frame.ite hu1 ?_).liveEval
        extract_lets u2
        have hu2 : Frame w s u2 := hu1.logEv
        split
        · exact hu2.incF
        · exact hu2
    · split
      · exact hu
      · refine (Frame.ite hu ?_).liveEval
        extract_lets u2
        have hu2 : Frame w s u2 := hu.logEv
        split
        · exact hu2.incF
        · exact hu2

theorem prefetchRecall {l gen} (h : Frame w s t) : Frame w s (t.prefetchRecall l gen) := by
  unfold State.prefetchRecall
  extract_lets e u
  have hu : Frame w s u := h.incF
  refine .ite ?_ h
  split
  · exact (hu.applyRecall ‹_›)
  · exact hu.logEv.incF

theorem listRecall {i opt} (h : Frame w s t) : Frame w s (t.listRecall i opt) := by
  unfold State.listRecall
  exact .ite h.prefetchRecall h.upd

theorem prefetchAt {p} (h : Frame w s t) : Frame w s (t.prefetchAt p) :=
  h.upd.foldl fun _ _ h1 => h1.prefetchRecall

theorem openEntry {c tag fmt len} (h : Frame w s t) : Frame w s (t.openEntry c tag fmt len) := by
  unfold State.openEntry
  exact h.modLkr

theorem openStored {l tier} (h : Frame w s t) : Frame w s (t.openStored l tier) := by
  unfold State.openStored
  split
  · exact h
  · exact h.setReg.modLkr

theorem openAs {c tag i opt} (h : Frame w s t) : Frame w s (t.openAs c tag i opt) := by
  unfold State.openAs
  extract_lets tier bc u u1 u2 u3 u4 u5 u6
  have hu : Frame w s u := h.openEntry
  have hu1 : Frame w s u1 := .ite hu.modLkr hu.openStored
  have hu4 : Frame w s u4 := .ite hu1.setReg.modLkr (.ite hu1.setReg.modLkr hu1)
  have hu5 : Frame w s u5 := by
    unfold u5
    split
    · exact hu4.incF
    · exact hu4.incF
    · exact hu4.incF
    · exact hu4.incF
  exact (Frame.ite hu5.listRecall hu5).noteHigh

theorem tryOpen {q c tag again} (h : Frame w s t) : Frame w s (t.tryOpen q c tag again) := by
  unfold State.tryOpen
  extract_lets c1 i
  split
  · exact (((h.choosePlace.snd ‹_›)).upd).openAs.acceptCmd
  · exact .ite ((h.choosePlace.snd ‹_›)) (((((h.choosePlace.snd ‹_›)).logEv).incF).upd)

theorem bindRead {q l c consume} (h : Frame w s t) : Frame w s (t.bindRead q l c consume) := by
  unfold State.bindRead
  exact .ite h.upd.modStm h

theorem recomputeFor {l p} (h : Frame w s t) : Frame w s (t.recomputeFor l p) :=
  h.upd

theorem readLastIn (h : Frame w s t) : Frame w s t.readLastIn.2 :=
  (h.foldl fun _ _ h1 => h1.setReg).setReg

/-! ## Reading and writing tiles -/

theorem logTileBad {rd b comp} (h : Frame w s t) : Frame w s (t.logTileBad rd b comp) := by
  unfold State.logTileBad
  extract_lets tier low x
  cases b with
  | ue => exact h.logEv
  | mac => exact h.logEv.logEv.setReg
  | illegal => exact h.logEv
  | mismatch =>
    dsimp only
    split
    exacts [h.logEv, h.logEv]
  | codec =>
    dsimp only
    split
    exacts [h, h, h.logEv]

theorem judgeTile {rd hdr stored chdr cstored} (h : Frame w s t) : Frame w s (t.judgeTile rd hdr stored chdr cstored).2 := by
  unfold State.judgeTile
  extract_lets log hb hd ep plain raw far r n
  have hlog : ∀ {u b c}, Frame w s u → Frame w s (log u b c) := by
    intro u b c hu
    unfold log
    split
    exacts [hu, hu.logTileBad]
  have hr : Frame w s r.2 := by
    refine iteSnd h (iteSnd ?_ h)
    have he := h.expand (port := 0) (hdr := hb) (pay := plain.take hd.cmpLen) (pass := rd.pass && far)
    split
    exacts [he.snd ‹_›, he.snd ‹_›]
  clear_value r log n
  split
  · exact hlog h
  · split
    · exact hlog hr
    · split
      · refine iteSnd hr (iteSnd hr hr.drawBytes)
      · split
        exacts [hlog hr, hr]

theorem t0Log {bad} (h : Frame w s t) : Frame w s (t.t0Log bad) := by
  unfold State.t0Log
  exact .ite h.logEv h

theorem readNow {rd} (h : Frame w s t) : Frame w s (t.readNow rd).2 :=
  h.t0Log.judgeTile

theorem startRead {rd} (h : Frame w s t) : Frame w s (t.startRead rd) :=
  h.startJob

theorem askTile {rd} (h : Frame w s t) : Frame w s (t.askTile rd).2 := by
  unfold State.askTile
  split
  · exact h.readNow
  · exact h.startRead

theorem endRead {j rd} (h : Frame w s t) : Frame w s (t.endRead j rd).2 := by
  unfold State.endRead
  extract_lets hb cb n rd1 own comp r cs r1
  split
  · split
    · exact h.moreReqs
    · exact h.judgeTile
  · exact h.judgeTile

theorem detain {l} (h : Frame w s t) : Frame w s (t.detain l) := by
  unfold State.detain
  exact .ite h.modEnt.incF.setEvBit h

theorem refetch {r} (h : Frame w s t) : Frame w s (t.refetch r) := by
  unfold State.refetch
  exact .ite h h.startRead

theorem beginRecovery {rd} (h : Frame w s t) : Frame w s (t.beginRecovery rd) := by
  unfold State.beginRecovery
  extract_lets u src run r u1
  have hu : Frame w s u := by
    unfold u
    split
    · exact h.detain
    · exact h
  have hu1 : Frame w s u1 := hu.upd
  split
  · exact hu.upd
  · exact .ite hu1.refetch hu1

theorem forSlot {tier owner pos g} (h : Frame w s t) : Frame w s (t.forSlot tier owner pos g).2 := by
  unfold State.forSlot
  extract_lets h1 h2 r
  split
  · exact h.compress
  · split
    · exact h
    · exact h

theorem writePay {use who cls loc head stored share far} (h : Frame True s t) :
    Frame True s (t.writePay use who cls loc head stored share far).2 :=
  iteMk h.t0Write h.startJob

theorem writeHead {use who cls loc head} (h : Frame True s t) : Frame True s (t.writeHead use who cls loc head).2 :=
  iteMk h.t0Write h.startJob

theorem setPos {l p f} (h : Frame w s t) : Frame w s (t.setPos l p f) :=
  h.modLkr

theorem groupDone {l ps} (h : Frame w s t) : Frame w s (t.groupDone l ps) := by
  unfold State.groupDone
  extract_lets s1 s2 e s3
  have hs2 : Frame w s s2 := (h.foldl fun _ _ h1 => h1.setPos).modEnt
  have hs3 : Frame w s s3 := .ite hs2.incF hs2
  exact .ite hs3.runComplete hs3

theorem dataHeads {l ps} (h : Frame True s t) : Frame True s (t.dataHeads l ps) :=
  h.foldl fun _ _ h1 => h1.writeHead.setPos

theorem commitStep {a0 a2 a3} (h : Frame True s t) : Frame True s (State.commitStep a0 t a2 a3) := by
  induction a0 generalizing t a2 a3 with
  | zero => exact h
  | succ a0 ih =>
    rw [State.commitStep]
    split
    · refine .ite ?_ (.ite h.groupDone h)
      extract_lets u
      have hu : Frame True s u := h.dataHeads
      exact .ite hu.groupDone hu
    · exact .ite (ih h.writePay.setPos) (.ite (ih h.writeHead.setPos) (.ite (ih h.dataHeads) (.ite h.groupDone h)))

theorem storeLocker {l p c g} (h : Frame True s t) : Frame True s (t.storeLocker l p c g) := by
  unfold State.storeLocker
  extract_lets x u ps data loc
  have hu : Frame True s u := h.setPos
  refine .ite (.ite hu.groupDone hu) ?_
  have hr := fun use who cls loc head stored share far =>
    (h.forSlot (tier := loc.tier) (owner := t.ownerWord l) (pos := posWord x.e.fmt p) (g := g)).writePay (use := use) (who := who)
      (cls := cls) (loc := loc) (head := head) (stored := stored) (share := share) (far := far)
  exact .ite (hr _ _ _ _ _ _ _ _).setPos.commitStep (hr _ _ _ _ _ _ _ _).setPos

theorem lockerWrote {l p hdr} (h : Frame True s t) : Frame True s (t.lockerWrote l p hdr) :=
  h.setPos.commitStep

theorem giveMovers (h : Frame w s t) : Frame w s t.giveMovers :=
  h.foldl fun _ _ h1 => h1.modLkr

theorem moved {l p rd g} (h : Frame True s t) : Frame True s (t.moved l p rd g) := by
  unfold State.moved
  exact .ite h.storeLocker h.beginRecovery

theorem moveLoop {a0 a2} (h : Frame True s t) : Frame True s (State.moveLoop a0 t a2) := by
  induction a0 generalizing t a2 with
  | zero => exact h
  | succ a0 ih =>
    rw [State.moveLoop]
    refine .ite h ?_
    extract_lets u rd
    have hu : Frame True s u := h.modLkr
    refine .ite (ih hu) ?_
    split
    · exact ih ((hu.askTile.snd ‹_›))
    · exact ih (((hu.askTile.snd ‹_›)).moved)

theorem pumpMovers (h : Frame True s t) : Frame True s t.pumpMovers :=
  h.giveMovers.foldl fun _ _ h1 => h1.moveLoop

/-! ## Stream contexts -/

theorem sendSatchel {port vc dst form ep i mcast sat} (h : Frame w s t) : Frame w s (t.sendSatchel port vc dst form ep i mcast sat) :=
  h.satForPort.foldl fun _ _ h1 => .getD (fun _ => h1.sendTo) h1

theorem setMc {c m} (h : Frame w s t) : Frame w s (t.setMc c m) :=
  h.upd

theorem mcSend {m x i mcast sat} (h : Frame w s t) : Frame w s (t.mcSend m x i mcast sat) :=
  h.sendSatchel

theorem mcIssue {c i sat} (h : Frame w s t) : Frame w s (t.mcIssue c i sat) := by
  unfold State.mcIssue
  split
  · exact h
  · exact (h.foldl fun _ _ h1 => h1.mcSend).setMc

theorem repairOne {c} (h : Frame w s t) : Frame w s (t.repairOne c).1 := by
  unfold State.repairOne
  split
  · exact h
  · split
    · exact h
    · exact h.mcSend.incF.setMc

theorem repairAll {a0 a2} (h : Frame w s t) : Frame w s (State.repairAll a0 t a2) := by
  induction a0 generalizing t a2 with
  | zero => exact h
  | succ a0 ih =>
    rw [State.repairAll]
    split
    · exact ih ((h.repairOne.fst ‹_›))
    · exact (h.repairOne.fst ‹_›)

theorem relayLoop {a0 a2} (h : Frame w s t) : Frame w s (State.relayLoop a0 t a2) := by
  induction a0 generalizing t a2 with
  | zero => exact h
  | succ a0 ih =>
    rw [State.relayLoop]
    split
    · exact h
    · exact .ite (ih h.mcIssue) h

theorem mcAck {c count} (h : Frame w s t) : Frame w s (t.mcAck c count) := by
  unfold State.mcAck
  split
  · exact h
  · refine .ite h ?_
    extract_lets toRoot coord form s1
    have hs1 : Frame w s s1 := h.sendLossy
    exact .ite hs1.sendLossy.setMc hs1

theorem grantEngine {ch} (h : Frame w s t) : Frame w s (t.grantEngine ch) :=
  (h.foldl fun _ _ h1 => h1.emit).upd

theorem bindWaiting {c} (h : Frame w s t) : Frame w s (t.bindWaiting c) := by
  unfold State.bindWaiting
  extract_lets x
  refine .ite h ?_
  split
  · exact h
  · exact h.upd.modStm

theorem beginPass {c unit} (h : Frame w s t) : Frame w s (t.beginPass c unit) := by
  unfold State.beginPass
  extract_lets x u dk u1 src u2 u3 u4 src1 r src2 u5 u6 u7 dst src3
  have hu : Frame w s u := h.modStm
  have hu1 : Frame w s u1 := .ite hu.setReg.modStm hu
  have hu2 : Frame w s u2 := .ite hu1.upd hu1
  have hu3 : Frame w s u3 := .ite hu2.grantEngine hu2
  have hu4 : Frame w s u4 := .ite hu3 hu3.bindWaiting
  have hu5 : Frame w s u5 := .ite hu4 hu4.upd
  have hu6 : Frame w s u6 := .ite (.ite hu5.setMc hu5) hu4
  have hu7 : Frame w s u7 := .ite hu6.setMc hu6
  refine .ite hu7.haltCtx (.ite (.ite hu7 ?_) hu7)
  split
  · exact hu7.haltCtx
  · exact hu7.upd

theorem startCtx {c unit} (h : Frame w s t) : Frame w s (t.startCtx c unit).2 :=
  iteSnd (pair h.logEv.modStm) (iteSnd (pair h.logEv.modStm) (iteMk h.logEv.incF.haltCtx h.beginPass))

theorem modEntry {c i f} (h : Frame w s t) : Frame w s (t.modEntry c i f) :=
  h.modStm

theorem streamGot {c i rd g} (h : Frame w s t) : Frame w s (t.streamGot c i rd g) := by
  unfold State.streamGot
  exact .ite h.modEntry h.modEntry.beginRecovery

theorem readEntry {c e} (h : Frame w s t) : Frame w s (t.readEntry c e) := by
  unfold State.readEntry
  extract_lets x ask
  have hask : ∀ b, Frame w s (ask t b) := by
    intro b
    unfold ask
    extract_lets rd u
    have hu : Frame w s u := h.modEntry
    split
    · exact hu.askTile.snd ‹_›
    · exact (hu.askTile.snd ‹_›).streamGot
  refine .ite h (.ite ?_ (hask _))
  split
  exacts [hask _, h, h.haltCtx]

theorem takeSupply {c r} (h : Frame w s t) (e : t.takeSupply c = some r) : Frame w s r.2 := by
  unfold State.takeSupply at e
  dsimp only at e
  split at e <;> split at e <;> cases e
  exacts [h.upd.freeCells, modStm (f := fun x => { x with supply := _}) h]

theorem fillLoop {a0 a2} (h : Frame w s t) : Frame w s (State.fillLoop a0 t a2) := by
  induction a0 generalizing t a2 with
  | zero => exact h
  | succ a0 ih =>
    rw [State.fillLoop]
    refine .ite h ?_
    split
    · exact h
    · split
      · exact h
      · exact ih (((h.takeSupply ‹_›)).modEntry)

theorem fill {c} (h : Frame w s t) : Frame w s (t.fill c) :=
  h.fillLoop

theorem issueEntry {c} (h : Frame w s t) : Frame w s (t.issueEntry c) := by
  unfold State.issueEntry
  extract_lets x i e src dst k num ent u
  have hu : Frame w s u := h.modStm
  exact .ite h (.ite h.modStm (.ite h.logEv.haltWith (.ite h.modStm (.ite h.haltCtx (.ite hu.readEntry hu.fill)))))

theorem delivered {c i} (h : Frame w s t) : Frame w s (t.delivered c i) := by
  unfold State.delivered
  extract_lets x u ch src u1 u2
  have hu : Frame w s u := h.modStm
  have hu2 : Frame w s u2 := .ite hu.upd.emit hu
  exact .ite hu2.mcAck hu2

theorem toWindow {use c cls slot epoch t1 sat} (h : Frame True s t) : Frame True s (t.toWindow use c cls slot epoch t1 sat).2 := by
  unfold State.toWindow
  extract_lets g x u loc
  have hu : Frame True s u := h.upd
  split
  extract_lets x r
  have hr : Frame True s r.2 := (hu.forSlot.snd ‹_›).writePay
  split
  exacts [hr.writeHead, hr]

theorem writeWindow {c i slot t1 sat} (h : Frame True s t) : Frame True s (t.writeWindow c i slot t1 sat) := by
  unfold State.writeWindow
  exact .ite h.toWindow.delivered h.toWindow

theorem benchLoad {sat} (h : Frame w s t) : Frame w s (t.benchLoad sat) :=
  h.foldl fun _ _ h1 => h1.upd

theorem chainSend {dir form ctx slot t1 load sat} (h : Frame w s t) : Frame w s (t.chainSend dir form ctx slot t1 load sat) := by
  unfold State.chainSend
  exact .ite h (.ite h.upd h.emit)

theorem chainIn {ctx form slot t1 load sat} (h : Frame True s t) : Frame True s (t.chainIn ctx form slot t1 load sat) := by
  unfold State.chainIn
  extract_lets ord dir u u1
  have hu1 : Frame True s u1 := (Frame.ite h.benchLoad h).chainSend
  exact .ite h (.ite h.logEv.emit (.ite hu1.setReg.toWindow.emit hu1.setReg.toWindow))

theorem chainWrote {ctx form slot epoch} (h : Frame w s t) : Frame w s (t.chainWrote ctx form slot epoch) :=
  h.upd.emit

theorem chainCredit {dir given} (h : Frame w s t) : Frame w s (t.chainCredit dir given) := by
  unfold State.chainCredit
  exact .ite (h.upd.foldl fun _ _ h1 => h1.emit) h.upd

theorem chainTold {c form ok} (h : Frame w s t) : Frame w s (t.chainTold c form ok) := by
  unfold State.chainTold
  exact .ite h (.ite h.upd h.haltCtx)

theorem chainStep {m} (h : Frame True s t) : Frame True s (t.chainStep m) := by
  unfold State.chainStep
  split
  · exact h
  · exact h.chainIn
  · exact h.chainTold
  · exact h.chainTold
  · exact h.chainCredit

theorem windowWrote {c i slot epoch} (h : Frame w s t) : Frame w s (t.windowWrote c i slot epoch) := by
  unfold State.windowWrote
  extract_lets src u
  have hu : Frame w s u := h.upd
  exact .ite hu.delivered hu

theorem deliver {c e} (h : Frame True s t) : Frame True s (t.deliver c e) := by
  unfold State.deliver
  extract_lets x u u1 slot t1 load u2 u3 ch src u4 k u5 src1 u6 u7
  have hu : Frame True s u := h.modEntry
  have hu1 : Frame True s u1 := by
    unfold u1
    split
    · exact .ite hu.setMc hu
    · exact hu
  have hu2 : Frame True s u2 := hu1.chainSend.chainSend
  have hu7 : Frame True s u7 := by
    unfold u7
    split
    · exact hu1.storeLocker
    · exact hu1.writeWindow
    · exact hu1.writeWindow
    · exact (Frame.ite hu2.benchLoad hu2).writeWindow
    · exact hu1.modStm.delivered
    · exact hu1.modStm.delivered
    · exact hu1.upd.emit.delivered
    · split
      · exact .ite hu1.setMc.mcIssue.repairOne.delivered hu1
      · exact hu1.sendSatchel.upd.delivered
  exact hu7.relayLoop

theorem satchelReceive {c} (h : Frame True s t) : Frame True s (t.satchelReceive c) := by
  unfold State.satchelReceive
  split
  · exact h
  · exact .ite h.deliver h.haltCtx

theorem commitEntries (h : Frame w s t) : Frame w s t.commitEntries :=
  h.foldl fun _ _ h1 => .ite (h1.foldl fun _ _ h2 => h2.delivered) h1

theorem serveWaits (h : Frame w s t) : Frame w s t.serveWaits :=
  h.foldl fun _ _ h1 => h1.foldl fun _ _ h2 => .ite h2.readEntry h2

theorem settleAll (h : Frame w s t) : Frame w s t.settleAll :=
  h.foldl fun _ _ h1 => .ite h1.settleLkr h1

theorem stir (h : Frame True s t) : Frame True s t.stir :=
  h.pumpMovers.commitEntries.serveWaits.settleAll.commitEntries.pump

theorem endPass {c} (h : Frame w s t) : Frame w s (t.endPass c) := by
  unfold State.endPass
  extract_lets x u u1 u2 src u3
  have hu : Frame w s u := by
    unfold u
    split
    · exact .ite h.logEv h
    · exact h
  have hu1 : Frame w s u1 := by
    unfold u1
    split
    · exact hu
    · exact hu.finish
  have hu2 : Frame w s u2 := by
    unfold u2
    split
    · exact hu1
    · extract_lets u4
      have hu4 : Frame w s u4 := hu1.finish
      exact .ite hu4.consumeRead hu4
  exact (Frame.ite hu2.upd hu2.closeConns).modStm

theorem streamPassEnd {c} (h : Frame True s t) : Frame True s (t.streamPassEnd c) := by
  unfold State.streamPassEnd
  exact .ite h.endPass.stir h

theorem feed {c sat} (h : Frame w s t) : Frame w s (t.feed c sat) := by
  unfold State.feed
  extract_lets s1
  have hs1 : Frame w s s1 := .ite h.startCtx h
  exact .ite hs1.modStm.fill hs1

theorem hostStmStart {c v} (h : Frame True s t) : Frame True s (t.hostStmStart c v) := by
  unfold State.hostStmStart
  exact .ite h.logEv.modStm h.modStm.startCtx.stir

theorem hostStmAbort {c} (h : Frame True s t) : Frame True s (t.hostStmAbort c) := by
  unfold State.hostStmAbort
  extract_lets u u1 u2
  have hu1 : Frame True s u1 := by
    unfold u1
    split
    · exact h
    · exact h.logEv.modStm.failFlight
  have hu2 : Frame True s u2 := by
    unfold u2
    split
    · exact hu1
    · exact hu1.failFlight
  exact hu2.idleCtx.stir

theorem streamCmd {q} (h : Frame True s t) : Frame True s (t.streamCmd q) := by
  unfold State.streamCmd
  split
  · exact h
  · extract_lets c x r u y u1
    have hu : Frame True s u := h.modStm
    exact .ite h.logEv.modStm.stopQueue (.ite hu.startCtx.stopQueue hu.acceptCmd.modStm.startCtx.stir)

theorem withCtx {c u} (h : Frame w s t) (h' : Frame w s u) : Frame w s (t.withCtx c u) := .ite h' h.hostHole

/-! ## Connections on the receiving side and multicast control -/

theorem onFrame {p typ fr bad} {f : WHdr → Bytes → State → State} (h : Frame w s t)
    (hf : ∀ x pay u, Frame w s u → Frame w s (f x pay u)) : Frame w s (t.onFrame p typ fr bad f) := by
  unfold State.onFrame
  have hr := h.receive (p := p) (f := fr) (bad := bad)
  split
  · rwa [‹t.receive p fr bad = _›] at hr
  · rw [‹t.receive p fr bad = _›] at hr
    exact .ite (hf _ _ _ hr) h

theorem consumed {p h2} (h : Frame w s t) : Frame w s (t.consumed p h2) :=
  h.freeCells

theorem refuseFrame {p reason h3} (h : Frame w s t) : Frame w s (t.refuseFrame p reason h3) :=
  h.consumed.violation

theorem satArrived {c p cells sat} (h : Frame True s t) : Frame True s (t.satArrived c p cells sat) := by
  unfold State.satArrived
  extract_lets put
  split
  · exact ((((h.satExpanded.snd ‹_›)).upd).fill).stir
  · exact (((h.satExpanded.snd ‹_›)).freeCells).haltWith

theorem dataFor {c p h3 pay} (h : Frame True s t) : Frame True s (t.dataFor c p h3 pay) := by
  unfold State.dataFor
  exact .ite h.refuseFrame (.ite h.upd.satArrived h.upd)

theorem dataIn {p h1 pay u} (h : Frame True s t) (h' : Frame True s u) : Frame True s (t.dataIn p h1 pay u) := by
  unfold State.dataIn
  refine .ite h (.ite (.ite h'.refuseFrame h'.consumed) ?_)
  split
  · exact h'.refuseFrame
  · exact h'.dataFor

theorem dataFrame {p fr bad} (h : Frame True s t) : Frame True s (t.dataFrame p fr bad) :=
  h.onFrame (fun _ _ _ h1 => h.dataIn h1)

theorem mackIn {p h2 pay} (h : Frame w s t) : Frame w s (t.mackIn p h2 pay) := by
  unfold State.mackIn
  extract_lets u n
  have hu : Frame w s u := h.consumed
  split
  · exact hu
  · split
    · exact hu
    · extract_lets u1 u2
      have hu2 : Frame w s u2 := hu.setMc.relayLoop
      exact .ite hu2 hu2.repairAll

theorem mcastDetach {c} (h : Frame w s t) : Frame w s (t.mcastDetach c) := by
  unfold State.mcastDetach
  split
  · exact h
  · exact .ite h ((h.foldl fun _ _ h1 => h1.logEv.incF.sendLossy).setMc.relayLoop)

theorem detachIn {p h2 pay} (h : Frame w s t) : Frame w s (t.detachIn p h2 pay) := by
  unfold State.detachIn
  extract_lets u n
  have hu : Frame w s u := h.consumed
  split
  · exact hu
  · split
    · exact hu
    · refine .ite hu ?_
      extract_lets u1
      have hu1 : Frame w s u1 := hu.setMc
      exact .ite hu1.sendLossy.setMc hu1

theorem repairIn {p hd pay} (h : Frame w s t) : Frame w s (t.repairIn p hd pay) := by
  unfold State.repairIn
  extract_lets u
  have hu : Frame w s u := h.consumed
  split
  · exact hu
  split
  · exact hu
  refine .ite hu ?_
  dsimp only
  split
  · exact hu.haltCtx
  · exact .ite hu.setMc hu.setMc.repairAll

/-! ## One hall-clock cycle with no command waiting -/

theorem philoxOut (h : Frame w s t) : Frame w s t.philoxOut :=
  h.setReg.setReg.upd

theorem clocks (h : Frame w s t) : Frame w s t.clocks :=
  h.upd

theorem tick (h : Frame w s t) : Frame w s t.tick :=
  (Frame.ite h.philoxOut h).clocks

/-! ## Staging runs -/

theorem modRun {id f} (h : Frame w s t) : Frame w s (t.modRun id f) :=
  h.upd

theorem stageWrite {id n} (h : Frame True s t) : Frame True s (t.stageWrite id n) := by
  unfold State.stageWrite
  split
  · exact h
  · refine .ite h ?_
    split
    extract_lets loc old sl v c hd g
    have hv : Frame True s v := (h.takeEpoch.snd ‹_›).modRun
    split
    exact (hv.forSlot.snd ‹_›).writePay

theorem stageWriteAll {id} (h : Frame True s t) : Frame True s (t.stageWriteAll id) := by
  unfold State.stageWriteAll
  split
  · exact h
  · exact h.foldl fun _ _ h1 => h1.stageWrite

theorem notePlaced {r tier} (h : Frame w s t) : Frame w s (t.notePlaced r tier) :=
  h.upd

theorem placeRun {id} (h : Frame True s t) : Frame True s (t.placeRun id) := by
  unfold State.placeRun
  split
  · exact h
  · refine .ite h ?_
    split
    · exact h.modRun.notePlaced.stageWriteAll
    · extract_lets used u src u1
      split
      · exact h
      · exact (Frame.ite h h.logEv).upd.modRun.notePlaced.stageWriteAll

theorem openRun {piece first blocks step} (h : Frame w s t) : Frame w s (t.openRun piece first blocks step).2 := by
  unfold State.openRun
  split
  · exact h
  · exact h.upd

theorem stageNow {id} (h : Frame w s t) : Frame w s (t.stageNow id).2 := by
  unfold State.stageNow
  split
  · exact h
  · split
    · exact h.openRun
    · exact h

theorem stageAdd {id add vals} (h : Frame True s t) : Frame True s (t.stageAdd id add vals) := by
  unfold State.stageAdd
  extract_lets vals1 upd u
  have hu : Frame True s u := h.modRun
  exact .ite hu.placeRun (hu.foldl fun _ _ h1 => h1.stageWrite)

theorem freeRun {id} (h : Frame w s t) : Frame w s (t.freeRun id) :=
  h.upd

theorem stagingAlloc {piece first tiles} (h : Frame True s t) : Frame True s (t.stagingAlloc piece first tiles) := by
  unfold State.stagingAlloc
  exact .ite h (.ite h h.openRun.placeRun)

/-! ## The Marker -/

theorem fetchTile {rd} (h : Frame w s t) : Frame w s (t.fetchTile rd) :=
  h.startRead

theorem writeState {loc owner pos fmt vr vc nocode use pay} (h : Frame True s t) :
    Frame True s (t.writeState loc owner pos fmt vr vc nocode use pay) :=
  h.forSlot.writePay

theorem sealReads (h : Frame w s t) : Frame w s t.sealReads :=
  h.foldl fun _ _ h1 => h1.modRun.foldl fun _ _ h2 => h2.fetchTile

theorem closeRun {r} (h : Frame w s t) : Frame w s (t.closeRun r) :=
  h.upd.modRun.sealReads

theorem closeRuns {cs} (h : Frame w s t) : Frame w s (t.closeRuns cs) := by
  unfold State.closeRuns
  extract_lets cs1
  refine h.foldl fun u x h1 => ?_
  split
  · exact h1
  · exact h1.closeRun

theorem stagedSeal {id rd g} (h : Frame w s t) : Frame w s (t.stagedSeal id rd g).2 := by
  unfold State.stagedSeal
  split
  · exact h
  split
  · exact h
  refine iteSnd (pair h.modRun) (iteSnd (pair h.modRun) (iteSnd (pair ?_) (pair ?_)))
  · exact h.modRun.logEv.setReg.upd.logEv
  · exact h.modRun.logEv.setReg

theorem gateBegins (h : Frame w s t) : Frame w s t.gateBegins :=
  h.upd

theorem gateCompletes {bad} (h : Frame w s t) : Frame w s (t.gateCompletes bad) := by
  unfold State.gateCompletes
  extract_lets src cards src1 src2 u u1
  have hu : Frame w s u := h.upd
  exact .ite (hu.logEv.incF.foldl fun _ _ h1 => h1.freeRun) hu.setF

theorem startBlock {w1} (h : Frame w s t) : Frame w s (t.startBlock w1) :=
  h.upd.foldl fun _ _ h1 => h1.fetchTile

theorem runReadOut {id} (h : Frame w s t) : Frame w s (t.runReadOut id) := by
  unfold State.runReadOut
  exact .ite h h.freeRun

theorem writeBlock {w1} (h : Frame True s t) : Frame True s (t.writeBlock w1) :=
  (Frame.ite h.logEv h).upd.foldl fun _ _ h1 => h1.writeState

theorem startRecords (h : Frame True s t) : Frame True s t.startRecords :=
  (h.foldl fun _ _ h1 => h1.upd).upd.foldl fun _ _ h1 => h1.writeState

theorem sweepLoop {a0} (h : Frame True s t) : Frame True s (State.sweepLoop a0 t) := by
  induction a0 generalizing t  with
  | zero => exact h
  | succ a0 ih =>
    rw [State.sweepLoop]
    refine .ite h ?_
    split
    · refine .ite ?_ h
      extract_lets u
      have hu : Frame True s u := h.writeBlock
      split
      · exact hu.runReadOut
      · exact hu
    · split
      · exact h.upd.startBlock
      · split
        · exact ih h.upd.startBlock
        · exact .ite h.startRecords h

theorem markerWrote {part} (h : Frame True s t) : Frame True s (t.markerWrote part) := by
  unfold State.markerWrote
  refine .ite h.upd ?_
  split
  · exact h
  · exact .ite h.upd h.upd.sweepLoop

theorem markerHave {piece part tile run g} (h : Frame True s t) : Frame True s (t.markerHave piece part tile run g) := by
  unfold State.markerHave
  exact .ite (h.foldl fun _ _ h1 => .ite h1.setReg.setReg (.ite h1 h1.upd)) h.upd.sweepLoop

theorem markerGot {piece part tile rd g} (h : Frame True s t) : Frame True s (t.markerGot piece part tile rd g).2 := by
  unfold State.markerGot
  extract_lets run u v
  have hu : Frame True s u := .ite h.logEv h
  have hv : Frame True s v := hu.beginRecovery
  clear_value v run
  refine iteSnd ?_ ?_
  · split
    rename_i lost x e
    refine pair (markerHave ?_)
    split at e
    · exact h.stagedSeal.snd e
    · cases e
      exact h
  split
  · exact hv
  · exact iteSnd (pair hv.upd.sweepLoop) hv

theorem readRecords (h : Frame w s t) : Frame w s t.readRecords := by
  unfold State.readRecords
  exact .ite h (h.foldl fun _ _ h1 => h1.fetchTile)

theorem latchClip (h : Frame w s t) : Frame w s t.latchClip := by
  unfold State.latchClip
  exact .ite h.upd (.ite h.upd h.logEv.upd)

theorem sweepStart (h : Frame True s t) : Frame True s t.sweepStart := by
  unfold State.sweepStart
  refine .ite h ?_
  split
  · exact h
  · rename_i v e
    have hv : Frame True s v := by
      split at e
      · exact h.tryWait e
      · cases e
        exact h
    exact .ite hv.latchClip.upd hv.latchClip.takeEpoch.upd.sweepLoop

theorem sweepEnd (h : Frame w s t) : Frame w s t.sweepEnd := by
  unfold State.sweepEnd
  refine .ite h ?_
  extract_lets u cards flag src src1 u1
  have hu1 : Frame w s u1 := h.setReg.setReg.upd
  exact .ite hu1.logEv hu1

theorem writeDigSel {v} (h : Frame w s t) : Frame w s (t.writeDigSel v) := by
  unfold State.writeDigSel
  extract_lets s1 p
  have hs1 : Frame w s s1 := h.setReg.setReg
  exact .ite hs1.upd.upd (.ite hs1.upd.fetchTile hs1.upd)

theorem digestDone (h : Frame w s t) : Frame w s t.digestDone := by
  unfold State.digestDone
  exact .ite h h.setReg.setF.upd

theorem writeCardSel {v} (h : Frame w s t) : Frame w s (t.writeCardSel v) :=
  h.setReg.setReg.setReg.setReg

theorem readCard (h : Frame w s t) : Frame w s t.readCard.2 := by
  unfold State.readCard
  extract_lets l view c
  split
  · exact h.setReg.setReg.setReg.setReg
  · exact h.upd.upd.upd.upd.setReg.setReg.setReg.setReg

/-! ## Collectives, the parts that every frame and command shares -/

theorem takeSeq {code} (h : Frame w s t) : Frame w s (t.takeSeq code).2 :=
  h.upd

theorem modColl {k f} (h : Frame w s t) : Frame w s (t.modColl k f) :=
  h.upd

theorem needColl {k bucket sig slotops} (h : Frame w s t) : Frame w s (t.needColl k bucket sig slotops) := by
  unfold State.needColl
  exact .ite h h.upd

theorem noteGone {k us} (h : Frame w s t) : Frame w s (t.noteGone k us) :=
  h.upd

theorem sendColl {c typ dst form h5 data port} (h : Frame w s t) : Frame w s (t.sendColl c typ dst form h5 data port) :=
  .getD (fun _ => h.sendTo) h

theorem sendDown {c typ h3 data p} (h : Frame w s t) : Frame w s (t.sendDown c typ h3 data p) := by
  unfold State.sendDown
  exact .ite h ((h.foldl fun _ _ h1 => h1.sendColl).foldl fun _ _ h1 => h1.sendColl)

theorem countAbort {code} (h : Frame w s t) : Frame w s (t.countAbort code) := by
  unfold State.countAbort
  exact .ite h.incF (.ite h.incF (.ite h.incF (.ite h.incF h)))

theorem setRclAbort {group seq a3} (h : Frame w s t) : Frame w s (t.setRclAbort group seq a3) :=
  h.setReg.setReg

theorem collAborted {c a2 quiet} (h : Frame w s t) : Frame w s (t.collAborted c a2 quiet) := by
  unfold State.collAborted
  extract_lets u u1 u2 u3 u4 src
  have hu2 : Frame w s u2 := h.setRclAbort.noteGone.dropJobs
  have hu3 : Frame w s u3 := hu2.countAbort
  have hu4 : Frame w s u4 := by
    unfold u4
    split
    · exact hu3.logEv
    · exact hu3
  refine .ite hu2 (.ite hu4.upd ?_)
  split
  · exact hu4.failFlight
  · exact hu4

theorem applyCollAbort {k a2} (h : Frame w s t) : Frame w s (t.applyCollAbort k a2) := by
  unfold State.applyCollAbort
  split
  · exact .ite h.collAborted h.noteGone.upd
  · exact .ite h h.upd

theorem abortDown {k sig a3} (h : Frame w s t) : Frame w s (t.abortDown k sig a3) :=
  h.sendDown

theorem rootAbort {k sig a3} (h : Frame w s t) : Frame w s (t.rootAbort k sig a3) := by
  unfold State.rootAbort
  exact .ite h h.abortDown.applyCollAbort

theorem abortUp {k sig a3} (h : Frame w s t) : Frame w s (t.abortUp k sig a3) := by
  unfold State.abortUp
  extract_lets c
  refine .ite h.sendColl ?_
  split
  · exact .ite h.sendColl h.sendColl
  · exact h

theorem detectAbort {k sig a3} (h : Frame w s t) : Frame w s (t.detectAbort k sig a3) := by
  unfold State.detectAbort
  exact .ite h.rootAbort h.abortUp

theorem draw16 (h : Frame w s t) : Frame w s t.draw16.2 :=
  h.upd

theorem onColl {p typ fr bad} {f : WHdr → CHdr → CKey → Bytes → State → State} (h : Frame w s t)
    (hf : ∀ x c k pay u, Frame w s u → Frame w s (f x c k pay u)) : Frame w s (t.onColl p typ fr bad f) := by
  unfold State.onColl
  refine h.onFrame fun x pay u hu => ?_
  dsimp only
  split
  · exact hu.refuseFrame
  · exact .ite hu.consumed (.ite hu.upd (hf _ _ _ _ _ hu.consumed))

/-! ## Roll calls -/

theorem rollResult {c q ws} (h : Frame True s t) : Frame True s (t.rollResult c q ws) := by
  unfold State.rollResult
  extract_lets s1
  have hs1 : Frame True s s1 := h.t0Write
  exact .ite hs1 (hs1.foldl fun _ _ h1 => h1.post)

theorem rollDone {k ws} (h : Frame True s t) : Frame True s (t.rollDone k ws) := by
  unfold State.rollDone
  split
  · exact h
  · refine .ite h ?_
    extract_lets lat s1 s2 s3
    have hs3 : Frame True s s3 := h.incF.setReg.noteGone
    split
    · exact hs3.rollResult.finish
    · exact hs3.upd

theorem rollUp {a0 a2 a3} (h : Frame True s t) : Frame True s (State.rollUp a0 t a2 a3) := by
  induction a0 generalizing t a2 a3 with
  | zero => exact h
  | succ a0 ih =>
    rw [State.rollUp]
    split
    · exact h
    · extract_lets x m me ws src h1 u u1 u2 p e h2
      have hu : Frame True s u := h.modColl
      exact .ite h (.ite (Frame.ite (hu.foldl fun _ _ h1 => h1.sendColl) hu.sendDown).rollDone (.ite (ih (h.foldl fun _ _ h1 => h1.sendColl).modColl) (.ite (ih h.modColl) h.sendColl)))

theorem rollPart {k l expect ord h5 c pay} (h : Frame True s t) : Frame True s (t.rollPart k l expect ord h5 c pay) := by
  unfold State.rollPart
  extract_lets ops s1
  have hs1 : Frame True s s1 := h.needColl
  split
  · exact hs1
  · exact .ite hs1.detectAbort hs1.modColl.rollUp

theorem rcUp {h1 c k pay} (h : Frame True s t) : Frame True s (t.rcUp h1 c k pay) := by
  unfold State.rcUp
  exact .ite h h.rollPart

theorem rcExch {h1 c k pay} (h : Frame True s t) : Frame True s (t.rcExch h1 c k pay) := by
  unfold State.rcExch
  exact .ite h h.rollPart

theorem rcDown {c k pay} (h : Frame True s t) : Frame True s (t.rcDown c k pay) := by
  unfold State.rcDown
  split
  · exact h
  · exact .ite h h.sendDown.rollDone

theorem rollContribute {k ws} (h : Frame True s t) : Frame True s (t.rollContribute k ws) := by
  unfold State.rollContribute
  split
  · exact h
  · exact .ite h.modColl.rollUp h.sendColl

theorem issueColl {q c root rform} (h : Frame w s t) : Frame w s (t.issueColl q c root rform).2.2 := by
  unfold State.issueColl
  extract_lets code bucket ops
  split
  have h0 := h.takeSeq.snd ‹_›
  extract_lets k sig u1 early x u2 u3 held u4 lost src r
  have h4 : Frame w s u4 := h0.setReg.upd.needColl.modColl
  have hr : Frame w s r.2 := h4.draw16
  clear_value u4 r early src lost
  split
  · have h5 := fun x a => h4.collAborted (c := x) (a2 := a) (quiet := false)
    exact h5 _ _
  · exact h4
  split
  · split
    · rename_i o v e
      have hv : Frame w s v := by
        split at e
        · cases e; exact h4
        · cases e; exact hr
      have h5 := fun k sig a => hv.detectAbort (k := k) (sig := sig) (a3 := a)
      exact h5 _ _ _
  · split
    · have h5 := fun k sig a => h4.detectAbort (k := k) (sig := sig) (a3 := a)
      exact h5 _ _ _
    · exact h4

theorem startRoll {q c ws} (h : Frame True s t) : Frame True s (t.startRoll q c ws) := by
  unfold State.startRoll
  exact .ite h.issueColl.rollContribute h.issueColl

theorem refuseColl {q e c} (h : Frame w s t) : Frame w s (t.refuseColl q e c) :=
  h.logEv.stopQueue

theorem rollcall {q} (h : Frame True s t) : Frame True s (t.rollcall q) := by
  unfold State.rollcall
  split
  · exact h
  · split
    · exact h.refuseColl
    · exact .ite h.refuseColl (.ite h.logEv.stopQueue (.ite h h.acceptCmd.startRoll))

/-! ## Bucket reductions -/

theorem intoRun {piece block count step vals} (h : Frame True s t) : Frame True s (t.intoRun piece block count step vals).2 :=
  h.openRun.stageAdd

theorem bucketRoom {c} (h : Frame True s t) : Frame True s (t.bucketRoom c).2 :=
  h.openRun.placeRun

theorem writeBucket {k} (h : Frame True s t) : Frame True s (t.writeBucket k) := by
  unfold State.writeBucket
  split
  · exact h
  extract_lets n vals
  split
  extract_lets m u1 u2
  have h1 : Frame True s u1 := (h.intoRun.snd ‹_›).modRun
  exact modColl (.ite h1.upd h1)

theorem addHomework {piece block count step vals group} (h : Frame True s t) :
    Frame True s (t.addHomework piece block count step vals group) := by
  unfold State.addHomework
  exact .ite h.logEv.incF h.intoRun

theorem homeworkIn {k ch vs} (h : Frame True s t) : Frame True s (t.homeworkIn k ch vs) := by
  unfold State.homeworkIn
  extract_lets vals
  split
  · exact h.addHomework
  · split
    · exact .ite h.addHomework h.modColl
    · exact h

theorem sendHomework {k} (h : Frame True s t) : Frame True s (t.sendHomework k) := by
  unfold State.sendHomework
  split
  · exact h
  · exact .ite h ((h.foldl fun _ _ h1 => h1.foldl fun _ _ h2 => .ite h2.addHomework h2.sendColl).modColl)

theorem lateNotice {k sig} (h : Frame True s t) : Frame True s (t.lateNotice k sig) := by
  unfold State.lateNotice
  extract_lets u u1
  have hu : Frame True s u := h.needColl
  have hu1 : Frame True s u1 := hu.incF
  split
  · exact hu
  · exact .ite hu1.logEv.incF.modColl.sendHomework hu1.logEv.incF

theorem bucketDone {k} (h : Frame w s t) : Frame w s (t.bucketDone k) := by
  unfold State.bucketDone
  split
  · exact h
  · extract_lets dest u d u1 src u2 u3
    have hu2 : Frame w s u2 := h.incF.noteGone.upd
    have hu3 : Frame w s u3 := by
      unfold u3
      split
      · exact hu2.finish
      · exact hu2
    exact .ite h (.ite hu3.closeRuns hu3)

theorem bucketsDone (h : Frame w s t) : Frame w s t.bucketsDone :=
  h.foldl fun _ _ h1 => h1.bucketDone

theorem writeIfDue {k} (h : Frame True s t) : Frame True s (t.writeIfDue k) := by
  unfold State.writeIfDue
  split
  · exact h
  · refine .ite h ?_
    split
    · exact ((h.bucketRoom.snd ‹_›)).writeBucket
    · exact (h.bucketRoom.snd ‹_›)

theorem takeNotice {k contrib fromForm} (h : Frame True s t) : Frame True s (t.takeNotice k contrib fromForm) := by
  unfold State.takeNotice
  split
  · exact h
  · exact h.sendDown.modColl.writeIfDue.bucketDone

theorem afterWrite {k} (h : Frame True s t) : Frame True s (t.afterWrite k) := by
  unfold State.afterWrite
  split
  · exact h
  · exact .ite h.bucketDone (.ite h (.ite h.takeNotice h.sendColl.modColl.bucketDone))

theorem bucketsDue (h : Frame True s t) : Frame True s t.bucketsDue :=
  h.foldl fun _ _ h1 => h1.writeIfDue.afterWrite

theorem takeChunk {k ch contrib vs} (h : Frame True s t) : Frame True s (t.takeChunk k ch contrib vs) := by
  unfold State.takeChunk
  extract_lets put s1
  have hs1 : Frame True s s1 := h.modColl
  split
  · exact hs1
  · exact .ite hs1 hs1.writeIfDue.afterWrite

theorem bucketResult {k} (h : Frame True s t) : Frame True s (t.bucketResult k) := by
  unfold State.bucketResult
  split
  · exact h
  · extract_lets n x contrib u src one u1
    have hu1 : Frame True s u1 := h.modColl.foldl fun _ _ h1 => .ite ((Frame.ite h1.sendDown (.ite h1 h1.sendColl)).takeChunk) (.ite h1.sendDown (.ite h1 h1.sendColl))
    exact .ite hu1.takeNotice hu1

theorem chunkUp {a0 a2 a3 a4} (h : Frame True s t) : Frame True s (State.chunkUp a0 t a2 a3 a4) := by
  induction a0 generalizing t a2 a3 a4 with
  | zero => exact h
  | succ a0 ih =>
    rw [State.chunkUp]
    split
    · exact h
    · extract_lets x u m me vs contrib p e y y1 src h1
      have hu : Frame True s u := h.modColl
      exact .ite h (.ite (.ite hu.bucketResult hu) (.ite (.ite hu (ih hu.modColl)) hu.sendColl))

theorem chunksUp {k l} (h : Frame True s t) : Frame True s (t.chunksUp k l) := by
  unfold State.chunksUp
  split
  · exact h
  · exact h.foldl fun _ _ h1 => h1.chunkUp

theorem redPart {k h2 c vs} (h : Frame True s t) : Frame True s (t.redPart k h2 c vs) := by
  unfold State.redPart
  extract_lets u bad m e
  have hu : Frame True s u := h.needColl
  split
  · exact hu
  · extract_lets lv lv1 u1
    have hu1 : Frame True s u1 := hu.modColl
    exact .ite hu.detectAbort (.ite hu (.ite ((Frame.ite hu1.chunksUp hu1.chunkUp).sendHomework) hu1))

theorem needHome {k c} (h : Frame w s t) : Frame w s (t.needHome k c) := by
  unfold State.needHome
  exact .ite h h.needColl

theorem redUp {h1 c k pay} (h : Frame True s t) : Frame True s (t.redUp h1 c k pay) := by
  unfold State.redUp
  exact .ite (.ite h.needHome.homeworkIn h) (.ite h h.redPart)

theorem redDown {h1 c k pay} (h : Frame True s t) : Frame True s (t.redDown h1 c k pay) := by
  unfold State.redDown
  extract_lets u src
  have hu : Frame True s u := .ite h h.needColl
  split
  · exact hu
  · exact .ite hu.takeNotice ((Frame.ite hu hu.sendDown).takeChunk)

theorem bucketDeadline {group seq} (h : Frame True s t) : Frame True s (t.bucketDeadline group seq) := by
  unfold State.bucketDeadline
  split
  · exact h
  · refine .ite h ?_
    extract_lets m me tray x gone s1
    have hs1 : Frame True s s1 := h.modColl
    exact .ite hs1 ((hs1.upd.incF.foldl fun _ _ h1 => .ite h1.lateNotice h1.sendColl).chunksUp)

theorem bucketContribute {k vals} (h : Frame True s t) : Frame True s (t.bucketContribute k vals) := by
  unfold State.bucketContribute
  split
  · exact h
  · exact ((Frame.ite h.upd h).foldl fun _ _ h1 => .ite h1.modColl.chunkUp h1.sendColl).sendHomework

theorem bucketRead {tag ok data} (h : Frame True s t) : Frame True s (t.bucketRead tag ok data) := by
  unfold State.bucketRead
  split
  · exact h
  extract_lets n
  split
  rename_i bs v e
  refine bucketContribute ?_
  split at e
  · cases e
    exact h
  · exact h.drawBytes.snd e

theorem addHeld {k x} (h : Frame True s t) : Frame True s (t.addHeld k x) := by
  unfold State.addHeld
  exact .ite h h.addHomework.modColl

theorem startBucket {q c root} (h : Frame True s t) : Frame True s (t.startBucket q c root) := by
  unfold State.startBucket
  split
  rename_i go k v e
  have hv := h.issueColl (q := some q) (c := c) (root := root) (rform := bRootForm c)
  rw [e] at hv
  refine .ite hv ?_
  extract_lets v1 n a bs
  have h1 : Frame True s v1 := by
    unfold v1
    split
    · rename_i x _
      refine addHeld ?_
      cases x.rchunks.head? with
      | none => exact hv
      | some ch => exact takeChunk hv
    · exact hv
  refine .ite h1.bucketContribute ?_
  split
  exacts [h1.bucketContribute, h1.startJob]

theorem bucket {q} (h : Frame True s t) : Frame True s (t.bucket q) := by
  unfold State.bucket
  split
  · exact h
  · split
    · exact h.refuseColl
    · exact .ite h.refuseColl (.ite h.logEv.stopQueue (.ite h h.acceptCmd.startBucket))

theorem noticeIn {h1 c k pay} (h : Frame True s t) : Frame True s (t.noticeIn h1 c k pay) := by
  unfold State.noticeIn
  exact .ite h (.ite (.ite h.lateNotice.bucketDone h) (.ite h.upd.rootAbort h))

theorem collTimeout {group seq} (h : Frame w s t) : Frame w s (t.collTimeout group seq) := by
  unfold State.collTimeout
  split
  · exact h
  split
  have h1 := h.draw16.snd ‹_›
  exact .ite h1.collAborted (.ite h1.modColl.rootAbort h1.modColl.sendColl)

theorem collLost {group seq} (h : Frame w s t) : Frame w s (t.collLost group seq) := by
  unfold State.collLost
  split
  · exact h
  · exact h.upd.collAborted

theorem collsLost {l} (h : Frame w s t) : Frame w s (t.collsLost l) :=
  h.foldl fun _ _ h1 => h1.detectAbort

/-! ## Histories and productions -/

theorem emptyHists (h : Frame True s t) : Frame True s t.emptyHists := by
  unfold State.emptyHists
  exact .ite h h.t0Write

theorem writeHist {h1 a2} (h : Frame True s t) : Frame True s (t.writeHist h1 a2) :=
  h.t0Write.t0Write

theorem prodGone {tag c done a4} (h : Frame True s t) : Frame True s (t.prodGone tag c done a4) := by
  unfold State.prodGone
  split
  · exact h
  · refine .ite h ?_
    extract_lets per h1 old others p rest src u
    have hu : Frame True s u := h.upd
    exact .ite (.ite hu.writeHist hu) h.upd

theorem unqueue {q t2} (h : Frame True s t) : Frame True s (t.unqueue q t2) :=
  h.modQue.foldl fun _ _ h1 => h1.append

theorem releaseOpened {t1} (h : Frame w s t) : Frame w s (t.releaseOpened t1) :=
  h.foldl fun _ _ h1 => h1.releaseLkr

theorem stopFlight {f} (h : Frame w s t) : Frame w s (t.stopFlight f) := by
  unfold State.stopFlight
  exact .ite h (.ite h.idleCtx (.ite h.idleCr (.ite h.modStm h)))

theorem repeatEntry {t1 q} (h : Frame True s t) : Frame True s (t.repeatEntry t1 q) :=
  (h.unqueue.foldl fun _ _ h1 => h1.stopFlight).upd.releaseOpened.upd

theorem writeHistSel {v} (h : Frame w s t) : Frame w s (t.writeHistSel v) :=
  h.setReg.foldl fun _ _ h1 => h1.setReg

theorem readHistState (h : Frame w s t) : Frame w s t.readHistState.2 :=
  (h.foldl fun _ _ h1 => h1.setReg).setReg

theorem writePhilox {hi v} (h : Frame w s t) : Frame w s (t.writePhilox hi v) :=
  h.setReg.upd

/-! ## What the benches and the row units share -/

theorem failUnit {f code} (h : Frame w s t) : Frame w s (t.failUnit f code) :=
  h.failFlight

theorem refuseUnit {f e} (h : Frame w s t) : Frame w s (t.refuseUnit f e) :=
  h.logEv.failUnit

theorem ranFlight {f amax} (h : Frame w s t) : Frame w s (t.ranFlight f amax) :=
  h.upd

theorem takeTiles {cmd cs} (h : Frame w s t) : Frame w s (t.takeTiles cmd cs) :=
  h.foldl fun _ _ h1 => (Frame.ite h1 h1.upd).modStm

theorem stopIllegal {f ctxs} (h : Frame w s t) : Frame w s (t.stopIllegal f ctxs) := by
  unfold State.stopIllegal
  extract_lets u u1 u2
  have hu2 : Frame w s u2 := (Frame.ite h h.logEv.incF).failUnit
  split
  · exact hu2
  · exact .ite hu2 hu2.beginRecovery

theorem fpOld {a key fd n u} (h : Frame w s t) (e : t.fpOld a key fd n = .wait u) : Frame w s u := by
  unfold State.fpOld at e
  dsimp only at e
  split at e
  · split at e <;> cases e
  · split at e
    · cases e
    · split at e
      · cases e
      · split at e
        · cases e
          exact h
        · cases e
          exact h.startJob

theorem fpStore {u1 fd add old vals} (h : Frame True s t) : Frame True s (t.fpStore u1 fd add old vals) := by
  unfold State.fpStore
  extract_lets a new words b src u1
  refine .ite h (.ite (h.foldl fun _ _ h1 => h1.t0Write) ?_)
  split
  · exact h.stageNow.stageAdd
  · exact h.upd.startJob

theorem noteQstate {o fmt code} (h : Frame w s t) : Frame w s (t.noteQstate o fmt code) := by
  unfold State.noteQstate
  exact .ite h (.ite h.modLkr h)

theorem outTile {f o fmt code k vr vc rows r} (h : Frame True s t) (e : t.outTile f o fmt code k vr vc rows = some r) :
    Frame True s r.2 := by
  unfold State.outTile at e
  extract_lets u1 u2 hb ws fs ovf u3 c u4 u5 q at e
  have h3 : Frame True s u3 := h.noteQstate
  have h4 : Frame True s u4 := .ite h3.logEv.incF.setReg h3
  have h5 : Frame True s u5 := .ite h4.logEv.incF h4
  split at e
  · cases e
    exact h.noteQstate.feed
  · split at e <;> cases e
    exact h5.feed

theorem outLoop {f fmt code k amax xs} (h : Frame True s t) : Frame True s (t.outLoop f fmt code k amax xs).2.2 := by
  induction xs generalizing t code k amax with
  | nil => exact h
  | cons x r ih =>
    obtain ⟨o, vr, vc, rows⟩ := x
    cases rows with
    | none => exact h
    | some rows =>
      rw [State.outLoop]
      split
      · exact h
      · have hu := h.outTile ‹_›
        split
        · exact ih hu
        · exact hu

theorem widen {f fmt} (h : Frame True s t) : Frame True s (t.widen f fmt) := by
  unfold State.widen
  extract_lets h1 u src
  have hu : Frame True s u := h.logEv.incF
  split
  · exact hu.failUnit
  · exact hu.upd.repeatEntry

theorem noteNonfinite {f bad} (h : Frame w s t) : Frame w s (t.noteNonfinite f bad) := by
  unfold State.noteNonfinite
  exact .ite h.logEv h

theorem endUnit {f ctxs fmt} {r : Ended × Nat × State} (_ : Frame True s t) (h : Frame True s r.2.2) :
    Frame True s (t.endUnit f ctxs fmt r) := by
  unfold State.endUnit
  dsimp only
  split
  · exact h.takeTiles.ranFlight
  · exact h.stopIllegal.takeTiles
  · exact h.takeTiles.widen
  · exact .ite h.failUnit h

/-! ## The common abort -/

theorem abortQueues (h : Frame w s t) : Frame w s t.abortQueues :=
  h.upd.dropJobs.upd

theorem resetSync (h : Frame w s t) : Frame w s t.resetSync :=
  h.upd.foldl fun _ _ h1 => h1.unhold

theorem abortStreams (h : Frame w s t) : Frame w s t.abortStreams :=
  (h.foldl fun _ _ h1 => h1.idleCtx).foldl fun _ _ h1 => h1.idleCr

theorem abortLockers (h : Frame w s t) : Frame w s t.abortLockers :=
  (h.foldl fun _ _ h1 => h1.abortLkr).upd

theorem abortMarker (h : Frame w s t) : Frame w s t.abortMarker := by
  unfold State.abortMarker
  extract_lets torn u leave src src1 u1
  have hu1 : Frame w s u1 := h.dropJobs.upd
  exact .ite hu1.logEv hu1

theorem abortColls {a1} (h : Frame w s t) : Frame w s (t.abortColls a1) :=
  ((h.foldl fun _ _ h1 => h1.collAborted).foldl fun _ _ h1 => h1.consumed).upd

theorem restoreHists (h : Frame True s t) : Frame True s t.restoreHists := by
  unfold State.restoreHists
  exact .ite h h.t0Write

theorem abortTutor (h : Frame w s t) : Frame w s t.abortTutor :=
  h.upd

theorem abortActions {a1} (h : Frame True s t) : Frame True s (t.abortActions a1) := by
  unfold State.abortActions
  exact h.abortColls.abortQueues.abortStreams.resetSync.abortLockers.abortMarker.upd.restoreHists.abortTutor.incF.setEvBit

theorem recordAbort {code origin form st confirmed} (h : Frame w s t) : Frame w s (t.recordAbort code origin form st confirmed) :=
  h.setReg.setF.setF

theorem recordConfirmed {st a2} (h : Frame w s t) : Frame w s (t.recordConfirmed st a2) := by
  unfold State.recordConfirmed
  extract_lets s1
  have hs1 : Frame w s s1 := h.recordAbort
  exact .ite hs1 hs1.setF.setF

theorem applyAbort {code origin form} (h : Frame True s t) : Frame True s (t.applyAbort code origin form) := by
  unfold State.applyAbort
  exact .ite h (.ite h.upd h.abortActions)

theorem sendAbort {dst form st a4} (h : Frame w s t) : Frame w s (t.sendAbort dst form st a4) :=
  h.sendColl

theorem sendAbortUp {st a2} (h : Frame w s t) : Frame w s (t.sendAbortUp st a2) := by
  unfold State.sendAbortUp
  refine .ite h.sendAbort ?_
  split
  · exact h.sendAbort
  · exact h

theorem sendAbortDown {st a2} (h : Frame w s t) : Frame w s (t.sendAbortDown st a2) := by
  unfold State.sendAbortDown
  exact .ite h ((h.foldl fun _ _ h1 => h1.sendAbort).foldl fun _ _ h1 => h1.sendAbort)

theorem confirmAbort {st a2} (h : Frame True s t) : Frame True s (t.confirmAbort st a2) := by
  unfold State.confirmAbort
  exact .ite h.recordConfirmed.applyAbort (.ite h.recordConfirmed.upd h)

theorem rootTakes {st a2} (h : Frame True s t) : Frame True s (t.rootTakes st a2) := by
  unfold State.rootTakes
  exact .ite h h.upd.sendAbortDown.confirmAbort

theorem startAbort {code} (h : Frame True s t) : Frame True s (t.startAbort code) := by
  unfold State.startAbort
  refine .ite h ?_
  extract_lets me f st a s1 s2 s3
  have hs3 : Frame True s s3 := h.recordAbort.setF.setF.applyAbort
  exact .ite hs3.rootTakes hs3.sendAbortUp

theorem abortDue (h : Frame True s t) : Frame True s t.abortDue := by
  unfold State.abortDue
  split
  · exact h
  · exact h.upd.startAbort

theorem causeAbort {e low} (h : Frame w s t) : Frame w s (t.causeAbort e low) :=
  h.logEv.upd

theorem applyHeld (h : Frame True s t) : Frame True s t.applyHeld := by
  unfold State.applyHeld
  split
  · exact h
  · extract_lets src u u1
    have hu : Frame True s u := h.upd
    exact (Frame.ite hu hu.recordAbort).applyAbort

theorem stepAbortIn {h1 st a3} (h : Frame True s t) : Frame True s (t.stepAbortIn h1 st a3) := by
  unfold State.stepAbortIn
  exact .ite h.rootTakes (.ite h.sendAbortDown.confirmAbort h.sendAbortUp)

theorem collAbortIn {h1 c k a4} (h : Frame w s t) : Frame w s (t.collAbortIn h1 c k a4) := by
  unfold State.collAbortIn
  exact .ite h.rootAbort (.ite h (.ite h.abortDown.applyCollAbort h.abortUp))

theorem abortFrame {h1 c k pay} (h : Frame True s t) : Frame True s (t.abortFrame h1 c k pay) := by
  unfold State.abortFrame
  exact .ite h.stepAbortIn h.collAbortIn

theorem swAbort (h : Frame w s t) : Frame w s t.swAbort := by
  unfold State.swAbort
  exact .ite h h.causeAbort

theorem rearmFirst (h : Frame w s t) : Frame w s t.rearmFirst :=
  h.upd

/-! ## The commands of the benches and row units -/

theorem countBench {u1 cycles wgrad other} (h : Frame w s t) : Frame w s (t.countBench u1 cycles wgrad other) :=
  (h.foldl fun _ _ h1 => h1.incF).incF.incF

theorem dropBuf {u1} (h : Frame w s t) : Frame w s (t.dropBuf u1) :=
  h.dropJobs.upd

theorem emitOut {f ctxs bad tiles} (h : Frame True s t) : Frame True s (t.emitOut f ctxs bad tiles) := by
  unfold State.emitOut
  extract_lets u fmt
  have hu : Frame True s u := h.noteNonfinite.dropBuf
  exact hu.endUnit hu.outLoop

theorem endPlain {f ctxs bad all} (h : Frame True s t) : Frame True s (t.endPlain f ctxs bad all) := by
  unfold State.endPlain
  extract_lets u
  have hu : Frame True s u := h.noteNonfinite.dropBuf
  exact hu.endUnit hu

theorem runRow {f ctxs op d x b c bad0} (h : Frame True s t) : Frame True s (t.runRow f ctxs op d x b c bad0) := by
  have old : ∀ {p : Prop} {_ : Decidable p} {n a m k v}, (if p then t.fpOld n a m k else .ready []) = .wait v → Frame True s v := by
    intro p _ n a m k v e
    split at e
    · exact h.fpOld e
    · cases e
  unfold State.runRow
  dsimp only
  refine .ite h.refuseUnit ?_
  split
  · exact h.refuseUnit
  · exact old ‹_›
  split
  · exact h.refuseUnit
  · exact old ‹_›
  exact (Frame.ite (Frame.ite h.fpStore h).fpStore (Frame.ite h.fpStore h)).emitOut

theorem runRowop {u1 op} (h : Frame True s t) : Frame True s (t.runRowop u1 op) := by
  unfold State.runRowop
  split
  · exact h
  · refine .ite h ?_
    split
    · exact h
    · extract_lets d at_
      split
      · exact h.refuseUnit
      · exact .ite h.refuseUnit h.runRow

theorem storeOut {f add m n y} {next : State → Bool → State} (h : Frame True s t)
    (hn : ∀ u b, Frame True s u → Frame True s (next u b)) : Frame True s (t.storeOut f add m n y next) := by
  unfold State.storeOut
  refine .ite (hn _ _ h) (.ite h.refuseUnit ?_)
  split
  · exact h.refuseUnit
  · exact h.fpOld ‹_›
  · exact hn _ _ h.fpStore

theorem suspend {f ts op left} (h : Frame w s t) : Frame w s (t.suspend f ts op left) := by
  unfold State.suspend
  extract_lets cmd at_ rows cols n
  refine .ite h.refuseUnit ?_
  split
  · refine .ite h.refuseUnit ?_
    extract_lets v p
    refine .ite h.refuseUnit (.ite h ?_)
    split
    · exact h.stopIllegal.takeTiles
    · exact h.upd.takeTiles.ranFlight
  · exact h.refuseUnit

theorem runProduct {u1 op} (h : Frame True s t) : Frame True s (t.runProduct u1 op) := by
  unfold State.runProduct
  split
  · exact h
  · extract_lets cmd n leave
    refine .ite h ?_
    split
    · exact h
    · extract_lets at_
      split
      · refine .ite h.refuseUnit ?_
        extract_lets v mr nc es y live sh tiles count b u1
        have hu1 : Frame True s u1 := h.runRow
        refine .ite h.refuseUnit ?_
        split
        · exact h.refuseUnit
        · split
          · exact (Frame.ite (.ite h h.upd) ((Frame.ite h h.upd).countBench)).emitOut
          · exact .ite h.refuseUnit (.ite hu1 (.ite (.ite (.ite hu1 hu1.upd) ((Frame.ite hu1 hu1.upd).countBench)) (.ite hu1 hu1.upd)))
          · exact h.storeOut (fun _ _ h1 => (Frame.ite (.ite h1 h1.upd) ((Frame.ite h1 h1.upd).countBench)).endPlain)
      · exact h.suspend

theorem storeItems {f m n vals} {next : State → State} (h : Frame True s t)
    (hn : ∀ u, Frame True s u → Frame True s (next u)) : Frame True s (t.storeItems f m n vals next) := by
  unfold State.storeItems
  refine .ite (hn _ h) (.ite h.refuseUnit ?_)
  split
  · exact h.refuseUnit
  · exact h.fpOld ‹_›
  · exact hn _ h.fpStore

theorem runPaired {u1} (h : Frame True s t) : Frame True s (t.runPaired u1) := by
  unfold State.runPaired
  split
  · exact h
  · extract_lets cmd
    refine .ite h ?_
    split
    · exact h
    · extract_lets p g es vw yg whole bad out
      refine .ite h.refuseUnit ?_
      split
      · exact h.refuseUnit
      · exact .ite (.ite ((Frame.ite h h.countBench).endPlain) ((Frame.ite h h.countBench).emitOut)) (h.storeItems (fun _ h1 => .ite ((Frame.ite h1 h1.countBench).endPlain) ((Frame.ite h1 h1.countBench).emitOut)))

/-! ## The divergence search and its repair -/

theorem ownRollCall {group source ops ws} (h : Frame True s t) : Frame True s (t.ownRollCall group source ops ws) :=
  h.startRoll

theorem replicaRoll {source ops ws} (h : Frame True s t) : Frame True s (t.replicaRoll source ops ws) := by
  unfold State.replicaRoll
  exact .ite (.ite h.issueColl.rollDone h.issueColl) h.ownRollCall

theorem divRound (h : Frame True s t) : Frame True s t.divRound :=
  h.upd.replicaRoll

theorem setDiv {r src} (h : Frame w s t) : Frame w s (t.setDiv r src) :=
  h.setReg.upd

theorem divUnresolved (h : Frame w s t) : Frame w s t.divUnresolved := by
  unfold State.divUnresolved
  exact h.logEv.setDiv.upd.logEv

theorem sendFetch {coord p part tile n} (h : Frame w s t) : Frame w s (t.sendFetch coord p part tile n) :=
  .getD (fun _ => h.sendTo) h

theorem startRepair {src} (h : Frame w s t) : Frame w s (t.startRepair src) :=
  h.upd.foldl fun _ _ h1 => h1.upd.sendFetch

theorem divLocated {major src} (h : Frame w s t) : Frame w s (t.divLocated major src) := by
  unfold State.divLocated
  extract_lets mine s1
  have hs1 : Frame w s s1 := h.setDiv
  exact .ite hs1 hs1.logEv.upd.startRepair

theorem repairWrite {r k pay} (h : Frame True s t) : Frame True s (t.repairWrite r k pay) := by
  unfold State.repairWrite
  exact h.upd.writeState

theorem repairTile {r} (h : Frame True s t) : Frame True s (t.repairTile r) := by
  unfold State.repairTile
  split
  · exact h
  · exact .ite h.fetchTile h.repairWrite

theorem repairEnd {r} (h : Frame w s t) : Frame w s (t.repairEnd r) := by
  unfold State.repairEnd
  exact h.setReg.upd.logEv

theorem repairGo (h : Frame True s t) : Frame True s t.repairGo := by
  unfold State.repairGo
  split
  · exact h
  refine .ite h (.ite (.ite h ?_) (.ite (.ite h.repairTile ?_) h.repairEnd))
  · exact h.takeEpoch.upd.repairTile
  · split
    rename_i a u _ e
    split
    rename_i d v e2
    extract_lets y pr m u1 u2 n x u3 u4
    have hv : Frame True s v := (h.draw.snd e).draw.snd e2
    have h3 : Frame True s u3 := hv.upd.setReg.upd
    have h4 : Frame True s u4 := h3.foldl fun _ _ h => h.writeState
    exact .ite h4.repairEnd h4

theorem markerWritten {part} (h : Frame True s t) : Frame True s (t.markerWritten part) := by
  unfold State.markerWritten
  split
  · exact h.markerWrote
  · exact h.upd.repairGo

theorem repairGot {k pay} (h : Frame True s t) : Frame True s (t.repairGot k pay) := by
  unfold State.repairGot
  split
  · exact h
  · exact h.upd.repairGo

theorem divTile {piece part tile pay} (h : Frame True s t) : Frame True s (t.divTile piece part tile pay) := by
  unfold State.divTile
  extract_lets u d need src src1 u1
  have hu : Frame True s u := by
    unfold u
    split
    · exact .ite h.repairWrite h
    · exact h
  have hu1 : Frame True s u1 := hu.upd
  exact .ite (.ite hu1.divRound hu1) hu

theorem divTiles {p} (h : Frame w s t) : Frame w s (t.divTiles p) :=
  h.upd.foldl fun _ _ h1 => h1.fetchTile

theorem divStart (h : Frame True s t) : Frame True s t.divStart := by
  unfold State.divStart
  extract_lets d src src1 u
  have hu : Frame True s u := h.upd
  exact .ite hu.divUnresolved (.ite hu.divTiles hu.divRound)

theorem divResult {ws} (h : Frame True s t) : Frame True s (t.divResult ws) := by
  unfold State.divResult
  extract_lets d m n src ones
  refine .ite (.ite h.divLocated (.ite h.divLocated h.divUnresolved)) ?_
  split
  · exact h.divUnresolved
  · extract_lets p d1 u src1 u1 mine c src2 src3 u2
    have hu : Frame True s u := h.upd
    have hu1 : Frame True s u1 := hu.upd
    exact .ite hu.divRound (.ite hu.divTiles (.ite hu1.divUnresolved hu1.upd.replicaRoll))

/-! ## The closing sequence of a step -/

theorem modTut {f} (h : Frame w s t) : Frame w s (t.modTut f) :=
  h.upd

theorem setClosing {c} (h : Frame w s t) : Frame w s (t.setClosing c) :=
  h.modTut

theorem takeReady {src ws} (h : Frame w s t) (e : t.takeReady src = some (ws, u)) : Frame w s u := by
  unfold State.takeReady at e
  split at e
  · cases e
  · cases e
    exact h.upd

theorem closeArrive (h : Frame w s t) : Frame w s t.closeArrive :=
  h.setClosing.arriveAll

theorem closingStep (h : Frame True s t) : Frame True s t.closingStep := by
  unfold State.closingStep
  split
  · exact .ite h.gateBegins.setClosing.ownRollCall h
  · split
    · exact h
    · have h1 := h.takeReady ‹_›
      exact h1.gateCompletes.setClosing
  · exact .ite h h.setClosing.replicaRoll
  · split
    · exact h
    · have h1 := h.takeReady ‹_›
      exact .ite h1.setClosing (.ite h1.logEv.divStart h1.logEv.setClosing)
  · split
    · exact h
    · have h1 := h.takeReady ‹_›
      exact h1.divResult
  · exact .ite h h.setClosing.ownRollCall
  · split
    · exact h
    · have h1 := h.takeReady ‹_›
      exact h1.closeArrive
  · exact h

theorem closingLoop {a0} (h : Frame True s t) : Frame True s (Machine.closingLoop a0 t) := by
  induction a0 generalizing t  with
  | zero => exact h
  | succ a0 ih =>
    rw [Machine.closingLoop]
    exact ih h.closingStep

theorem retryColl {w1} (h : Frame True s t) : Frame True s (t.retryColl w1) := by
  unfold State.retryColl
  extract_lets h1 c k src u
  have hu : Frame True s u := h.consumed
  exact .ite h.upd (.ite hu.rcExch (.ite hu.rcUp (.ite hu.redUp hu.redDown)))

theorem retryColls (h : Frame True s t) : Frame True s t.retryColls :=
  h.upd.foldl fun _ _ h1 => h1.retryColl

theorem settle (h : Frame True s t) : Frame True s t.settle :=
  h.retryColls.abortDue.closingLoop

theorem helloUps (h : Frame w s t) : Frame w s t.helloUps :=
  h.foldl fun _ _ h1 => .ite h1.sendPlain h1

theorem setMasks (h : Frame w s t) : Frame w s t.setMasks :=
  h.upd

theorem installPartial {step} (h : Frame True s t) : Frame True s (t.installPartial step) := by
  unfold State.installPartial
  split
  · refine .ite h ?_
    extract_lets all f1 src u u1 brings u2 u3 src1 u4 u5 u6
    have hu1 : Frame True s u1 := h.upd.setF
    have hu2 : Frame True s u2 := .ite hu1.setReg hu1
    have hu3 : Frame True s u3 := .ite hu2.emptyHists hu2
    have hu4 : Frame True s u4 := .ite hu3.upd hu3
    have hu5 : Frame True s u5 := .ite (hu4.setMasks.foldl fun _ _ h1 => h1.testAsm) hu4
    exact (Frame.ite hu5.helloUps hu5).emit.logPlain
  · exact h

theorem shadowHists (h : Frame w s t) : Frame w s t.shadowHists :=
  h.upd

theorem freeConsumed (h : Frame w s t) : Frame w s t.freeConsumed :=
  (h.foldl fun _ _ h1 => h1.freeLkr).upd

theorem closeRelease (h : Frame w s t) : Frame w s t.closeRelease := by
  unfold State.closeRelease
  exact .ite h.release h

theorem boundaryActs (h : Frame True s t) : Frame True s t.boundaryActs :=
  h.upd.rebase.installPartial.freeConsumed.shadowHists

/-! ## The tutor's sequencer -/

theorem startPeriod {p} (h : Frame w s t) : Frame w s (t.startPeriod p) :=
  h.modTut.prefetchAt

theorem drainLoop {a0} (h : Frame w s t) : Frame w s (Machine.drainLoop a0 t) := by
  induction a0 generalizing t  with
  | zero => exact h
  | succ a0 ih =>
    rw [Machine.drainLoop]
    exact .ite (ih h.modTut) h

theorem drainPeriods (h : Frame w s t) : Frame w s t.drainPeriods :=
  h.drainLoop

theorem copyLoop {a0 a2 a3} (h : Frame True s t) : Frame True s (Machine.copyLoop a0 t a2 a3) := by
  induction a0 generalizing t a2 a3 with
  | zero => exact h
  | succ a0 ih =>
    rw [Machine.copyLoop]
    exact .ite h (ih h.emit.append.modTut)

theorem entryCopy {kind run entry} (h : Frame True s t) : Frame True s (t.entryCopy kind run entry) := by
  unfold State.entryCopy
  split
  · exact h
  · extract_lets q
    split
    · exact h
    · exact .ite h.copyLoop h

theorem startStep {exam} (h : Frame w s t) : Frame w s (t.startStep exam) :=
  h.modTut.upd.startPeriod.drainPeriods

theorem startCkpt (h : Frame w s t) : Frame w s t.startCkpt :=
  h.modTut.upd

theorem beginChange {ty} (h : Frame w s t) : Frame w s (t.beginChange ty).2 := by
  unfold State.beginChange
  split
  · exact pair h.logEv
  · exact pair h.modTut

theorem haltDone (h : Frame w s t) : Frame w s t.haltDone := by
  unfold State.haltDone
  exact .ite h.upd h

theorem betweenGo {a0} (h : Frame w s t) : Frame w s (Machine.betweenGo a0 t) := by
  induction a0 generalizing t  with
  | zero => exact h
  | succ a0 ih =>
    rw [Machine.betweenGo]
    split
    · exact h.startStep
    · extract_lets u every
      have hu : Frame w s u := h.modTut
      exact .ite hu.modTut.startStep (ih hu)
    · extract_lets u
      have hu : Frame w s u := h.modTut
      exact .ite hu.startCkpt.modTut (ih hu)
    · extract_lets u u1
      have hu : Frame w s u := h.modTut
      have hu1 : Frame w s u1 := .ite hu.setF hu
      split
      · exact ih hu
      · exact .ite hu1.beginChange (ih hu1.beginChange)
    · exact .ite h.modTut.haltDone h.startStep

theorem goOn (h : Frame w s t) : Frame w s t.goOn := by
  unfold State.goOn
  exact .ite h h.betweenGo

theorem examEnd (h : Frame w s t) : Frame w s t.examEnd :=
  (h.foldl fun _ _ h1 => h1.releaseLkr).incF.modTut.goOn

theorem entriesEnded (h : Frame w s t) : Frame w s t.entriesEnded := by
  unfold State.entriesEnded
  extract_lets u u1
  have hu : Frame w s u := h.drainPeriods
  exact (Frame.ite hu.examEnd hu).haltDone

theorem periodStart (h : Frame w s t) : Frame w s t.periodStart := by
  unfold State.periodStart
  exact .ite h (.ite h h.startPeriod.entriesEnded)

theorem closingStart (h : Frame w s t) : Frame w s t.closingStart := by
  unfold State.closingStart
  refine .ite ?_ h
  extract_lets s1
  have hs1 : Frame w s s1 := h.modTut
  exact .ite hs1.setClosing hs1.closeArrive

theorem boundaryAct (h : Frame True s t) : Frame True s t.boundaryAct := by
  unfold State.boundaryAct
  refine .ite h ?_
  extract_lets u mine u1 u2 u3 u4 u5
  have hu : Frame True s u := h.modTut
  have hu2 : Frame True s u2 := (Frame.ite hu.closeRelease hu).boundaryActs
  have hu4 : Frame True s u4 := hu2.modTut.applyHeld
  exact .ite hu2 (.ite hu4 (Frame.ite hu4.startCkpt hu4).goOn.entriesEnded)

theorem changeLkr {b l} (h : Frame w s t) : Frame w s (t.changeLkr b l) := by
  unfold State.changeLkr
  refine .ite h.releaseLkr ?_
  split
  · exact .ite h.logEv.releaseLkr h
  · exact h

theorem installTerm {t1} (h : Frame w s t) : Frame w s (t.installTerm t1) := by
  unfold State.installTerm
  exact h.modTut

theorem dropHomework {t1} (h : Frame w s t) : Frame w s (t.dropHomework t1) := by
  unfold State.dropHomework
  exact .ite ((h.foldl fun _ _ h1 => h1.freeRun).logEv) h

theorem termChange (h : Frame True s t) : Frame True s t.termChange := by
  unfold State.termChange
  exact .ite h ((h.foldl fun _ _ h1 => h1.changeLkr).dropHomework.resetSync.installTerm.logEv.incF.modTut.applyHeld.goOn.entriesEnded)

theorem ttbRefused (h : Frame w s t) : Frame w s t.ttbRefused :=
  h.logEv

theorem takeRequest (h : Frame w s t) : Frame w s t.takeRequest := by
  unfold State.takeRequest
  refine .ite h ?_
  extract_lets t
  have ht : Frame w s t := h.setF
  exact .ite ht ht.logEv

theorem runIn {t1} (h : Frame w s t) : Frame w s (t.runIn t1) := by
  unfold State.runIn
  exact .ite h.installTerm.startStep (.ite h.startStep h.modTut)

theorem ttbRun (h : Frame w s t) : Frame w s t.ttbRun := by
  unfold State.ttbRun
  exact .ite h.ttbRefused (.ite h.takeRequest.ttbRefused h.takeRequest.runIn)

theorem ttbHalt (h : Frame w s t) : Frame w s t.ttbHalt := by
  unfold State.ttbHalt
  exact .ite h.ttbRefused h.modTut

theorem ttbNext {v} (h : Frame w s t) : Frame w s (t.ttbNext v) := by
  unfold State.ttbNext
  exact .ite h.ttbRefused h.setReg

/-! ## Sealed checkpoint images -/

theorem exportRead (h : Frame w s t) : Frame w s t.exportRead := by
  unfold State.exportRead
  split
  · exact h
  · exact .ite h.fetchTile h

theorem exportHave {i g} (h : Frame w s t) : Frame w s (t.exportHave i g) := by
  unfold State.exportHave
  split
  · exact h
  · exact .ite h h.upd.startJob.exportRead

theorem exportGot {i rd g} (h : Frame w s t) : Frame w s (t.exportGot i rd g) := by
  unfold State.exportGot
  exact .ite h.exportHave h.beginRecovery

theorem exportWrote (h : Frame w s t) : Frame w s t.exportWrote := by
  unfold State.exportWrote
  split
  · exact h
  · exact h.upd

/-! ## Recovery of tiles -/

theorem modRecov {id f} (h : Frame w s t) : Frame w s (t.modRecov id f) :=
  h.upd

theorem nextRecov (h : Frame w s t) : Frame w s t.nextRecov := by
  unfold State.nextRecov
  refine .ite h ?_
  split
  · exact h
  · exact h.modRecov.refetch

theorem dropRecov {id} (h : Frame w s t) : Frame w s (t.dropRecov id) :=
  h.upd.nextRecov

theorem recovTo {rd g n} (h : Frame True s t) : Frame True s (t.recovTo rd g n) := by
  unfold State.recovTo
  split
  · exact .ite h.modEntry h
  · exact h.storeLocker
  · extract_lets run
    clear_value run
    refine .ite ?_ h.markerHave.divTile
    split
    · exact h
    split
    have h1 := h.stagedSeal.snd ‹_›
    exact .ite h1.markerHave.causeAbort h1.markerHave
  · exact h.exportHave
  · exact h

theorem undetain {l} (h : Frame w s t) : Frame w s (t.undetain l) := by
  unfold State.undetain
  refine .ite h ?_
  extract_lets s1
  have hs1 : Frame w s s1 := h.modEnt
  exact .ite hs1.runComplete hs1.impliedDue

theorem recovLog {r} (h : Frame w s t) : Frame w s (t.recovLog r) := by
  unfold State.recovLog
  split
  · exact .ite h h.incF.logEv
  · exact h.incF.logEv

theorem writeBack {r g} (h : Frame True s t) : Frame True s (t.writeBack r g) := by
  unfold State.writeBack
  split
  · exact h.modRecov.writeState
  · extract_lets u
    have hu : Frame True s u := h.modRecov
    exact .ite hu.forSlot.writePay.writeHead hu.forSlot.writePay
  · exact h

theorem recovered {r g} (h : Frame True s t) : Frame True s (t.recovered r g) := by
  unfold State.recovered
  extract_lets u u1 u2 u3
  have hu : Frame True s u := .ite h.recovLog h
  have hu1 : Frame True s u1 := .ite hu.dropRecov hu.writeBack
  have hu2 : Frame True s u2 := .ite hu1.dropRecov.recovLog hu1
  have hu3 : Frame True s u3 := by
    unfold u3
    split
    · exact hu2.undetain
    · exact hu2
  exact hu3.foldl fun _ _ h1 => h1.recovTo

theorem writeBackDone {id ok} (h : Frame w s t) : Frame w s (t.writeBackDone id ok) := by
  unfold State.writeBackDone
  split
  · exact h
  · extract_lets s1
    have hs1 : Frame w s s1 := h.dropRecov
    exact .ite hs1.recovLog hs1

theorem needRestore (h : Frame w s t) : Frame w s t.needRestore :=
  h.upd.logEv

theorem recovLost {r} (h : Frame w s t) : Frame w s (t.recovLost r) := by
  unfold State.recovLost
  extract_lets s1 s2 s3 out s4
  have hs3 : Frame w s s3 := h.incF.causeAbort.dropRecov
  have hs4 : Frame w s s4 := .ite hs3.upd hs3
  split
  · exact hs4.abortLkr
  · exact hs4.needRestore
  · exact hs4.needRestore
  · exact hs4

theorem beginSource {r n u} (h : Frame w s t) (e : t.beginSource r n = some u) : Frame w s u := by
  unfold State.beginSource at e
  dsimp only at e
  split at e
  · split at e <;> cases e
    exact h.modRecov.fetchTile
  · split at e
    · cases e
      exact h.modRecov.foldl fun _ _ h => h.fetchTile
    · split at e
      · split at e <;> cases e
        exact h.modRecov.sendFetch
      · split at e <;> cases e
        exact h.modRecov.startJob
  · cases e

theorem trySources {r ns} (h : Frame w s t) : Frame w s (t.trySources r ns) := by
  induction ns with
  | nil => exact h.recovLost
  | cons n rest ih =>
    rw [State.trySources]
    split
    · exact h.beginSource ‹_›
    · exact ih

theorem nextSource {r} (h : Frame w s t) : Frame w s (t.nextSource r) :=
  h.trySources

theorem regenGot {id tile g} (h : Frame w s t) : Frame w s (t.regenGot id tile g) := by
  unfold State.regenGot
  split
  · exact h
  · refine .ite h (.ite h.modRecov ?_)
    extract_lets need got
    split
    · exact h.modRecov
    · exact h.modRecov
    · exact h.modRecov

theorem recordTileOf {h1 pay} (h : Frame w s t) : Frame w s (t.recordTileOf h1 pay).2 := by
  unfold State.recordTileOf
  split
  · exact h
  · split
    · exact (h.expand.snd ‹_›)
    · exact (h.expand.snd ‹_›)

theorem ckptRecordGot {id b} (h : Frame w s t) : Frame w s (t.ckptRecordGot id b) := by
  unfold State.ckptRecordGot
  split
  · exact h
  extract_lets x
  have hx : Frame w s x.2 := by
    unfold x
    split
    · split
      · exact h
      · exact h.recordTileOf
    · exact h
  exact hx.modRecov

theorem sourceResult {r ok tile} (h : Frame w s t) : Frame w s (t.sourceResult r ok tile).2 := by
  unfold State.sourceResult
  split
  · exact h.readNow
  · split
    · split
      · exact h
      · split
        · exact (h.satExpanded.snd ‹_›)
        · exact (h.satExpanded.snd ‹_›)
    · exact h

theorem repairFetched {r g} (h : Frame True s t) : Frame True s (t.repairFetched r g) := by
  unfold State.repairFetched
  refine .ite h.recovLost ?_
  extract_lets s1
  have hs1 : Frame True s s1 := h.dropRecov
  split
  · exact hs1.repairGot
  · exact hs1

theorem sourceDone {id ok tile} (h : Frame True s t) : Frame True s (t.sourceDone id ok tile) := by
  unfold State.sourceDone
  split
  · exact h
  · refine .ite h ?_
    split
    · exact (h.sourceResult.snd ‹_›)
    · refine .ite ?_ (.ite (((h.sourceResult.snd ‹_›)).repairFetched) (.ite (((h.sourceResult.snd ‹_›)).recovered) (((h.sourceResult.snd ‹_›)).nextSource)))
      extract_lets u
      have hu : Frame True s u := ((h.sourceResult.snd ‹_›)).dropRecov
      split
      · exact hu.settleLkr
      · exact hu

theorem fetchRefuse {coord form} (h : Frame w s t) : Frame w s (t.fetchRefuse coord form) :=
  .getD (fun _ => h.sendTo) h

theorem fetchEnd {f} (h : Frame w s t) : Frame w s (t.fetchEnd f) := by
  unfold State.fetchEnd
  extract_lets src u
  have hu : Frame w s u := h.upd
  refine .ite hu.fetchRefuse ?_
  split
  · exact hu
  · exact hu.foldl fun _ _ h1 => h1.sendSatchel

theorem fetchGot {id i rd g} (h : Frame w s t) : Frame w s (t.fetchGot id i rd g) := by
  unfold State.fetchGot
  extract_lets s1
  have hs1 : Frame w s s1 := .ite h h.beginRecovery
  split
  · exact hs1
  · exact .ite hs1.fetchEnd hs1.upd

theorem fetchIn {p h2 pay} (h : Frame w s t) : Frame w s (t.fetchIn p h2 pay) := by
  unfold State.fetchIn
  extract_lets s1 pc part t n
  have hs1 : Frame w s s1 := h.consumed
  exact .ite hs1.fetchRefuse (hs1.upd.foldl fun _ _ h1 => h1.fetchTile)

theorem stateFetch {p fr bad} (h : Frame w s t) : Frame w s (t.stateFetch p fr bad) :=
  h.onFrame (fun _ _ _ h1 => .ite h (.ite h1.refuseFrame h1.fetchIn))

theorem scrubCorrected {g} (h : Frame w s t) : Frame w s (t.scrubCorrected g) := by
  unfold State.scrubCorrected
  extract_lets u u1 ms src
  have hu1 : Frame w s u1 := (Frame.ite h.incF h).incF
  exact .ite hu1 hu1.upd.logEv

theorem scrub {w1 bits} (h : Frame w s t) : Frame w s (t.scrub w1 bits) := by
  unfold State.scrub
  exact .ite h (.ite h.scrubCorrected h.upd.incF.logEv)

theorem stageTimeout {piece block} (h : Frame w s t) : Frame w s (t.stageTimeout piece block) := by
  unfold State.stageTimeout
  split
  · exact h
  · exact h.causeAbort

theorem placeTimeout {q} (h : Frame w s t) : Frame w s (t.placeTimeout q) := by
  unfold State.placeTimeout
  split
  · exact h
  · exact .ite h.causeAbort h.upd.logEv.stopQueue

theorem sramLost {a1} (h : Frame w s t) : Frame w s (t.sramLost a1) := by
  unfold State.sramLost
  extract_lets u src u1 src1
  have hu : Frame w s u := h.incF
  have hu1 : Frame w s u1 := hu.logEv
  split
  · exact hu.upd
  · exact hu.upd
  · exact hu.upd.causeAbort
  · split
    · exact hu1
    · exact hu1.failUnit
  · exact hu.logEv
  · exact h.upd

theorem sramRead {a1 bits} (h : Frame w s t) : Frame w s (t.sramRead a1 bits) := by
  unfold State.sramRead
  exact .ite h (.ite h.scrubCorrected h.sramLost)

/-! ## The loader -/

theorem modLoad {f} (h : Frame w s t) : Frame w s (t.modLoad f) :=
  h.upd

theorem sylRefuse {e} (h : Frame w s t) : Frame w s (t.sylRefuse e) :=
  h.logEv

theorem sylEnd {e} (h : Frame w s t) : Frame w s (t.sylEnd e) :=
  h.modLoad.sylRefuse

theorem sylStart {kind src halted} (h : Frame w s t) : Frame w s (t.sylStart kind src halted) := by
  unfold State.sylStart
  extract_lets u u1 push u2
  have hu1 : Frame w s u1 := h.setF.setF.wake
  have hu2 : Frame w s u2 := hu1.modLoad
  exact .ite hu1.sylRefuse (.ite hu2 (.ite hu2.sylEnd hu2.emit))

theorem sylStarted (h : Frame w s t) : Frame w s t.sylStarted := by
  unfold State.sylStarted
  exact .ite h h.modLoad

theorem sylAbort (h : Frame w s t) : Frame w s t.sylAbort := by
  unfold State.sylAbort
  extract_lets s1
  have hs1 : Frame w s s1 := h.wake
  exact .ite hs1.sylEnd hs1

theorem sylPush {w1} (h : Frame w s t) : Frame w s (t.sylPush w1) := by
  unfold State.sylPush
  refine .ite h.logEv ?_
  extract_lets at_ s1 s2 n
  have hs2 : Frame w s s2 := h.modLoad.emit
  exact .ite hs2.sylEnd hs2

theorem sendSections {im} (h : Frame w s t) : Frame w s (t.sendSections im) := by
  unfold State.sendSections
  exact .ite h (h.foldl fun _ _ h1 => h1.emit)

theorem sylVerified {im} (h : Frame w s t) : Frame w s (t.sylVerified im) := by
  unfold State.sylVerified
  extract_lets u u1
  have hu : Frame w s u := h.sendSections
  exact .ite hu.modLoad (Frame.ite hu.logPlain hu).modLoad

theorem imageReceived {img ok} (h : Frame w s t) : Frame w s (t.imageReceived img ok) := by
  unfold State.imageReceived
  extract_lets mine b kind u
  have hu : Frame w s u := .ite h.emit h
  refine .ite h (.ite h.sylEnd (.ite h.sylEnd ?_))
  split
  · exact hu.sylEnd
  · exact hu.sylVerified

theorem clearRegs (h : Frame w s t) : Frame w s t.clearRegs := by
  unfold State.clearRegs
  extract_lets s1 s2
  have hs2 : Frame w s s2 := by
    refine (h.foldl fun _ _ h1 => h1.setReg).foldl fun u x h1 => ?_
    · split
      · exact h1.setF
      · exact h1
  exact hs2.setF

theorem linksAtLoad (h : Frame w s t) : Frame w s t.linksAtLoad :=
  (h.foldl fun _ _ h1 => h1.leaveUp.modFlink).upd

theorem fenceLinks (h : Frame w s t) : Frame w s t.fenceLinks :=
  h.foldl fun _ _ h1 => .ite (.ite h1 h1.modFlink) (.ite h1.modFlink h1)

theorem loadClear (h : Frame True s t) : Frame True s t.loadClear := by
  unfold State.loadClear
  extract_lets u v x
  have hx : Frame True s x := ((h.foldl fun _ _ h => h.abortLkr).dropJobs).linksAtLoad
  exact ⟨hx.pending, .inl trivial, hx.part, fun _ => Eq.refl _⟩

theorem loadInstall {im cycles} (h : Frame w s t) : Frame w s (t.loadInstall im cycles) :=
  h.emit.upd.emit.setMasks.fenceLinks.clearRegs.setF.setF.setReg.setReg.logPlain.readRecords

theorem dropSyllabus (h : Frame w s t) : Frame w s t.dropSyllabus :=
  h.upd.modLoad.modTut

theorem fullLoadApply {cycles last} (h : Frame True s t) : Frame True s (t.fullLoadApply cycles last) := by
  unfold State.fullLoadApply
  split
  · exact h.loadClear.dropSyllabus
  · exact h.loadClear.dropSyllabus
  · exact h
  · exact h.loadClear.dropSyllabus.sylRefuse
  · exact h.loadClear.loadInstall

/-! ## Checkpoints, restores and exports -/

theorem ckptBegin {c} (h : Frame w s t) : Frame w s (t.ckptBegin c) := by
  unfold State.ckptBegin
  extract_lets x u k u1 dst src
  have hu : Frame w s u := h.beginPass
  have hu1 : Frame w s u1 := hu.upd
  refine .ite hu.logEv.haltWith (.ite hu1 ?_)
  split
  · exact hu1.haltCtx
  · exact hu1.upd

theorem ckptStream {q} (h : Frame True s t) : Frame True s (t.ckptStream q) := by
  unfold State.ckptStream
  split
  · exact h
  · extract_lets c st r u u1
    have hu : Frame True s u := h.modStm
    exact .ite h.logEv.modStm.stopQueue (.ite hu.logEv.modStm.stopQueue hu.acceptCmd.modStm.ckptBegin.stir)

theorem ckptRead {c e} (h : Frame w s t) : Frame w s (t.ckptRead c e) :=
  h.fetchTile

theorem ckptAgain {c} (h : Frame w s t) : Frame w s (t.ckptAgain c) :=
  h.foldl fun _ _ h1 => h1.modEntry.ckptRead

theorem ckptIssue {c} (h : Frame w s t) : Frame w s (t.ckptIssue c) := by
  unfold State.ckptIssue
  extract_lets s1 x i
  have hs1 : Frame w s s1 := h.ckptAgain
  exact .ite hs1 (.ite hs1.modStm (.ite hs1.haltCtx hs1.modStm.ckptRead))

theorem sealSend {port dst form ep i b} (h : Frame w s t) : Frame w s (t.sealSend port dst form ep i b) :=
  h.foldl fun _ _ h1 => .getD (fun _ => h1.sendTo) h1

theorem sealRecord {c e} (h : Frame w s t) : Frame w s (t.sealRecord c e) := by
  unfold State.sealRecord
  split
  · exact h
  · exact .ite h.upd.sealSend.upd.delivered h.upd.modEntry.startJob

theorem ckptReceive {c} (h : Frame w s t) : Frame w s (t.ckptReceive c) := by
  unfold State.ckptReceive
  split
  · exact h
  · exact .ite h.sealRecord h.haltCtx

theorem ckptFinish {ok} (h : Frame w s t) : Frame w s (t.ckptFinish ok) := by
  unfold State.ckptFinish
  extract_lets k u u1 inT3 u2 u3
  have hu1 : Frame w s u1 := h.modTut.upd
  have hu2 : Frame w s u2 := by
    unfold u2
    split
    · exact .ite hu1.setReg.setReg hu1
    · exact hu1
  have hu3 : Frame w s u3 := .ite hu2.logEv.incF hu2
  exact .ite hu3.modTut.goOn hu3.haltDone

theorem sealWrite {phase off w3 b} (h : Frame w s t) : Frame w s (t.sealWrite phase off w3 b) := by
  unfold State.sealWrite
  exact h.upd.startJob

theorem sealOver {w1 parts} (h : Frame w s t) : Frame w s (t.sealOver w1 parts) := by
  unfold State.sealOver
  extract_lets dst
  split
  · exact h.ckptFinish
  · exact (h.foldl fun _ _ h1 => h1.sealSend).ckptFinish

theorem checkpointEnd (h : Frame w s t) : Frame w s t.checkpointEnd := by
  unfold State.checkpointEnd
  split
  · exact h
  · refine .ite h ?_
    split
    · exact h.ckptFinish
    · exact .ite h.sealOver h.sealWrite

theorem sealWrote {tag ok} (h : Frame w s t) : Frame w s (t.sealWrote tag ok) := by
  unfold State.sealWrote
  split
  · exact h
  · refine .ite ?_ (.ite h.ckptFinish (.ite ?_ h.ckptFinish))
    · extract_lets s1 c i
      have hs1 : Frame w s s1 := h.upd
      exact .ite hs1 (.ite hs1.delivered hs1.haltCtx)
    · split
      · exact h.sealWrite
      · exact h.ckptFinish

theorem secBusy (h : Frame w s t) : Frame w s t.secBusy :=
  h.logEv

theorem restoreStart (h : Frame w s t) : Frame w s t.restoreStart := by
  unfold State.restoreStart
  exact .ite h.secBusy h.upd.startJob

theorem restoreBad {step} (h : Frame w s t) : Frame w s (t.restoreBad step) := by
  unfold State.restoreBad
  extract_lets s1 s2 s3
  have hs3 : Frame w s s3 := h.dropJobs.upd.logEv
  exact .ite hs3.needRestore hs3

theorem restoreRead {r} (h : Frame w s t) : Frame w s (t.restoreRead r) :=
  h.startJob

theorem restoreHead {x b} (h : Frame w s t) : Frame w s (t.restoreHead x b) := by
  unfold State.restoreHead
  split
  · exact h.restoreBad
  · exact h.upd.startJob

theorem restoreIndex {x b} (h : Frame w s t) : Frame w s (t.restoreIndex x b) := by
  unfold State.restoreIndex
  extract_lets n
  split
  · exact h.restoreBad
  · exact .ite h.restoreBad h.setReg.upd.restoreRead

theorem restoreSlots {x} (h : Frame True s t) : Frame True s (t.restoreSlots x) :=
  h.upd.foldl fun _ _ h1 => h1.writeState

theorem restoreOn (h : Frame True s t) : Frame True s t.restoreOn := by
  unfold State.restoreOn
  split
  · exact h
  · exact .ite h.restoreSlots h

theorem restoreTile {x tile hd pay} (h : Frame True s t) : Frame True s (t.restoreTile x tile hd pay).2 := by
  unfold State.restoreTile
  split
  · split
    · rename_i e
      split at e
      · exact h.expand.snd e
      · cases e
    · rename_i pay v e
      have hv : Frame True s v := by
        split at e
        · exact h.expand.snd e
        · cases e
          exact h
      extract_lets loc g
      split
      have h1 := hv.forSlot.snd ‹_›
      extract_lets y z
      have hz : Frame True s z := h1.upd
      exact hz.writePay
  · exact iteSnd (pair h.recordTileOf.upd) (pair h.recordTileOf)
  · exact h

theorem restoreRecord {x r b} (h : Frame True s t) : Frame True s (t.restoreRecord x r b) := by
  unfold State.restoreRecord
  have h1 := fun x tile hd pay => h.restoreTile (x := x) (tile := tile) (hd := hd) (pay := pay)
  generalize t.restoreTile = f, openRecord = o at h1 ⊢
  as_aux_lemma =>
    refine .ite h ?_
    split
    · split
      · exact (snd (h1 _ _ _ _) ‹_›).restoreBad
      · have h2 := snd (h1 _ _ _ _) ‹_›
        exact .ite h2.restoreRead h2.restoreOn
    · exact h.restoreBad

theorem restoreGot {tag b} (h : Frame True s t) : Frame True s (t.restoreGot tag b) := by
  unfold State.restoreGot
  split
  · exact h
  · split
    · exact h.restoreBad
    · exact .ite h.restoreHead (.ite h.restoreIndex h.restoreRecord)

theorem restoreWrote {ok} (h : Frame True s t) : Frame True s (t.restoreWrote ok) := by
  unfold State.restoreWrote
  split
  · exact h
  · exact .ite h.restoreBad h.upd.restoreOn

theorem restoreComplete (h : Frame True s t) : Frame True s t.restoreComplete := by
  unfold State.restoreComplete
  split
  · exact h
  · exact .ite h ((h.upd.setReg.foldl fun _ _ h1 => h1.markerHave).upd.logEv)

theorem exportStart {v} (h : Frame w s t) : Frame w s (t.exportStart v) := by
  unfold State.exportStart
  extract_lets s1
  have hs1 : Frame w s s1 := h.setF
  exact .ite hs1 (.ite hs1.secBusy hs1.upd.exportRead)

theorem exportComplete (h : Frame w s t) : Frame w s t.exportComplete := by
  unfold State.exportComplete
  split
  · exact h
  · exact .ite h h.upd

/-! ## Couriers -/

theorem crsLog {k e bit} (h : Frame w s t) : Frame w s (t.crsLog k e bit) :=
  h.logEntry.modCr

theorem crsRun {k by_} (h : Frame w s t) : Frame w s (t.crsRun k by_) :=
  h.modCr

theorem crsStart {k by_} (h : Frame w s t) : Frame w s (t.crsStart k by_).2 := by
  unfold State.crsStart
  split
  · exact h.crsLog
  · exact h.crsRun

theorem crsFail {space addr wr cause} (h : Frame w s t) : Frame w s (t.crsFail space addr wr cause) :=
  h.upd

theorem crsWrite {k data old} (h : Frame True s t) : Frame True s (t.crsWrite k data old) := by
  unfold State.crsWrite
  extract_lets x a sp out src u u1 src1
  have hu : Frame True s u := h.upd
  split
  · exact h.crsFail
  · exact .ite hu.t0Write.upd hu.startJob

theorem crsRead {k} (h : Frame True s t) : Frame True s (t.crsRead k) := by
  unfold State.crsRead
  extract_lets x a sp da dsp edge bad y u
  have hu : Frame True s u := h.upd
  clear_value u bad edge
  split
  · exact h.crsFail
  split
  · exact h.logEv.crsFail
  exact .ite hu.crsWrite hu.startJob

theorem crsReadEnd {j k} (h : Frame True s t) : Frame True s (t.crsReadEnd j k) := by
  unfold State.crsReadEnd
  exact .ite h (.ite (.ite h.crsFail h.crsFail) h.crsWrite)

theorem crsWriteEnd {j k} (h : Frame w s t) : Frame w s (t.crsWriteEnd j k) := by
  unfold State.crsWriteEnd
  exact .ite h (.ite h.crsFail h.upd)

theorem courierBurst (h : Frame True s t) : Frame True s t.courierBurst := by
  unfold State.courierBurst
  refine .ite h ?_
  split
  · exact h
  · exact h.upd.modCr.crsRead

theorem paceEvent {k} (h : Frame w s t) : Frame w s (t.paceEvent k) := by
  unfold State.paceEvent
  exact .ite h (.ite h.modCr h.crsLog)

theorem paceOthers {k} (h : Frame w s t) : Frame w s (t.paceOthers k) :=
  h.foldl fun _ _ h1 => .ite h1.paceEvent h1

theorem crsSpoil {k} (h : Frame True s t) : Frame True s (t.crsSpoil k) := by
  unfold State.crsSpoil
  exact .ite h (h.foldl fun _ _ h1 => .ite h1 h1.drawBytes.t0Write)

theorem crsHalt {k space addr wr cause} (h : Frame True s t) : Frame True s (t.crsHalt k space addr wr cause) := by
  unfold State.crsHalt
  extract_lets s1 s2
  have hs2 : Frame True s s2 := h.crsSpoil.crsLog.modCr
  split
  · exact hs2
  · exact hs2.failFlight

theorem crsPassEnd {k} (h : Frame w s t) : Frame w s (t.crsPassEnd k) := by
  unfold State.crsPassEnd
  extract_lets x mine by_ s1 s2
  have hs1 : Frame w s s1 := .ite h.modCr h.modCr
  have hs2 : Frame w s s2 := by
    refine .ite hs1 ?_
    · split
      · exact hs1
      · exact hs1.finish
  exact hs2.paceOthers

theorem crsAdvance {k data} (h : Frame w s t) : Frame w s (t.crsAdvance k data) := by
  unfold State.crsAdvance
  extract_lets x n done crc half full s1 s2
  have hs1 : Frame w s s1 := h.modCr
  have hs2 : Frame w s s2 := .ite hs1.crsLog hs1
  exact .ite hs2.crsPassEnd hs2

theorem courierBurstDone (h : Frame True s t) : Frame True s t.courierBurstDone := by
  unfold State.courierBurstDone
  split
  · exact h
  · refine .ite h ?_
    extract_lets g u src u1
    have hu : Frame True s u := by
      unfold u
      split
      · exact h.crsHalt
      · exact h.crsAdvance
    have hu1 : Frame True s u1 := hu.upd
    exact .ite hu1.modCr hu1

theorem crsAbort {k} (h : Frame w s t) : Frame w s (t.crsAbort k) := by
  unfold State.crsAbort
  extract_lets held s1
  have hs1 : Frame w s s1 := .ite h.crsLog.failCrFlight h
  exact .ite hs1.upd hs1.modCr

theorem crsContinue {k} (h : Frame w s t) : Frame w s (t.crsContinue k) := by
  unfold State.crsContinue
  exact .ite h.modCr h

theorem writeCrsCtrl {k v} (h : Frame w s t) : Frame w s (t.writeCrsCtrl k v) := by
  unfold State.writeCrsCtrl
  extract_lets n u
  have hu : Frame w s u := h.modCr
  exact .ite h.crsLog (.ite h.crsLog (.ite hu.crsStart (.ite hu.crsAbort (.ite hu.crsContinue hu))))

theorem courierCmd {q} (h : Frame w s t) : Frame w s (t.courierCmd q) := by
  unfold State.courierCmd
  split
  · exact h
  extract_lets k x low v
  refine .ite h.acceptCmd.modCr (.ite h.crsLog.stopQueue ?_)
  have hv : Frame w s v := h.modCr
  have hr : ∀ a : Option Nat, Frame w s (if low then (a, v.crsLog k evCrsIllegal 0) else v.crsStart k (some q)).2 :=
    fun a => iteSnd (pair hv.crsLog) hv.crsStart
  split
  · exact (snd (hr _) ‹_›).stopQueue
  · exact (snd (hr _) ‹_›).acceptCmd

theorem withCr {k u} (h : Frame w s t) (h' : Frame w s u) : Frame w s (t.withCr k u) := .ite h' h.hostHole

/-! ## The commands of the fabric ports and the federation links -/

theorem afterPort {u p} (_ : Frame w s t) (h : Frame w s u) : Frame w s (t.afterPort u p) := .ite h.collsLost h

theorem portDown {p cause} (h : Frame True s t) : Frame True s (t.portDown p cause) :=
  (h.afterPort h.leaveUp).settle

theorem alignLoss {p} (h : Frame True s t) : Frame True s (t.alignLoss p) := by
  unfold State.alignLoss
  refine .ite h ?_
  extract_lets s1
  have hs1 : Frame True s s1 := h.modFlink
  exact .ite hs1 hs1.portDown

theorem keyExhausted {p} (h : Frame True s t) : Frame True s (t.keyExhausted p) := by
  unfold State.keyExhausted
  exact .ite h.portDown h

theorem linkFrameTimeout {p} (h : Frame True s t) : Frame True s (t.linkFrameTimeout p) := by
  unfold State.linkFrameTimeout
  exact .ite h.portDown h

theorem linkAckTimer {p} (h : Frame w s t) : Frame w s (t.linkAckTimer p) := by
  unfold State.linkAckTimer
  exact .ite h.sendLink h

theorem replayTimeout {p} (h : Frame True s t) : Frame True s (t.replayTimeout p) := by
  unfold State.replayTimeout
  exact .ite h (.ite h.replayFrom.portDown h.replayFrom)

theorem frameRow {p typ fr bad u} (h : Frame True s t) (h' : Frame True s u) : Frame True s (t.frameRow p typ fr bad u) :=
  (afterPort h (.ite h'.wake h')).settle

theorem helloFrame {p fr bad} (h : Frame w s t) : Frame w s (t.helloFrame p fr bad) :=
  h.onFrame (fun _ _ _ h1 => h1.helloIn)

theorem keyFrame {p fr bad} (h : Frame w s t) : Frame w s (t.keyFrame p fr bad) :=
  h.onFrame (fun _ _ _ h1 => h1.keyIn)

theorem linkFrame {p fr bad} (h : Frame w s t) : Frame w s (t.linkFrame p fr bad) :=
  h.onFrame (fun _ _ _ h1 => .ite h1.applyLink.leaveUp h1.applyLink.bucketsDone)

theorem ucieDown {l} (h : Frame True s t) : Frame True s (t.ucieDown l) := by
  unfold State.ucieDown
  exact .ite h (((h.afterPort h.leaveUp.modFlink).causeAbort).settle)

/-! ## Cold and warm resets -/

theorem setCause {last} (h : Frame w s t) : Frame w s (t.setCause last) :=
  h.setF

theorem coldReset {cause : Nat} (h : Frame True s t) : Frame True s (t.coldReset t.part cause) :=
  ⟨h.pending, .inl trivial, h.part, fun _ => Eq.refl _⟩

theorem warmReset {cause : Nat} (h : Frame True s t) : Frame True s (t.warmReset cause) :=
  ⟨h.pending, .inl trivial, h.part, fun _ => Eq.refl _⟩

theorem sideband {kind skip} (h : Frame w s t) : Frame w s (t.sideband kind skip) :=
  h.foldl fun _ _ h1 => .ite h1.emit h1

theorem ofcWarm (h : Frame True s t) : Frame True s t.ofcWarm := by
  unfold State.ofcWarm
  exact .ite h.sideband.warmReset h

theorem zeroiseHere (h : Frame True s t) : Frame True s t.zeroiseHere :=
  h.coldReset

theorem zeroise (h : Frame True s t) : Frame True s t.zeroise := by
  unfold State.zeroise
  exact .ite h.sideband.zeroiseHere h

theorem sidebandIn {l zero} (h : Frame True s t) : Frame True s (t.sidebandIn l zero) := by
  unfold State.sidebandIn
  refine .ite h ?_
  extract_lets s1
  have hs1 : Frame True s s1 := h.sideband
  exact .ite hs1.zeroiseHere hs1.warmReset

/-! ## The SPDM responder -/

theorem mboxPut {b} (h : Frame w s t) : Frame w s (t.mboxPut b) :=
  h.foldl fun _ _ h1 => h1.setReg

theorem mboxAnswer {b} (h : Frame w s t) : Frame w s (t.mboxAnswer b) :=
  h.mboxPut.upd

theorem reply {msg code p1 p2 data sec} (h : Frame w s t) : Frame w s (t.reply msg code p1 p2 data sec) :=
  h.upd.mboxAnswer

theorem replyError {code sec} (h : Frame w s t) : Frame w s (t.replyError code sec) :=
  h.mboxAnswer

theorem modSec {f} (h : Frame w s t) : Frame w s (t.modSec f) :=
  h.upd

theorem getVersion {msg} (h : Frame w s t) : Frame w s (t.getVersion msg) :=
  h.modSec.reply

theorem getCapabilities {msg} (h : Frame w s t) : Frame w s (t.getCapabilities msg) :=
  h.reply

theorem negotiate {msg} (h : Frame w s t) : Frame w s (t.negotiate msg) :=
  h.modSec.reply

theorem getDigests {msg sec} (h : Frame w s t) : Frame w s (t.getDigests msg sec) :=
  h.reply

theorem getCertificate {msg sec} (h : Frame w s t) : Frame w s (t.getCertificate msg sec) := by
  unfold State.getCertificate
  exact .ite h.replyError h.reply

theorem challenge {msg sec} (h : Frame w s t) : Frame w s (t.challenge msg sec) := by
  unfold State.challenge
  exact .ite h.replyError h.upd.reply

theorem getMeasurements {msg sec} (h : Frame w s t) : Frame w s (t.getMeasurements msg sec) := by
  unfold State.getMeasurements
  exact .ite h.replyError h.upd.reply

theorem keyExchange {msg} (h : Frame w s t) : Frame w s (t.keyExchange msg) := by
  unfold State.keyExchange
  exact .ite h.replyError h.upd.modSec.reply

theorem finishRq {msg} (h : Frame w s t) : Frame w s (t.finishRq msg) := by
  unfold State.finishRq
  split
  · exact h.replyError
  · exact .ite h.replyError (.ite h.replyError h.modSec.reply)

theorem endSession {msg} (h : Frame w s t) : Frame w s (t.endSession msg) := by
  unfold State.endSession
  exact .ite h.replyError h.reply.modSec

theorem setCertificate {msg sec} (h : Frame w s t) : Frame w s (t.setCertificate msg sec) := by
  unfold State.setCertificate
  exact .ite h.replyError h.modSec.reply

theorem spdmServe {rq msg sec} (h : Frame w s t) : Frame w s (t.spdmServe rq msg sec) := by
  unfold State.spdmServe
  exact .ite h.getVersion (.ite h.getCapabilities (.ite h.negotiate (.ite h.replyError (.ite h.getDigests (.ite h.getCertificate (.ite h.challenge (.ite h.getMeasurements (.ite h.keyExchange (.ite h.finishRq (.ite h.endSession h.setCertificate))))))))))

theorem spdm {msg sec} (h : Frame w s t) : Frame w s (t.spdm msg sec) := by
  unfold State.spdm
  split
  · exact h.replyError
  · exact h.spdmServe

theorem spdmRow {rq msg} (h : Frame w s t) : Frame w s (t.spdmRow rq msg) := by
  unfold State.spdmRow
  exact .ite h.spdm h

theorem setDomain {d} (h : Frame w s t) : Frame w s (t.setDomain d) :=
  h.modSec.setReg.setReg

theorem sendDomain {msg} (h : Frame w s t) : Frame w s (t.sendDomain msg) := by
  unfold State.sendDomain
  exact .ite h (h.foldl fun _ _ h1 => h1.emit)

theorem domainMsg {op msg} (h : Frame w s t) : Frame w s (t.domainMsg op msg) := by
  unfold State.domainMsg
  refine .ite h.logEv ?_
  extract_lets s1
  have hs1 : Frame w s s1 := h.sendDomain
  exact .ite hs1.setDomain hs1.setDomain

theorem appMsg {msg} (h : Frame w s t) : Frame w s (t.appMsg msg) :=
  (Frame.ite h.domainMsg h.domainMsg).mboxAnswer

theorem mboxGo (h : Frame w s t) : Frame w s t.mboxGo := by
  unfold State.mboxGo
  refine .ite h ?_
  extract_lets s1 n msg
  have hs1 : Frame w s s1 := h.modSec
  refine .ite hs1.replyError ?_
  split
  · exact hs1.spdm
  · exact .ite (.ite hs1.spdm hs1.appMsg) hs1.spdm

theorem unsupported {msg} (h : Frame w s t) : Frame w s (t.unsupported msg) := by
  unfold State.unsupported
  split
  · exact h.replyError
  · exact h

/-! ## Power, clocks and ageing -/

theorem modPwr {f} (h : Frame w s t) : Frame w s (t.modPwr f) :=
  h.upd

theorem modPins {f} (h : Frame w s t) : Frame w s (t.modPins f) :=
  h.upd

theorem recessEntry (h : Frame w s t) : Frame w s t.recessEntry := by
  unfold State.recessEntry
  exact .ite h h.modPwr.modPins

theorem fclkLowered (h : Frame w s t) : Frame w s t.fclkLowered := by
  unfold State.fclkLowered
  refine .ite h ?_
  extract_lets u u1
  have hu : Frame w s u := h.modPins
  have hu1 : Frame w s u1 := hu.takeStep
  exact .ite hu.takeStep.modPwr.modPins (.ite hu1.modPwr hu1)

theorem powerUp (h : Frame True s t) : Frame True s t.powerUp := by
  unfold State.powerUp
  exact t0Write ⟨h.pending, .inl trivial, h.part, fun hs => Tab.wf_filter _ (h.memOk hs)⟩

theorem fclkRaised (h : Frame True s t) : Frame True s t.fclkRaised := by
  unfold State.fclkRaised
  refine .ite h ?_
  extract_lets u u1 due
  have hu : Frame True s u := h.modPins
  exact .ite hu (Frame.ite hu.powerUp hu).modPwr

theorem governor {grant est peak} (h : Frame w s t) : Frame w s (t.governor grant est peak) := by
  unfold State.governor
  extract_lets low u u1 req u2 u3 u4 u5 u6
  have hu4 : Frame w s u4 := (Frame.ite h.logEv h).modPwr.modPins.setReg.setReg
  have hu5 : Frame w s u5 := .ite hu4.incF hu4
  have hu6 : Frame w s u6 := .ite hu5.incF hu5
  exact .ite hu6.changeStep hu6

theorem droopOn (h : Frame w s t) : Frame w s t.droopOn := by
  unfold State.droopOn
  exact .ite h h.modPins.modPwr.logEv

theorem droopRelease (h : Frame w s t) : Frame w s t.droopRelease := by
  unfold State.droopRelease
  exact .ite h h.modPwr

theorem vinWord {n} (h : Frame w s t) : Frame w s (t.vinWord n) := by
  unfold State.vinWord
  extract_lets m mv
  split
  rename_i v x e
  have hx : Frame w s x := by
    split at e
    · cases e
      exact h
    · cases e
      exact h.draw
  exact (Frame.ite hx.setReg.logEv hx.setReg).modPwr

theorem telemetry {cmd w2} (h : Frame w s t) : Frame w s (t.telemetry cmd w2) := by
  unfold State.telemetry
  split
  · exact h
  · extract_lets s1
    have hs1 : Frame w s s1 := h.setF
    exact .ite hs1.vinWord hs1

theorem retarget (h : Frame w s t) : Frame w s t.retarget := by
  unfold State.retarget
  extract_lets k s1
  have hs1 : Frame w s s1 := h.modPwr
  exact .ite hs1.changeStep hs1

theorem wearLog {old new worst sl ref cause} (h : Frame w s t) : Frame w s (t.wearLog old new worst sl ref cause) :=
  h.setReg.incF.setF

theorem replan {sl worst ref} (h : Frame w s t) : Frame w s (t.replan sl worst ref) := by
  unfold State.replan
  extract_lets old new k u u1 u2 u3
  have hu2 : Frame w s u2 := (Frame.ite h.logEv h).modPwr.logEv
  have hu3 : Frame w s u3 := by
    unfold u3
    split
    · exact hu2
    · exact hu2.wearLog
  exact hu3.retarget

theorem monitor {sl worst} (h : Frame w s t) : Frame w s (t.monitor sl worst) := by
  unfold State.monitor
  refine .ite h ?_
  extract_lets ref again replans ref' s1 s2
  have hs2 : Frame w s s2 := h.modPwr.setReg
  exact .ite hs2.replan hs2

theorem followVid (h : Frame w s t) : Frame w s t.followVid := by
  unfold State.followVid
  exact .ite h h.modPins

theorem writeVf {k v} (h : Frame w s t) : Frame w s (t.writeVf k v) := by
  unfold State.writeVf
  exact .ite h h.setReg.followVid

theorem writePwrCtrl {v} (h : Frame w s t) : Frame w s (t.writePwrCtrl v) := by
  unfold State.writePwrCtrl
  extract_lets u c u1
  have hu : Frame w s u := h.setReg
  exact (Frame.ite hu hu.modPwr).retarget

/-! ## Stall causes and stall counters -/

theorem stallCtx {c} (h : Frame w s t) : Frame w s (t.stallCtx c) := by
  unfold State.stallCtx
  exact .ite h h.upd.modStm.incF

theorem cycle (h : Frame w s t) : Frame w s t.cycle :=
  h.tick.foldl fun _ _ h1 => h1.stallCtx

/-! ## The register index -/

theorem readInt (h : Frame w s t) : Frame w s t.readInt.2 := by
  unfold State.readInt
  split
  · exact h
  · exact h.upd

theorem readRes {slot off} (h : Frame w s t) : Frame w s (t.readRes slot off).2 := by
  unfold State.readRes
  extract_lets r
  split
  · exact h
  · exact h.readResStatus
  · exact h.readResTake
  · exact h

theorem regRead {a1} (h : Frame w s t) : Frame w s (t.regRead a1).2 := by
  unfold State.regRead
  split
  · exact h
  · split
    · exact h.readRes
    · split
      · exact h.readInt
      · exact h.readLkrState
      · exact h.readLastIn
      · exact h.readHistState
      · exact h.readCard
      · exact h

/-! ## The tutor's hand on the queues -/

theorem acceptUnit {q} (h : Frame w s t) : Frame w s (t.acceptUnit q) := by
  unfold State.acceptUnit
  split
  · exact h
  · refine .ite h ?_
    split
    · exact (Frame.ite h h.logEv).stopQueue
    · exact .ite h h.acceptCmd.dropBuf

theorem testHead {q stuck c tag u} (h : Frame w s t) (e : t.testHead q stuck = .pass c tag u) : Frame w s u := by
  unfold State.testHead at e
  extract_lets x at e
  split at e
  · cases e
  split at e
  · cases e
  split at e
  · cases e
  split at e
  · cases e
  split at e
  · cases e
  split at e
  · cases e
    exact h
  split at e
  · cases e
  split at e
  · cases e
  · cases e
    exact (h.tryWaits ‹_›).noteTaken
theorem commandIssue {q} (h : Frame True s t) : Frame True s (t.commandIssue q) := by
  unfold State.commandIssue
  refine .ite h.logEv.stopQueue (.ite h.acceptUnit ?_)
  split
  · exact h
  · exact h.refuseHead
  · exact h.beginWait
  · exact .ite h.beginWait (.ite (h.testHead ‹_›).markIssued.acceptUnit h)

theorem entGone {tag} (h : Frame w s t) : Frame w s (t.entGone tag).2 := by
  unfold State.entGone
  split
  · exact h
  · split
    · exact h
    · exact h.upd

theorem entsGone {ts} (h : Frame w s t) : Frame w s (t.entsGone ts).2 := by
  induction ts generalizing t with
  | nil => exact h
  | cons x rest ih => exact ih h.entGone

theorem commandComplete {qs closes} (h : Frame True s t) : Frame True s (t.commandComplete qs closes) := by
  unfold State.commandComplete
  extract_lets fs adds arrivals u u1 r u2 u3 u4
  have hu2 : Frame True s u2 := (h.upd.foldl fun _ _ h1 => h1.prodGone).entsGone.closeRuns.arriveAll
  exact ((Frame.ite hu2 hu2.signalAll).foldl fun _ _ h1 => h1.boundaryHalt).entriesEnded.settle

theorem cmdsDropped {cs} (h : Frame True s t) : Frame True s (t.cmdsDropped cs) := by
  unfold State.cmdsDropped
  extract_lets u r u1
  have hu : Frame True s u := h.foldl fun _ _ h1 => h1.prodGone
  exact (Frame.ite hu.entsGone hu.entsGone.signalAll).entriesEnded.settle

theorem queCtrl {q v} (h : Frame True s t) : Frame True s (t.queCtrl q v) := by
  unfold State.queCtrl
  extract_lets t
  have ht : Frame True s t := h.writeQueCtrl
  exact .ite ht.cmdsDropped (.ite ht.cmdsDropped ht)

theorem hostCtrl {q v} (h : Frame True s t) : Frame True s (t.hostCtrl q v) := by
  unfold State.hostCtrl
  exact .ite h.queCtrl h.hostHole

/-! ## What a host write of each register does -/

theorem writeBits {a1 m v} (h : Frame w s t) : Frame w s (t.writeBits a1 m v) :=
  h.setReg

theorem writeEvent {a1 n v same} (h : Frame w s t) : Frame w s (t.writeEvent a1 n v same) := by
  unfold State.writeEvent
  extract_lets m cur s1
  have hs1 : Frame w s s1 := h.setReg
  exact .ite hs1.incF hs1

theorem writeOfc {off v} (h : Frame True s t) : Frame True s (t.writeOfc off v) := by
  unfold State.writeOfc
  split
  · exact h.setReg
  · exact .ite h.ofcWarm h
  · exact h

theorem sylCtrlStart {v} (h : Frame w s t) : Frame w s (t.sylCtrlStart v) := by
  unfold State.sylCtrlStart
  exact .ite h.sylStart h.sylRefuse

theorem writeSylCtrl {v} (h : Frame w s t) : Frame w s (t.writeSylCtrl v) := by
  unfold State.writeSylCtrl
  extract_lets s1 s2
  have hs1 : Frame w s s1 := h.setF.setF.wake
  have hs2 : Frame w s s2 := .ite hs1.sylAbort hs1
  exact .ite hs2.sylCtrlStart hs2

theorem writeSyl {off v} (h : Frame w s t) : Frame w s (t.writeSyl off v) := by
  unfold State.writeSyl
  refine .ite h.sylPush ?_
  split
  · exact h.writeSylCtrl
  · exact h.setReg
  · exact h

theorem writeMbox {v} (h : Frame w s t) : Frame w s (t.writeMbox v) := by
  unfold State.writeMbox
  extract_lets s1
  have hs1 : Frame w s s1 := h.modSec.wake
  exact .ite hs1.mboxGo hs1

theorem writeSec {off v} (h : Frame True s t) : Frame True s (t.writeSec off v) := by
  unfold State.writeSec
  refine .ite (.ite h h.setReg) ?_
  split
  · exact .ite h.zeroise h
  · exact h.writeMbox
  · exact h.setReg
  · exact .ite h.restoreStart.wake h
  · exact h.setReg
  · exact h.exportStart
  · exact h

theorem writePwr {off v} (h : Frame w s t) : Frame w s (t.writePwr off v) := by
  unfold State.writePwr
  exact .ite h.writePwrCtrl (.ite h.writeVf h)

theorem writeErrCtrl {v} (h : Frame True s t) : Frame True s (t.writeErrCtrl v) := by
  unfold State.writeErrCtrl
  extract_lets s1
  have hs1 : Frame True s s1 := .ite h.rearmFirst h
  exact .ite hs1.swAbort.abortDue hs1

theorem writeErr {off v} (h : Frame True s t) : Frame True s (t.writeErr off v) := by
  unfold State.writeErr
  split
  · exact h.writeErrCtrl
  · exact h.setReg
  · exact h.setReg
  · exact h

theorem writeUnits {a1 v} (h : Frame w s t) : Frame w s (t.writeUnits a1 v) := by
  unfold State.writeUnits
  split
  · exact h.writePhilox
  · exact h.writePhilox
  · exact h.writeHistSel
  · exact h.setReg
  · exact h.setReg
  · exact h.writeDigSel
  · exact h.writeCardSel
  · exact h

theorem writeStmCtrl {c v} (h : Frame True s t) : Frame True s (t.writeStmCtrl c v) := by
  unfold State.writeStmCtrl
  refine .ite h.hostStmStart ?_
  extract_lets s1
  have hs1 : Frame True s s1 := h.modStm
  exact .ite hs1.hostStmAbort hs1

theorem writeStm {c off v} (h : Frame True s t) : Frame True s (t.writeStm c off v) := by
  unfold State.writeStm
  split
  · exact h.writeStmCtrl
  · exact h.modStm
  · exact h.modStm
  · exact h.modStm
  · exact h

theorem writeCrsStatus {k v same} (h : Frame w s t) : Frame w s (t.writeCrsStatus k v same) := by
  unfold State.writeCrsStatus
  exact h.modCr

theorem crsSetup {k f} (h : Frame w s t) : Frame w s (t.crsSetup k f) := by
  unfold State.crsSetup
  exact .ite h.modCr h.crsLog

theorem writeCrs {k off v same} (h : Frame w s t) : Frame w s (t.writeCrs k off v same) := by
  unfold State.writeCrs
  split
  · exact h.crsSetup
  · exact h.crsSetup
  · exact h.crsSetup
  · exact h.writeCrsCtrl
  · exact h.crsSetup
  · exact h.writeCrsStatus
  · exact h

theorem writeBel {off v} (h : Frame w s t) : Frame w s (t.writeBel off v) := by
  unfold State.writeBel
  exact .ite h.hostSignal (.ite h.hostMask h)

theorem writeQue {off v} (h : Frame True s t) : Frame True s (t.writeQue off v) := by
  unfold State.writeQue
  exact .ite h.push (.ite h.upd (.ite h.queCtrl h))

theorem holdPort {held p} (h : Frame True s t) : Frame True s (t.holdPort held p) := by
  unfold State.holdPort
  exact .ite h h.portDown

theorem writeFabCtrl {v} (h : Frame True s t) : Frame True s (t.writeFabCtrl v) := by
  unfold State.writeFabCtrl
  extract_lets live s1 s2 s3
  have hs2 : Frame True s s2 := h.writeBits.holdPort.holdPort
  have hs3 : Frame True s s3 := .ite hs2.fabRelease hs2
  exact .ite hs3.fabRelease hs3

theorem writeFault {a1 v} (h : Frame w s t) : Frame w s (t.writeFault a1 v) := by
  unfold State.writeFault
  exact .ite h (.ite h.writeBits (.ite h.setReg h.setReg))

theorem writeTtbCtrl {v} (h : Frame True s t) : Frame True s (t.writeTtbCtrl v) := by
  unfold State.writeTtbCtrl
  exact .ite h.ttbRefused (.ite h.ttbRun.wake.settle (.ite h.ttbHalt.wake h))

theorem writeCtl {a1 v} (h : Frame True s t) : Frame True s (t.writeCtl a1 v) := by
  unfold State.writeCtl
  refine .ite h.writeFault ?_
  split
  · exact h.writeFabCtrl
  · exact h.setReg
  · exact h.writeTtbCtrl
  · exact .ite h.ttbNext.wake h.ttbRefused
  · exact h

theorem writeUnit {a1 v same} (h : Frame True s t) : Frame True s (t.writeUnit a1 v same) := by
  unfold State.writeUnit
  exact .ite h.writeLkrSel (.ite h.writeUnits (.ite h.writeStm (.ite h (.ite h.writeCrs (.ite h.writeBits (.ite h (.ite h.writeBel (.ite h.writeQue h.writeCtl))))))))

theorem writeOffice {a1 v} (h : Frame True s t) : Frame True s (t.writeOffice a1 v) := by
  unfold State.writeOffice
  exact .ite h.writeOfc (.ite h.writeSyl (.ite h.writeSec (.ite h.writePwr h.writeErr)))

theorem regWrite {a1 v same} (h : Frame True s t) : Frame True s (t.regWrite a1 v same) := by
  unfold State.regWrite
  split
  · exact h.writeEvent
  · exact .ite h.writeUnit h.writeOffice

theorem localWrite {a1 v same} (h : Frame True s t) : Frame True s (t.localWrite a1 v same) := by
  unfold State.localWrite
  refine .ite (h.hostWrites (.ite h.hostHole ?_)) (.ite h.hostHole h.regWrite)
  extract_lets u
  have hu : Frame True s u := h.regWrite
  exact .ite hu.wake hu

theorem localBell {kind idx} (h : Frame True s t) : Frame True s (t.localBell kind idx) :=
  h.hostWrites (.ite h.push h.hostSignal)

/-! ## The host control port, the TAP's data register and the forwarding of accesses over the federation links -/

theorem sendFed {f op tag addr data} (h : Frame True s t) : Frame True s (t.sendFed f op tag addr data) := by
  unfold State.sendFed
  split
  · exact (h.sendTo ‹_›)
  · exact h.causeAbort.settle

theorem hostWriteAt {addr v same} (h : Frame True s t) : Frame True s (t.hostWriteAt addr v same) := by
  unfold State.hostWriteAt
  exact .ite h.hostUnmapped (.ite h.localWrite (.ite (h.hostWrites h.sendFed) h.sendFed))

theorem hostWrite {addr v strb same} (h : Frame True s t) : Frame True s (t.hostWrite addr v strb same) := by
  unfold State.hostWrite
  exact .ite h (.ite h.logEv h.hostWriteAt)

theorem doorbell {form kind idx} (h : Frame True s t) : Frame True s (t.doorbell form kind idx) := by
  unfold State.doorbell
  exact .ite h (.ite h.hostUnmapped (.ite h.localBell (h.hostWrites h.sendFed)))

theorem tapReadFar {n addr} (h : Frame True s t) : Frame True s (t.tapReadFar n addr) :=
  h.upd.sendFed

theorem tapAccess {wr addr v same} (h : Frame True s t) : Frame True s (t.tapAccess wr addr v same) := by
  unfold State.tapAccess
  exact .ite (.ite h.hostUnmapped h.hostUnmapped.upd) (.ite h.hostWriteAt (.ite h.regRead.upd (.ite h.upd h.tapReadFar)))

theorem tapDbgacc {wr addr v same} (h : Frame True s t) : Frame True s (t.tapDbgacc wr addr v same) := by
  unfold State.tapDbgacc
  exact .ite h.emit h.emit.tapAccess

theorem fedResponse {form tag v} (h : Frame w s t) : Frame w s (t.fedResponse form tag v) := by
  unfold State.fedResponse
  exact .ite h.upd (.ite h.emit h)

theorem fedIn {p h2 pay same} (h : Frame True s t) : Frame True s (t.fedIn p h2 pay same) := by
  unfold State.fedIn
  extract_lets s1 tag addr v
  have hs1 : Frame True s s1 := h.consumed
  split
  · exact hs1.regRead.sendFed
  · exact hs1.localWrite
  · exact hs1.fedResponse
  · exact hs1.localBell
  · exact hs1

theorem fedFrame {p fr bad same} (h : Frame True s t) : Frame True s (t.fedFrame p fr bad same) :=
  h.onFrame (fun _ _ _ h1 => h1.fedIn)

/-! ## Answers at the memory ports, the far port and the main-engine port -/

theorem recovGot {id rd g} (h : Frame w s t) : Frame w s (t.recovGot id rd g) := by
  unfold State.recovGot
  split
  · exact h
  · refine .ite ?_ h.modRecov
    split
    · exact h.regenGot
    · exact h

theorem markerTile {p part n rd g} (h : Frame True s t) : Frame True s (t.markerTile p part n rd g) := by
  unfold State.markerTile
  split
  have hu := h.markerGot.snd ‹_›
  exact .ite (Frame.ite hu.causeAbort hu).divTile (.ite hu.causeAbort hu)

theorem gotTile {rd g} (h : Frame True s t) : Frame True s (t.gotTile rd g) := by
  unfold State.gotTile
  split
  · exact h.streamGot
  · exact h.moved
  · exact h.recovGot
  · exact h.markerTile
  · exact h.fetchGot
  · exact h.exportGot
  · exact h

theorem dropJob {id} (h : Frame w s t) : Frame w s (t.dropJob id) :=
  h.upd

theorem tileOver {j rd} (h : Frame True s t) : Frame True s (t.tileOver j rd) := by
  unfold State.tileOver
  split
  · have h1 := h.endRead.snd ‹_›
    exact h1.gotTile
  have h1 := h.endRead.snd ‹_›
  split
  · exact h1
  split
  · have h2 := h1.dropJob.endRead.snd ‹_›
    exact h2.gotTile
  · have h2 := h1.dropJob.endRead.snd ‹_›
    exact h2

theorem headWritten {use loc} (h : Frame True s t) : Frame True s (t.headWritten use loc) := by
  unfold State.headWritten
  split
  · exact h.lockerWrote
  · exact h.windowWrote
  · exact h.chainWrote
  · exact h.markerWritten
  · exact h.writeBackDone
  · exact h.restoreWrote
  · exact h
  · exact h

theorem writeFailed {use loc} (h : Frame True s t) : Frame True s (t.writeFailed use loc) := by
  unfold State.writeFailed
  extract_lets u
  have hu : Frame True s u := by
    unfold u
    split
    · exact h
    · exact h.logTileBad.beginRecovery
  split
  · exact hu.markerWritten
  · exact hu.writeBackDone
  · exact hu.restoreWrote
  · exact hu

theorem tileWrote {ok use loc hdr head share far} (h : Frame True s t) : Frame True s (t.tileWrote ok use loc hdr head share far) := by
  unfold State.tileWrote
  extract_lets s1
  have hs1 : Frame True s s1 := .ite h h.shareLeaves
  refine .ite hs1.writeFailed (.ite hs1.headWritten ?_)
  split
  · exact hs1.lockerWrote
  · exact hs1
  · exact .ite hs1.writeHead.headWritten hs1.writeHead

theorem unitBytes {j tag} (h : Frame w s t) : Frame w s (t.unitBytes j tag) := by
  unfold State.unitBytes
  exact .ite h.upd h.upd

theorem rawOver {j unit tag} (h : Frame True s t) : Frame True s (t.rawOver j unit tag) := by
  unfold State.rawOver
  extract_lets ok get
  split
  · exact h.unitBytes
  · exact h.ckptRecordGot
  · exact h.restoreGot
  · exact h.exportWrote
  · exact h.sealWrote
  · exact h.bucketRead
  · exact h

theorem jobOver {j} (h : Frame True s t) : Frame True s (t.jobOver j) := by
  unfold State.jobOver
  extract_lets u
  have hu : Frame True s u := by
    unfold u
    split
    · exact h.tileOver
    · exact h.tileWrote
    · exact h.crsReadEnd
    · exact h.crsWriteEnd
    · exact h.rawOver
  exact hu.sealReads

theorem dropOut {o} (h : Frame w s t) : Frame w s (t.dropOut o) :=
  h.upd

theorem lateAnswer {port tag} (h : Frame w s t) : Frame w s (t.lateAnswer port tag) :=
  h.upd.pump

theorem noteLate {o} (h : Frame w s t) : Frame w s (t.noteLate o) :=
  h.upd

theorem failData {k} (h : Frame w s t) : Frame w s (t.failData k).2 := by
  unfold State.failData
  split
  · exact h.drawBytes
  · exact h

theorem answerReq {o data cause} (h : Frame True s t) : Frame True s (t.answerReq o data cause) := by
  unfold State.answerReq
  extract_lets v
  have hv : Frame True s v := h.dropOut
  split
  · exact hv
  split
  rename_i j _ _ d y e
  have hy : Frame True s y := by
    split at e
    · cases e
      exact hv
    · exact hv.failData.snd e
  exact .ite hy.dropJob.jobOver hy.upd

theorem goOnMem (h : Frame True s t) : Frame True s t.goOnMem :=
  h.pump.stir.settle

theorem readAnswer {port tag data poison err} (h : Frame True s t) : Frame True s (t.readAnswer port tag data poison err) := by
  unfold State.readAnswer
  split
  · exact h.lateAnswer
  · exact h.answerReq.goOnMem

theorem readTimeout {port tag} (h : Frame True s t) : Frame True s (t.readTimeout port tag) := by
  unfold State.readTimeout
  split
  · exact h
  · exact h.logEv.noteLate.answerReq.goOnMem.wake

theorem retryWrite {o} (h : Frame w s t) : Frame w s (t.retryWrite o) := by
  unfold State.retryWrite
  extract_lets s1
  have hs1 : Frame w s s1 := h.dropOut
  exact .ite hs1 hs1.upd

theorem writeLost {o cause} (h : Frame True s t) : Frame True s (t.writeLost o cause) := by
  unfold State.writeLost
  exact .ite h.answerReq h.logEv.answerReq

theorem writeAnswer {port tag err} (h : Frame True s t) : Frame True s (t.writeAnswer port tag err) := by
  unfold State.writeAnswer
  split
  · exact h.lateAnswer
  · exact (Frame.ite h.answerReq (.ite h.writeLost h.retryWrite)).goOnMem

theorem writeTimeout {port tag} (h : Frame True s t) : Frame True s (t.writeTimeout port tag) := by
  unfold State.writeTimeout
  split
  · exact h
  · exact h.noteLate.writeLost.goOnMem.wake

theorem creditReturn {port n} (h : Frame w s t) : Frame w s (t.creditReturn port n) :=
  h.upd.pump

theorem setFarUp {b} (h : Frame w s t) : Frame w s (t.setFarUp b) :=
  h.upd

theorem engineSatchel {ch sat err} (h : Frame True s t) : Frame True s (t.engineSatchel ch sat err) := by
  unfold State.engineSatchel
  extract_lets src u
  have hu : Frame True s u := h.upd
  split
  · exact hu
  · exact .ite hu.haltCtx.stir hu.modStm.fill.stir

theorem engineCredit {ch} (h : Frame w s t) : Frame w s (t.engineCredit ch) :=
  h.upd

theorem engineTimeout {ch} (h : Frame True s t) : Frame True s (t.engineTimeout ch) := by
  unfold State.engineTimeout
  extract_lets late
  split
  · exact h.haltCtx.stir
  · exact h.haltCtx.stir
  · exact h

end State.Frame

/-! ## Every row of the table -/

section
open State

/-- The outcome is a next state with the waiting commands of `s`, canonical where `s` is. -/
def Keeps (s : State) (r : Res) : Prop := ∃ t, r = .next t ∧ t.pending = s.pending ∧ (s.memOk → t.memOk)

theorem Keeps.next {s t : State} (h : Frame True s t) : Keeps s (.next t) := ⟨t, rfl, h.pending, h.memOk⟩

/-- A cold reset samples the straps, so it may change the part. -/
theorem coldReset_keeps (st : Straps) (fuses : List Word) (s : State) : Keeps s (exec (.coldReset st fuses) s) :=
  ⟨_, rfl, rfl, fun _ => rfl⟩

/-- As does the warm input. -/
theorem warmReset_keeps (st : Straps) (s : State) : Keeps s (exec (.warmReset st) s) :=
  ⟨_, rfl, (Frame.sideband (.rfl (w := True))).pending, fun _ => rfl⟩

theorem sylStartFull_keeps (start : LoadStart) (s : State) : Keeps s (exec (.sylStartFull start) s) := by
  cases start with
  | host src halted => exact .next Frame.rfl.sylStart
  | relay => exact .next Frame.rfl.sylStarted

theorem scrubRead_keeps (a : SramAt) (bits : BitVec 2) (s : State) : Keeps s (exec (.scrubRead a bits) s) := by
  cases a with
  | scrub => exact .next Frame.rfl.scrub
  | _ => exact .next Frame.rfl.sramRead.settle

theorem satchelReceive_keeps (m : ChainMsg) (s : State) : Keeps s (exec (.satchelReceive m) s) := by
  cases m with
  | own c => exact .next (Frame.ite Frame.rfl.ckptReceive Frame.rfl.satchelReceive).stir
  | _ => exact .next Frame.rfl.chainStep.stir

theorem lkrOpen_keeps (q : BitVec 13) (s : State) : Keeps s (exec (.lkrOpen q) s) := by
  show Keeps s (execLkrOpen q s)
  unfold execLkrOpen
  extract_lets q
  split
  · exact .next .rfl
  split
  · exact .next .rfl
  split
  · exact .next Frame.rfl.refuseLkr
  · exact .next Frame.rfl.tryOpen

theorem heldOpenRetry_keeps (q : BitVec 13) (s : State) : Keeps s (exec (.heldOpenRetry q) s) := by
  show Keeps s (execHeldOpenRetry q s)
  unfold execHeldOpenRetry
  extract_lets q
  split
  · split
    · exact .next .rfl
    · exact .next Frame.rfl.tryOpen
  · exact .next .rfl

theorem lkrMove_keeps (q : BitVec 13) (s : State) : Keeps s (exec (.lkrMove q) s) := by
  show Keeps s (execLkrMove q s)
  unfold execLkrMove
  extract_lets q
  split
  · exact .next .rfl
  extract_lets l tier e
  split
  · exact .next Frame.rfl.refuseLkr
  split
  · exact .next Frame.rfl.refuseLkr
  split
  · exact .next Frame.rfl.refuseLkr
  · exact .next Frame.rfl.startMove.acceptCmd

theorem lkrRecall_keeps (q : BitVec 13) (s : State) : Keeps s (exec (.lkrRecall q) s) := by
  show Keeps s (execLkrRecall q s)
  unfold execLkrRecall
  extract_lets q
  split
  · exact .next .rfl
  extract_lets l tier x
  split
  · exact .next Frame.rfl.refuseLkr
  split
  · exact .next Frame.rfl.refuseLkr
  split
  · exact .next Frame.rfl.acceptCmd
  split
  · split
    · exact .next Frame.rfl.refuseLkr
    · exact .next Frame.rfl.modLkr.acceptCmd
  split
  · split
    · exact .next (Frame.rfl.applyRecall ‹_›).acceptCmd
    · exact .next Frame.rfl.refuseLkr
  · exact .next Frame.rfl.refuseLkr

theorem lkrRead_keeps (q : BitVec 13) (s : State) : Keeps s (exec (.lkrRead q) s) := by
  show Keeps s (execLkrRead q s)
  unfold execLkrRead
  extract_lets q
  split
  · exact .next .rfl
  extract_lets l x
  split
  · exact .next Frame.rfl.refuseLkr
  split
  · exact .next Frame.rfl.refuseLkr
  split
  · split
    · exact .next Frame.rfl.refuseLkr
    · have h := Frame.rfl.impliedRecall (w := True) ‹_›
      exact .next (Frame.ite h.recomputeFor h).acceptCmd.bindRead
  · exact .next Frame.rfl.acceptCmd.bindRead

theorem lkrRelease_keeps (q : BitVec 13) (s : State) : Keeps s (exec (.lkrRelease q) s) := by
  show Keeps s (execLkrRelease q s)
  unfold execLkrRelease
  extract_lets q
  split
  · exact .next .rfl
  extract_lets l
  split
  · exact .next Frame.rfl.refuseLkr
  split
  · exact .next Frame.rfl.refuseLkr
  · exact .next Frame.rfl.acceptCmd.releaseLkr

/-- One line per row of the table. -/
theorem exec_keeps (c : Instr) (s : State) : Keeps s (exec c s) := by
  have h : Frame True s s := .rfl
  cases c with
  | coldReset _ _ => exact coldReset_keeps _ _ s
  | warmReset _ => exact warmReset_keeps _ s
  | ofcResetWarm => exact .next h.ofcWarm
  | sylStartFull _ => exact sylStartFull_keeps _ s
  | sylStartPartial _ => exact .next h.sylStart
  | sylAbort => exact .next h.sylAbort
  | sylPushData _ => exact .next h.sylPush
  | sylImageReceived _ _ => exact .next h.imageReceived
  | fullLoadApply _ _ => exact .next h.fullLoadApply
  | lkrSelWrite _ => exact .next (h.hostWrites h.writeLkrSel.wake)
  | lkrStateRead => exact .next (h.hostReads h.readLkrState.emit)
  | lkrOpen _ => exact lkrOpen_keeps _ s
  | lkrMove _ => exact lkrMove_keeps _ s
  | lkrRecall _ => exact lkrRecall_keeps _ s
  | lkrRead _ => exact lkrRead_keeps _ s
  | lkrRelease _ => exact lkrRelease_keeps _ s
  | nop _ => exact .next h.doNop
  | post _ => exact .next h.doPost
  | fwd _ => exact .next h.runProduct.stir
  | dgradW _ => exact .next h.runProduct.stir
  | dgradG _ => exact .next h.runProduct.stir
  | wgrad _ => exact .next h.runProduct.stir
  | paired _ => exact .next h.runPaired.stir
  | ropTable _ => exact .next h.runRowop.stir
  | ropTableD _ => exact .next h.runRowop.stir
  | ropGate _ => exact .next h.runRowop.stir
  | ropGateD _ => exact .next h.runRowop.stir
  | ropNorm _ => exact .next h.runRowop.stir
  | ropNormApply _ => exact .next h.runRowop.stir
  | ropNormD _ => exact .next h.runRowop.stir
  | ropSoftmax _ => exact .next h.runRowop.stir
  | ropSoftmaxApply _ => exact .next h.runRowop.stir
  | ropSoftmaxD _ => exact .next h.runRowop.stir
  | ropDropout _ => exact .next h.runRowop.stir
  | stream _ => exact .next (Frame.ite h.ckptStream h.streamCmd)
  | courier _ => exact .next h.courierCmd
  | rollcall _ => exact .next h.rollcall.settle
  | bucket _ => exact .next h.bucket.settle
  | commandIssue _ => exact .next h.commandIssue
  | commandComplete _ _ => exact .next h.commandComplete
  | quePush _ => exact .next (h.hostWrites h.push)
  | doorbell _ _ _ => exact .next h.doorbell
  | resume _ => exact .next (h.hostWrites h.hostQueCtrl)
  | skip _ => exact .next (h.hostWrites h.hostCtrl)
  | flush _ => exact .next (h.hostWrites h.hostCtrl)
  | halt _ => exact .next (h.hostWrites h.hostQueCtrl)
  | run _ => exact .next (h.hostWrites h.hostQueCtrl)
  | signal _ _ => exact .next (h.hostWrites h.hostSignal)
  | asmMaskWrite _ _ => exact .next (h.hostWrites h.hostMask)
  | closingAssemblyAct => exact .next (Frame.ite h.boundaryAct.settle.changeStep h)
  | resStatusRead _ => exact .next (h.hostReads (h.resRead h.readResStatus))
  | resTake _ => exact .next (h.hostReads (h.resRead h.readResTake))
  | deadlock => exact .next h.deadlock
  | periodStart => exact .next h.periodStart.wake.settle
  | entryCopy _ _ _ => exact .next h.entryCopy
  | closingSequenceStart => exact .next h.closingStart.settle
  | sweepStart => exact .next h.sweepStart.settle
  | sweepEnd => exact .next h.sweepEnd.settle
  | ttbRun => exact .next (h.hostWrites h.ttbRun.wake.settle)
  | ttbHalt => exact .next (h.hostWrites h.ttbHalt.wake)
  | ttbNextWrite _ => exact .next (h.hostWrites h.ttbNext.wake)
  | termChange => exact .next h.termChange.settle
  | checkpointEnd => exact .next h.checkpointEnd.settle
  | stagingRunAlloc _ _ _ => exact .next h.stagingAlloc.bucketsDue.settle
  | stageTimeout _ _ => exact .next h.stageTimeout.wake.settle
  | heldOpenRetry _ => exact heldOpenRetry_keeps _ s
  | placeTimeout _ => exact .next h.placeTimeout.wake.settle
  | plnLastInRead => exact .next (h.hostReads h.readLastIn.emit)
  | philoxCtrWrite _ _ => exact .next (h.hostWrites h.writePhilox.wake)
  | numHistSelWrite _ => exact .next (h.hostWrites h.writeHistSel.wake)
  | numHistStateRead => exact .next (h.hostReads h.readHistState.emit)
  | mkrDigSelWrite _ => exact .next (h.hostWrites h.writeDigSel.wake)
  | digestDone => exact .next h.digestDone
  | mkrCardSelWrite _ => exact .next (h.hostWrites h.writeCardSel.wake)
  | mkrCardFlagsRead => exact .next (h.hostReads h.readCard.emit)
  | stmStart _ _ => exact .next (h.hostWrites ((h.withCtx h.hostStmStart).wake))
  | stmAbort _ => exact .next (h.hostWrites ((h.withCtx h.hostStmAbort).wake))
  | streamEntryIssue _ => exact .next (Frame.ite h.ckptIssue.stir h.issueEntry.stir)
  | streamPassEnd _ => exact .next h.streamPassEnd
  | satchelReceive _ => exact satchelReceive_keeps _ s
  | crsStart _ _ => exact .next (h.hostWrites ((h.withCr h.writeCrsCtrl).wake))
  | crsAbort _ => exact .next (h.hostWrites ((h.withCr h.crsAbort).wake))
  | crsContinue _ => exact .next (h.hostWrites ((h.withCr h.crsContinue).wake))
  | courierBurst => exact .next h.courierBurst
  | courierBurstDone => exact .next h.courierBurstDone
  | paceTimer _ => exact .next (Frame.ite h.paceEvent.wake h)
  | memReadResponse _ _ _ _ _ => exact .next h.readAnswer
  | memWriteComplete _ _ _ => exact .next h.writeAnswer
  | memCreditReturn _ _ => exact .next h.creditReturn
  | memReadTimeout _ _ => exact .next h.readTimeout
  | farLinkDown => exact .next h.setFarUp
  | engineSatchel _ _ _ => exact .next h.engineSatchel.settle
  | engineCredit _ => exact .next h.engineCredit
  | engineTimeout _ => exact .next h.engineTimeout.settle
  | hostWrite _ _ _ _ => exact .next h.hostWrite
  | tapDbgacc _ _ _ => exact .next h.tapDbgacc
  | pcsAlign _ => exact .next h.pcsAlign
  | pcsAlignLoss _ => exact .next h.alignLoss
  | helloTimer _ => exact .next h.helloTimer
  | hello _ _ _ => exact .next (h.frameRow h.helloFrame)
  | offerTimer _ => exact .next h.offerTimer
  | key _ _ _ => exact .next (h.frameRow h.keyFrame)
  | rosterRetry _ => exact .next h.rosterRetry
  | keyRenewal _ => exact .next h.keyRenewal
  | keyExhausted _ => exact .next h.keyExhausted
  | data _ _ _ => exact .next (h.frameRow h.dataFrame)
  | stateFetch _ _ _ => exact .next (h.frameRow h.stateFetch)
  | link _ _ _ => exact .next (h.frameRow h.linkFrame)
  | linkAckTimer _ => exact .next h.linkAckTimer
  | linkFrameTimeout _ => exact .next h.linkFrameTimeout
  | replayTimeout _ => exact .next h.replayTimeout
  | frameSend _ => exact .next h.frameSend
  | fiReorderTimeout _ => exact .next h.reorderTimeout
  | violWindow _ => exact .next h.violWindow
  | fabRelease _ => exact .next (h.hostWrites (Frame.ite h h.fabRelease))
  | mack _ _ _ => exact .next (h.frameRow (h.onFrame fun _ _ _ h1 => h1.mackIn))
  | mcastDetach _ => exact .next h.mcastDetach.wake.settle
  | detach _ _ _ => exact .next (h.frameRow (h.onFrame fun _ _ _ h1 => h1.detachIn))
  | repairReq _ _ _ => exact .next (h.frameRow (h.onFrame fun _ _ _ h1 => h1.repairIn))
  | rcExch _ _ _ => exact .next (h.frameRow (h.onColl fun _ _ _ _ _ h1 => h1.rcExch))
  | rcUp _ _ _ => exact .next (h.frameRow (h.onColl fun _ _ _ _ _ h1 => h1.rcUp))
  | rcDown _ _ _ => exact .next (h.frameRow (h.onColl fun _ _ _ _ _ h1 => h1.rcDown))
  | redUp _ _ _ => exact .next (h.frameRow (h.onColl fun _ _ _ _ _ h1 => h1.redUp))
  | redDown _ _ _ => exact .next (h.frameRow (h.onColl fun _ _ _ _ _ h1 => h1.redDown))
  | notice _ _ _ => exact .next (h.frameRow (h.onColl fun _ _ _ _ _ h1 => h1.noticeIn))
  | abort _ _ _ => exact .next (h.frameRow (h.onColl fun _ _ _ _ _ h1 => h1.abortFrame))
  | fedHost _ _ _ => exact .next (h.frameRow h.fedFrame)
  | bucketDeadline _ _ => exact .next h.bucketDeadline.wake.settle
  | collectiveTimeout _ _ => exact .next h.collTimeout.wake.settle
  | collectiveLostTimeout _ _ => exact .next h.collLost.wake.settle
  | recoverySourceDone _ _ _ => exact .next h.sourceDone.stir.settle
  | scrubRead _ _ => exact scrubRead_keeps _ _ s
  | swAbort => exact .next h.swAbort.abortDue
  | rearmFirst => exact .next h.rearmFirst
  | abortConfirmTimeout => exact .next h.wake
  | ucieLinkDown _ => exact .next h.ucieDown
  | ucieSideband _ _ => exact .next h.sidebandIn
  | getVersion _ => exact .next h.spdmRow
  | getCapabilities _ => exact .next h.spdmRow
  | negotiateAlgorithms _ => exact .next h.spdmRow
  | getDigests _ => exact .next h.spdmRow
  | getCertificate _ => exact .next h.spdmRow
  | setCertificate _ => exact .next h.spdmRow
  | challenge _ => exact .next h.spdmRow
  | getMeasurements _ => exact .next h.spdmRow
  | keyExchange _ => exact .next h.spdmRow
  | finish _ => exact .next h.spdmRow
  | endSession _ => exact .next h.spdmRow
  | domainKeyInstall _ => exact .next h.domainMsg
  | domainKeyErase _ => exact .next h.domainMsg
  | secRestoreStart => exact .next h.restoreStart.wake
  | restoreComplete => exact .next h.restoreComplete
  | secExportStart _ => exact .next h.exportStart
  | exportComplete => exact .next h.exportComplete
  | zeroise => exact .next h.zeroise
  | entropyFail => exact .next h.modSec.logEv
  | recessEntry => exact .next h.recessEntry
  | fclkEnable => exact .next h.fclkRaised
  | monitorReading _ _ => exact .next h.monitor
  | governorWindow _ _ _ => exact .next h.governor
  | droop => exact .next h.droopOn
  | droopRelease => exact .next h.droopRelease
  | telemetryWord _ _ => exact .next h.telemetry
  | pwrVfWrite _ _ => exact .next h.writeVf
  | memWriteTimeout _ _ => exact .next h.writeTimeout
  | farLinkUp => exact .next h.setFarUp.pump
  | ucieLinkTrained _ => exact .next h.linkTrained
  | droopDeasserted => exact .next h.modPins
  | fclkEnLowered => exact .next h.fclkLowered
  | unsupportedRequest _ => exact .next h.unsupported

end

/-- Settles O3: every row of the table completes, by what its parts leave alone. -/
theorem commandsLeaveQueueAlone : Obligations.CommandsLeaveQueueAlone := by
  intro c s
  obtain ⟨t, e, hp, -⟩ := exec_keeps c s
  exact ⟨t, e, hp⟩

/-- Settles O4. -/
theorem stepKeepsMemoryCanonical : Obligations.StepKeepsMemoryCanonical := by
  intro s t hs e
  unfold step at e
  split at e
  · cases e
    exact (State.Frame.rfl (w := True)).cycle.memOk hs
  · obtain ⟨u, e', -, hm⟩ := exec_keeps _ { s with pending := _ }
    cases e'.symm.trans e
    exact hm hs

end Sys2Proof.Machine
end

section
/-! SUPPORT. A step: the command at the front, an idle cycle, the reset state. -/

namespace Sys2Proof.Machine

/-- Settles O1, by the definition of a step. -/
theorem stepRunsFrontCommand : Obligations.StepRunsFrontCommand := fun _ _ _ => rfl

/-- Settles O5: each named part of the reset state is evaluated. -/
theorem resetHasSpecValues : Obligations.ResetHasSpecValues :=
  ⟨rfl, rfl, rfl, rfl, by decide, by decide, by decide, by decide, by decide, by decide, by decide, by decide, rfl, rfl, rfl⟩

namespace State

/-- `t` is `s` but for the registers, the contexts' stall counters and the count of free values. -/
def StallsOnly (s t : State) : Prop := t = { s with regs := t.regs, stms := t.stms, free := t.free }

theorem StallsOnly.trans {s t u : State} (h : StallsOnly s t) (h' : StallsOnly t u) : StallsOnly s u :=
  calc u = { t with regs := u.regs, stms := u.stms, free := u.free } := h'
    _ = { s with regs := u.regs, stms := u.stms, free := u.free } := by rw [h]

theorem stallsOnly_stallCtx (s : State) (c : Nat) : StallsOnly s (s.stallCtx c) := by
  unfold stallCtx
  extract_lets k
  split
  · exact rfl
  · exact rfl

theorem stallsOnly_foldl_stallCtx (l : List Nat) (s : State) : StallsOnly s (l.foldl stallCtx s) :=
  List.foldlRecOn l stallCtx (motive := StallsOnly s) rfl fun _ h c _ => h.trans (stallsOnly_stallCtx _ c)

theorem tick_frame (s : State) :
    s.tick = { s with
      hall := s.hall + 1, pln := { s.pln with clock := s.pln.clock.map (· + 1) }, regs := s.tick.regs
      bnc := { s.bnc with philoxDue := s.tick.bnc.philoxDue } } := by
  unfold tick
  split
  · exact rfl
  · exact rfl

end State

/-- Settles O2: the tick moves the clocks and the Philox outputs, the stalls touch the contexts. -/
theorem idleStepIsOneCycle : Obligations.IdleStepIsOneCycle := by
  intro s hs
  have hc := State.stallsOnly_foldl_stallCtx (s.tick.stms.map Prod.fst) s.tick
  refine ⟨s.cycle, by rw [step, hs], ?_, ?_, ?_⟩
  · rw [State.cycle, hc, State.tick_frame]
  · rw [State.cycle, hc, State.tick_frame]
  · rw [State.cycle, hc, State.tick_frame]

end Sys2Proof.Machine
end

section
/-! SUPPORT. Resets (R368, R407): what a cold and a warm reset leave of the registers. -/

namespace Sys2Proof.Machine

/-! ## Resets (R368, R407) -/

theorem wf_regsReset (set : Nat) : Tab.wf (regsReset set) = true := by
  have hf : fsetOf set = 1000 ∨ fsetOf set = 1500 ∨ fsetOf set = 2000 := by
    unfold fsetOf
    split
    · exact .inl rfl
    · split
      exacts [.inr (.inl rfl), .inr (.inr rfl)]
  unfold regsReset
  rcases hf with h | h | h
  all_goals rw [h]; decide

theorem wf_foldl_put {α : Type} [Inhabited α] [DecidableEq α] (f : Nat → α) (l : List Nat) {t : Tab α} (h : Tab.wf t = true) :
    Tab.wf (l.foldl (fun t a => Tab.put t a (f a)) t) = true :=
  List.foldlRecOn l _ (motive := fun t => Tab.wf t = true) h fun _ h a _ => Tab.wf_put a _ h

/-- A table filled from `f` at the keys of `l` holds `f` there. -/
theorem get_foldl_put {α : Type} [Inhabited α] [DecidableEq α] (f : Nat → α) (l : List Nat) {t : Tab α} (h : Tab.wf t = true) {k : Nat}
    (hk : k ∈ l) : Tab.get (l.foldl (fun t a => Tab.put t a (f a)) t) k = f k := by
  induction l using List.reverseRecOn with
  | nil => cases hk
  | append_singleton l a ih =>
    rw [List.foldl_append, List.foldl_cons, List.foldl_nil]
    by_cases he : k = a
    · rw [he, Tab.get_put_same a _ (wf_foldl_put f l h)]
    · rw [Tab.get_put_ne _ he, ih (by simpa [he] using hk)]

theorem State.regF_setCause {s : State} {n : Nat} (hn : n < 4) (h : Tab.wf s.regs = true) :
    (s.setCause n).regF aOfcResetCause 0 2 = n := by
  rw [State.setCause, State.regF_setF_same _ n h (by decide)]
  omega

/-- What a cold reset leaves of a register that its table gives a reset value. -/
theorem State.reg_coldReset (s : State) (p : Part) (n : Nat) {a : Nat} (ha : a ≠ aOfcResetCause) :
    (s.coldReset p n).reg a = Tab.get (regsReset p.set) a := State.reg_setF_ne _ ha

theorem State.wf_warmRegs (s : State) : Tab.wf s.warmRegs = true := wf_foldl_put s.reg warmKept (wf_regsReset _)

theorem State.get_warmRegs (s : State) {a : Nat} (ha : a ∈ warmKept) : Tab.get s.warmRegs a = s.reg a := by
  unfold State.warmRegs
  generalize warmKept = l at ha ⊢
  have h := get_foldl_put s.reg l (wf_regsReset s.part.set) ha
  exact h

theorem State.warmReset_regs (s : State) (n : Nat) :
    (s.warmReset n).regs = ((({ s with regs := s.warmRegs } : State).incF aOfcResetCause 32 32 1).setCause n).regs := by
  unfold State.warmReset
  generalize s.warmRegs = r
  rfl

theorem State.reg_warmReset (s : State) (n : Nat) {a : Nat} (ha : a ∈ warmKept) (hc : a ≠ aOfcResetCause) :
    (s.warmReset n).reg a = s.reg a := by
  rw [State.reg, s.warmReset_regs]
  have h := s.get_warmRegs ha
  generalize s.warmRegs = r at h ⊢
  exact (State.reg_setF_ne _ hc).trans ((State.reg_incF_ne _ hc).trans h)

theorem State.regF_cause_warmReset {s : State} {n : Nat} (hn : n < 4) : (s.warmReset n).regF aOfcResetCause 0 2 = n := by
  rw [State.regF, State.reg, s.warmReset_regs]
  have h := s.wf_warmRegs
  generalize s.warmRegs = r at h ⊢
  exact State.regF_setCause hn (State.incF_wf _ h)

theorem State.warmKept_warmReset (s : State) (n : Nat) : WarmKept s (s.warmReset n) :=
  ⟨rfl, rfl, rfl, rfl, fun _ ha hc => s.reg_warmReset n ha hc, rfl, rfl, rfl, rfl, rfl, rfl, rfl, rfl, rfl, rfl, rfl, rfl, rfl, rfl⟩

/-- The sideband's messages go out and change nothing else. -/
theorem State.sideband_frame (s : State) (k : Nat) (skip : Option Nat) : s.sideband k skip = { s with out := (s.sideband k skip).out } := by
  unfold State.sideband
  refine List.foldlRecOn _ _ (motive := fun t : State => t = { s with out := t.out }) rfl fun t ht l _ => ?_
  split
  · rw [ht]
    rfl
  · exact ht

theorem WarmKept.of_frame {s u t : State} {p : Part} {o : List PortOut} (hu : u = { s with part := p, out := o }) (h : WarmKept u t) :
    WarmKept s t := by
  subst hu
  exact h

theorem regsReset_lkrEpoch (set : Nat) : Tab.get (regsReset set) aLkrEpoch = 1 := rfl
theorem regsReset_mkrRecEpoch (set : Nat) : Tab.get (regsReset set) aMkrRecEpoch = 0 := rfl

/-- Settles O6. -/
theorem resetsByKind : Obligations.ResetsByKind := by
  refine ⟨fun st fuses s => ?cold, fun st s => ?warm, fun s hs => ?ofc⟩
  case cold =>
    have hreg := fun a ha => s.reg_coldReset (strapPart st fuses) 0 (a := a) ha
    exact ⟨_, rfl, rfl, rfl, rfl, rfl, rfl, rfl, rfl, rfl, rfl, rfl, rfl, rfl, rfl, rfl, rfl, rfl, rfl,
      (hreg _ (by decide)).trans (regsReset_lkrEpoch _), (hreg _ (by decide)).trans (regsReset_mkrRecEpoch _),
      State.regF_setCause (by decide) (wf_regsReset _), rfl, rfl, rfl⟩
  case warm =>
    have hf := s.sideband_frame 1 none
    generalize hu : s.sideband 1 none = u at hf
    have he : exec (.warmReset st) s = .next
        (({ u with part := { strapPart st u.part.fuses with set := u.part.set } } : State).warmReset 1) := by
      rw [← hu]
      rfl
    refine ⟨_, he, ?_, State.regF_cause_warmReset (by decide), .of_frame (o := u.out) (by rw [hf]) (State.warmKept_warmReset _ 1)⟩
    show ({ strapPart st u.part.fuses with set := u.part.set } : Part) = _
    rw [hf]
  case ofc =>
    have hh : s.head = true := by rw [State.head, hs]; rfl
    have he : exec .ofcResetWarm s = .next ((s.sideband 1 none).warmReset 2) := by
      show Host.Outcome.next s.ofcWarm = _
      rw [State.ofcWarm, if_pos hh]
    refine ⟨_, he, ?_, State.regF_cause_warmReset (by decide), .of_frame (s.sideband_frame 1 none) (State.warmKept_warmReset _ 2)⟩
    show (s.sideband 1 none).part = s.part
    rw [s.sideband_frame]
end Sys2Proof.Machine
end

section
/-! SUPPORT. The loader's START, ABORT and pushed data (R53 to R60). -/

namespace Sys2Proof.Machine
variable {s : State}

/-! ## SYL_CTRL and SYL_PUSH_DATA -/

/-- The write of MODE and SOURCE that comes with a START. -/
def State.sylMode (s : State) (kind src : Nat) : State := ((s.setF aSylCtrl 4 2 kind).setF aSylCtrl 2 1 src).wake

theorem State.sylMode_frame (s : State) (kind src : Nat) :
    s.sylMode kind src = { s with regs := (s.sylMode kind src).regs
                                  pins := { s.pins with fclkReq := (s.sylMode kind src).pins.fclkReq } } := by
  rw [State.sylMode, State.wake_frame]
  rfl

theorem State.regF_sylMode (s : State) (kind src : Nat) {a : Nat} (lo len : Nat) (ha : a ≠ aSylCtrl) :
    (s.sylMode kind src).regF a lo len = s.regF a lo len := by
  have h : (s.sylMode kind src).reg a = s.reg a := by
    rw [State.reg, State.sylMode, State.wake_regs]
    exact (State.reg_setF_ne _ ha).trans (State.reg_setF_ne _ ha)
  rw [State.regF, h]
  rfl

theorem State.vfBad_sylMode (s : State) (kind src : Nat) : (s.sylMode kind src).vfBad = s.vfBad := by
  have h : ∀ k lo len, (s.sylMode kind src).regF (aPwrVf + 8 * k) lo len = s.regF (aPwrVf + 8 * k) lo len := fun k lo len =>
    s.regF_sylMode kind src lo len (by unfold aPwrVf aSylCtrl; omega)
  have hp : (s.sylMode kind src).part = s.part := by rw [State.sylMode_frame]
  simp only [State.vfBad, h, hp]

theorem State.sylBusy_sylMode (s : State) (kind src k : Nat) (push halted : Bool) :
    (s.sylMode kind src).sylBusy k push halted = s.sylBusy k push halted := by
  have hv := s.vfBad_sylMode kind src
  have hf := s.sylMode_frame kind src
  generalize s.sylMode kind src = u at hv hf ⊢
  unfold State.sylBusy
  rw [hv, hf]
  rfl

/-- A START that is not busy enters the fetch phase. -/
theorem State.sylStart_eq (kind src : Nat) (halted : Bool) (hb : s.sylBusy kind (src == 1) halted = false)
    (hs : src = 1 ∨ meets s.sylSrc (2 ^ 26) (s.secondHalf s.part.form) (2 ^ 26) = false) :
    ∃ t, s.sylStart kind src halted = t
      ∧ t.load = { s.load with
          phase := 1, kind := kind, push := src == 1, recv := [], pushed := 0, verified := none
          pend := if kind = 1 then none else s.load.pend }
      ∧ t.syl = s.syl ∧ t.t0 = s.t0 := by
  have hb' := s.sylBusy_sylMode kind src kind (src == 1) halted
  have hsrc : (s.sylMode kind src).sylSrc = s.sylSrc := by rw [State.sylSrc, s.regF_sylMode _ _ _ _ (by decide)]; rfl
  have hf := s.sylMode_frame kind src
  refine ⟨_, rfl, ?_⟩
  unfold State.sylStart
  extract_lets u1 u2 push v
  have hu : u2 = s.sylMode kind src := rfl
  clear_value u2
  subst hu
  rw [if_neg (by rw [hb', hb]; decide)]
  have hv : v.load = { s.load with
          phase := 1, kind := kind, push := src == 1, recv := [], pushed := 0, verified := none
          pend := if kind = 1 then none else s.load.pend } ∧ v.syl = s.syl ∧ v.t0 = s.t0 := by
    unfold v State.modLoad
    rw [hf]
    exact ⟨rfl, rfl, rfl⟩
  by_cases h1 : push = true
  · rw [if_pos h1]
    exact hv
  · rw [if_neg h1]
    have hm : meets v.sylSrc (2 ^ 26) (v.secondHalf v.part.form) (2 ^ 26) = false := by
      have h := hs.resolve_left fun h => h1 (by unfold push; rw [h]; rfl)
      have hc : v.sylSrc = s.sylSrc ∧ v.secondHalf v.part.form = s.secondHalf s.part.form := by
        refine ⟨hsrc, ?_⟩
        unfold v State.modLoad
        rw [hf]
        rfl
      rw [hc.1, hc.2, h]
    rw [if_neg (by rw [hm]; decide)]
    exact hv

theorem State.sylStart_busy (kind src : Nat) (halted : Bool) (hb : s.sylBusy kind (src == 1) halted = true) :
    s.sylStart kind src halted = (s.sylMode kind src).sylRefuse (evSylBusy, 0xFF, 0) := 
  if_pos ((s.sylBusy_sylMode kind src kind (src == 1) halted).trans hb)

/-- A refusal that names no section (log 50). -/
theorem State.sylRefuse_noSection (e : Ev) (off : Nat) (h : off < 2 ^ 26) :
    s.sylRefuse (e, 0xFF, off) = s.logEv e (at_ 40 0xFF + off) := by
  rw [State.sylRefuse]
  dsimp only
  rw [Nat.mod_eq_of_lt h]

theorem State.pushing_wake : s.wake.pushing = s.pushing := by rw [State.pushing, State.wake_load]; rfl

theorem srcPush (src : BitVec 1) : (src.toNat == 1) = (src == 1) := by
  rw [Bool.eq_iff_iff, beq_iff_eq, beq_iff_eq, ← BitVec.toNat_inj]
  rfl

/-- Settles O7. -/
theorem loaderCommands : Obligations.LoaderCommands := by
  refine ⟨⟨fun src halted s hb hs => ?full, fun src s hb hs => ?part, fun s hh => ?relay⟩, fun src halted s => ⟨fun hb => ?bf, fun hb => ?bp⟩,
    fun s => ⟨fun hp => ?ab, fun hp => ?no⟩⟩
  case full =>
    obtain ⟨t, he, hl, hr⟩ := State.sylStart_eq (s := s) 1 src.toNat halted (by rw [srcPush, hb]) (hs.imp_left fun h => by rw [h]; rfl)
    exact ⟨t, congrArg _ he, by rw [hl, srcPush]; rfl, hr⟩
  case part =>
    obtain ⟨t, he, hl, hr⟩ := State.sylStart_eq (s := s) 2 src.toNat true (by rw [srcPush, hb]) (hs.imp_left fun h => by rw [h]; rfl)
    exact ⟨t, congrArg _ he, by rw [hl, srcPush]; rfl, hr⟩
  case relay =>
    show Host.Outcome.next s.sylStarted = _
    rw [State.sylStarted, if_neg (by rw [hh]; decide)]
    rfl
  case bf =>
    show Host.Outcome.next (s.sylStart 1 src.toNat halted) = _
    rw [State.sylStart_busy _ _ _ (by rw [srcPush, hb]), State.sylRefuse_noSection _ _ (by decide)]
    rfl
  case bp =>
    show Host.Outcome.next (s.sylStart 2 src.toNat) = _
    rw [State.sylStart_busy _ _ _ (by rw [srcPush, hb]), State.sylRefuse_noSection _ _ (by decide)]
    rfl
  case ab =>
    show Host.Outcome.next s.sylAbort = _
    rw [State.sylAbort, State.pushing_wake, if_pos hp, State.sylEnd, State.sylRefuse_noSection _ _ (by decide), State.modLoad,
      State.wake_load, Nat.add_zero]
  case no =>
    show Host.Outcome.next s.sylAbort = _
    rw [State.sylAbort, State.pushing_wake, if_neg (by rw [hp]; decide)]

/-- Settles O8. -/
theorem pushDataAppendsBytes : Obligations.PushDataAppendsBytes := by
  intro w s
  have he : exec (.sylPushData w) s = .next (s.sylPush w) := rfl
  refine ⟨fun hp => ?outside, fun hp => ⟨fun hn => ?stored, fun h64 hn => ?bad⟩⟩
  case outside => rw [he, State.sylPush, if_pos (by rw [hp]; rfl)]
  case stored =>
    rw [he, State.sylPush, if_neg (by rw [hp]; decide)]
    refine congrArg _ (if_neg ?_)
    rintro ⟨h64, hlen⟩
    exact hn.elim (fun h => h h64) fun ⟨hlo, hhi⟩ => hlen.elim (Nat.not_lt.mpr hlo) (Nat.not_lt.mpr hhi)
  case bad =>
    rw [he, State.sylPush, if_neg (by rw [hp]; decide)]
    exact congrArg _ ((if_pos ⟨h64, hn⟩).trans (State.sylRefuse_noSection _ _ (by decide)))

end Sys2Proof.Machine
end

section
/-! SUPPORT. A received image (R50, R53). -/

namespace Sys2Proof.Machine
variable {s : State}

/-! ## A received image -/

/-- The record of the sections that go to the other forms. -/
theorem State.foldl_emit (f : Nat → PortOut) (l : List Nat) (s : State) :
    l.foldl (fun s i => s.emit (f i)) s = { s with out := s.out ++ l.map f } := by
  induction l generalizing s with
  | nil => rw [List.map_nil, List.append_nil]; rfl
  | cons i l ih => rw [List.foldl_cons, ih, List.map_cons, State.emit]; simp only [List.append_assoc, List.singleton_append]

theorem State.sendSections_eq (hh : s.head = true) (im : Image) :
    s.sendSections im = { s with
      out := s.out ++ (List.range (s.forms - 1)).map fun i => .sections (i + 1) (formSects im.all (i + 1)) } := by
  rw [State.sendSections, if_neg (by rw [hh]; decide), State.foldl_emit]

/-- The image that the head fetched, as it goes to the checks. -/
theorem State.imageReceived_eq (img : Bytes) (ok : Bool) (hh : s.head = true) (hw : s.part.whole = true) (h1 : s.load.phase = 1)
    (hp : s.load.push = false) :
    s.imageReceived img ok =
      if ok = false then s.sylEnd (evSylSource, 0xFF, 0)
      else match (s.emit (.store true (s.secondHalf s.part.form) img.length)).verify s.load.kind img with
        | some e => (s.emit (.store true (s.secondHalf s.part.form) img.length)).sylEnd e
        | none => (s.emit (.store true (s.secondHalf s.part.form) img.length)).sylVerified (imgOf img s.part.form) := by
  have hpu : s.pushing = false := by rw [State.pushing, hp, Bool.and_false, Bool.false_and]
  rw [State.imageReceived]
  simp only [hh, hw, h1, hp, hpu]
  cases ok
  · rfl
  · rfl

theorem State.sylVerified_full {im : Image} (hk : im.kind = 1) :
    s.sylVerified im = (s.sendSections im).modLoad fun l => { l with
      phase := 3, kind := 1, verified := some im, pend := none, recv := [] } := if_pos hk

theorem State.sylVerified_partial {im : Image} (hk : im.kind ≠ 1) :
    s.sylVerified im = (if (s.sendSections im).load.pend.isSome then (s.sendSections im).logPlain evSylPartialReplaced
      else s.sendSections im).modLoad fun l => { l with phase := 0, pend := some im, recv := [] } := if_neg hk

/-- Settles O9. -/
theorem imageIsVerifiedOrRefused : Obligations.ImageIsVerifiedOrRefused := by
  intro img s hh hw h1 hp
  have he : ∀ ok, exec (.sylImageReceived img ok) s = .next (s.imageReceived img ok) := fun _ => rfl
  extract_lets u im
  have hv' : ∀ {r}, u.verify s.load.kind img = r → (match u.verify s.load.kind img with
        | some e => u.sylEnd e
        | none => u.sylVerified im) = match r with
        | some e => u.sylEnd e
        | none => u.sylVerified im := fun h => by rw [h]
  refine ⟨fun hv hk => ?full, fun hv hk => ?part, fun e hv => ?bad, ?source⟩
  case full =>
    have ht : s.imageReceived img true = u.sylVerified im := by
      rw [State.imageReceived_eq img true hh hw h1 hp, if_neg (by decide)]
      exact hv' hv
    have hs : u.sendSections im = _ := State.sendSections_eq (s := u) hh im
    rw [State.sylVerified_full hk, hs] at ht
    exact ⟨_, (he true).trans (congrArg _ ht), rfl, rfl, rfl⟩
  case part =>
    have ht : s.imageReceived img true = u.sylVerified im := by
      rw [State.imageReceived_eq img true hh hw h1 hp, if_neg (by decide)]
      exact hv' hv
    have hs : u.sendSections im = _ := State.sendSections_eq (s := u) hh im
    rw [State.sylVerified_partial hk, hs] at ht
    refine ⟨_, (he true).trans (congrArg _ ht), ?_⟩
    split
    · rw [State.modLoad, State.logPlain_load]
      exact ⟨rfl, State.logPlain_syl _ _, State.logPlain_t0 _ _, State.logPlain_out _ _⟩
    · exact ⟨rfl, rfl, rfl, rfl⟩
  case bad =>
    rw [he, State.imageReceived_eq img true hh hw h1 hp, if_neg (by decide)]
    exact congrArg _ (hv' hv)
  case source => 
    rw [he, State.imageReceived_eq img false hh hw h1 hp, if_pos rfl]
    exact congrArg _ (State.sylRefuse_noSection _ _ (by decide))

end Sys2Proof.Machine
end

section
/-! SUPPORT. A full load (R54 to R57): what the installation of an image leaves alone. -/

namespace Sys2Proof.Machine
variable {s t u : State}

/-! ## What sending requests changes -/

/-- The two states agree in everything but the memory ports' state and the port trace. -/
def State.sameButMem (s t : State) : Prop := t = { s with mem := t.mem, out := t.out }

theorem State.sameButMem.trans (h : s.sameButMem t) (h' : t.sameButMem u) : s.sameButMem u :=
  calc u = { t with mem := u.mem, out := u.out } := h'
    _ = { s with mem := u.mem, out := u.out } := by rw [h]

theorem State.sendReq_frame (s : State) (r : MemReq) (retried : Bool) : s.sameButMem (s.sendReq r retried) := by
  unfold State.sendReq
  split <;> exact rfl

theorem pumpLoop_frame (n : Nat) (s : State) : s.sameButMem (pumpLoop n s) := by
  induction n generalizing s with
  | zero => exact rfl
  | succ n ih =>
    rw [pumpLoop]
    split
    · exact rfl
    · refine State.sameButMem.trans ?_ (ih _)
      refine State.sameButMem.trans ?_ (State.sendReq_frame _ _ _)
      exact rfl

theorem State.pump_frame (s : State) : s.sameButMem s.pump := pumpLoop_frame _ s

theorem State.startJob_frame (s : State) (kind : JobKind) (f : Nat → List MemReq) : s.sameButMem (s.startJob kind f) :=
  State.sameButMem.trans (t := { s with mem := _ }) rfl (State.pump_frame _)

theorem State.fetchTile_frame (s : State) (rd : TileRd) : s.sameButMem (s.fetchTile rd) := by
  unfold State.fetchTile State.startRead
  exact s.startJob_frame _ _

theorem State.foldl_sameButMem {α : Type} {f : State → α → State} (hf : ∀ (s : State) a, s.sameButMem (f s a)) (l : List α) (s : State) :
    s.sameButMem (l.foldl f s) :=
  List.foldlRecOn l f (motive := s.sameButMem) rfl fun _ h a _ => h.trans (hf _ a)

theorem State.readRecords_frame (s : State) : s.sameButMem s.readRecords := by
  unfold State.readRecords
  split
  · exact rfl
  · exact State.foldl_sameButMem (fun _ _ => State.fetchTile_frame _ _) _ _

/-! ## A full load -/

theorem State.setMasks_frame (s : State) : s.setMasks = { s with asms := s.setMasks.asms } := rfl

theorem State.fenceLinks_frame (s : State) : s.fenceLinks = { s with fab := s.fenceLinks.fab } := by
  unfold State.fenceLinks
  refine List.foldlRecOn _ _ (motive := fun t : State => t = { s with fab := t.fab }) rfl fun t ht p _ => ?_
  dsimp only
  split
  · split
    · exact ht
    · rw [ht]; rfl
  · split
    · rw [ht]; rfl
    · exact ht

theorem State.sameButRegs.trans (h : s.sameButRegs t) (h' : t.sameButRegs u) : s.sameButRegs u :=
  calc u = { t with regs := u.regs } := h'
    _ = { s with regs := u.regs } := by rw [h]

theorem State.clearRegs_frame (s : State) : s.sameButRegs s.clearRegs := by
  unfold State.clearRegs
  extract_lets cleared counted
  have hc : s.sameButRegs cleared :=
    List.foldlRecOn _ _ (motive := s.sameButRegs) rfl fun t ht a _ => ht.trans (t.setReg_frame a 0)
  have hn : s.sameButRegs counted :=
    List.foldlRecOn _ _ (motive := s.sameButRegs) hc fun t ht u _ => by
      split
      · exact ht.trans (t.setF_frame _ _ _ _)
      · exact ht
  exact hn.trans (counted.setF_frame _ _ _ _)

/-- The part of the state that the installation of an image leaves alone once the image is in force. -/
def State.sameButTables (s t : State) : Prop :=
  t = { s with regs := t.regs, asms := t.asms, fab := t.fab, mem := t.mem, out := t.out, err := t.err }

theorem State.tables_frame (s : State) : s.sameButTables (s.setMasks.fenceLinks).clearRegs := by
  rw [State.sameButTables, State.clearRegs_frame, State.fenceLinks_frame, State.setMasks_frame]

theorem State.sameButTables.trans (h : s.sameButTables t) (h' : t.sameButTables u) : s.sameButTables u :=
  calc u = { t with regs := u.regs, asms := u.asms, fab := u.fab, mem := u.mem, out := u.out, err := u.err } := h'
    _ = { s with regs := u.regs, asms := u.asms, fab := u.fab, mem := u.mem, out := u.out, err := u.err } := by rw [h]

/-- The state with the image in force, before its tables are filled. -/
def State.withImage (s : State) (im : Image) : State :=
  { s with
    syl := some im, level := if s.head then max (strapLevel s.part.compat) im.level else im.level, stepCtr := 0
    load := { s.load with phase := 0, verified := none, pend := none, loaded := true }
    sec := { s.sec with
      rosterFailed := [], winScales := s.sec.winScales.filter fun e => e.1 % 2 == 1, winOrig := [] }
    pwr := { s.pwr with vfLocked := true, readDue := true } }

theorem State.sameButMem.tables (h : s.sameButMem t) : s.sameButTables t := by rw [State.sameButTables, h]
theorem State.sameButRegs.tables (h : s.sameButRegs t) : s.sameButTables t := by rw [State.sameButTables, h]
theorem State.sameButLog.tables (h : s.sameButLog t) : s.sameButTables t := by rw [State.sameButTables, h]

theorem State.loadInstall_frame (s : State) (im : Image) (cycles : Nat) : (s.withImage im).sameButTables (s.loadInstall im cycles) := by
  unfold State.loadInstall
  extract_lets n u1 x y z u2 u3 u4 u5 u6
  have h3 : (s.withImage im).sameButTables u3 := rfl
  have h4 : u3.sameButTables u4 := u3.tables_frame
  clear_value u4
  have h5 : u4.sameButRegs u5 := rfl
  have h6 : u5.sameButRegs u6 := rfl
  exact ((((h3.trans h4).trans h5.tables).trans h6.tables).trans (u6.logPlain_frame _).tables).trans
    (State.readRecords_frame _).tables

theorem State.part_loadClear (s : State) : s.loadClear.part = s.part := (State.Frame.rfl (w := True)).loadClear.part

theorem State.loadClear_empty (s : State) : s.loadClear.ques = [] ∧ s.loadClear.flights = [] ∧ s.loadClear.lkrs = []
    ∧ s.loadClear.stms = [] ∧ s.loadClear.crs = [] ∧ s.loadClear.bells = [] ∧ s.loadClear.slots = [] ∧ s.loadClear.t0 = [] := by
  unfold State.loadClear
  extract_lets
  exact ⟨rfl, rfl, rfl, rfl, rfl, rfl, rfl, rfl⟩

theorem State.fullLoadApply_peer (s : State) (cycles : Nat) : s.fullLoadApply cycles .peer = s.loadClear.dropSyllabus := by
  unfold State.fullLoadApply
  cases s.load.verified with
  | none => rfl
  | some im => rfl

theorem State.fullLoadApply_fault {im : Image} (cycles : Nat) (hv : s.load.verified = some im) :
    s.fullLoadApply cycles .fault = s.loadClear.dropSyllabus.sylRefuse (evSylApplyFail, 0xFF, 0) := by
  unfold State.fullLoadApply
  rw [hv]

theorem State.fullLoadApply_none {last : ApplyEnd} (cycles : Nat) (hv : s.load.verified = none) (hl : last ≠ .peer) :
    s.fullLoadApply cycles last = s := by
  unfold State.fullLoadApply
  rw [hv]
  cases last with
  | peer => exact absurd rfl hl
  | _ => rfl

/-- Settles O10. -/
theorem fullLoadInstallsImage : Obligations.FullLoadInstallsImage := by
  have he : ∀ (cycles : BitVec 32) last (s : State), exec (.fullLoadApply cycles last) s = .next (s.fullLoadApply cycles.toNat last) :=
    fun _ _ _ => rfl
  refine ⟨fun cycles im s hv => ?done, fun cycles last im s hv hl => ?fault, fun cycles s hv => ⟨fun last hl => ?none, ?peer⟩⟩
  case done =>
    refine ⟨_, exec_fullLoadApply_done cycles hv, ?_⟩
    have hf := s.loadClear.loadInstall_frame im cycles.toNat
    obtain ⟨hq, hfl, hlk, hst, hcr, hb, hsl, ht⟩ := s.loadClear_empty
    rw [hf]
    refine ⟨rfl, rfl, rfl, rfl, rfl, ?_, hq, hfl, hlk, hst, hcr, hb, hsl, ht, rfl⟩
    show (if s.loadClear.head = true then max (strapLevel s.loadClear.part.compat) im.level else im.level) = _
    simp only [State.head, s.part_loadClear, beq_iff_eq]
  case fault =>
    rw [Runs, he]
    cases last with
    | done => exact absurd rfl hl
    | fault =>
      rw [State.fullLoadApply_fault _ hv]
      refine ⟨_, rfl, ?_⟩
      rw [State.sylRefuse, State.logEv_syl, State.logEv_load]
      exact ⟨rfl, rfl, rfl, rfl⟩
    | peer =>
      rw [State.fullLoadApply_peer]
      exact ⟨_, rfl, rfl, rfl, rfl, rfl⟩
  case none => rw [he, State.fullLoadApply_none _ hv hl]
  case peer =>
    rw [Runs, he, State.fullLoadApply_peer]
    exact ⟨_, rfl, rfl, rfl, rfl⟩

end Sys2Proof.Machine
end

section
/-! SUPPORT. Assemblies and bell pairs (R243 to R249): the mask's bits, arrivals, completion, the rebase. -/

namespace Sys2Proof.Machine
variable {s : State}

/-! ## Bits of a mask -/

theorem getLsbD_maskBit {p i : Nat} (hp : p < 64) : (maskBit p).getLsbD i = decide (i = p) := by
  rw [maskBit, BitVec.getLsbD_ofNat, Nat.testBit_two_pow, Bool.eq_iff_iff]
  simp only [Bool.and_eq_true, decide_eq_true_eq]
  omega

theorem and_maskBit_eq_zero {w : Word} {p : Nat} (hp : p < 64) : w &&& maskBit p = 0 ↔ w.getLsbD p = false := by
  constructor
  · intro h
    have hb : (w &&& maskBit p).getLsbD p = false := by rw [h]; exact BitVec.getLsbD_zero
    simpa [getLsbD_maskBit hp] using hb
  · intro h
    refine BitVec.eq_of_getLsbD_eq fun i hi => ?_
    rw [BitVec.getLsbD_and, getLsbD_maskBit hp]
    by_cases he : i = p
    · rw [he, h]; simp
    · simp [he]

theorem countP_or_single {l : List Nat} {f : Nat → Bool} {p : Nat} (hn : l.Nodup) (hp : p ∈ l) (hf : f p = false) :
    l.countP (fun i => f i || decide (i = p)) = l.countP f + 1 := by
  induction l with
  | nil => cases hp
  | cons a l ih =>
    obtain ⟨ha, hn⟩ := List.nodup_cons.mp hn
    by_cases he : a = p
    · subst he
      have hl : l.countP (fun i => f i || decide (i = a)) = l.countP f :=
        List.countP_congr fun i hi => by simp [show i ≠ a from fun h => ha (h ▸ hi)]
      simp [hl, hf]
    · have := ih hn ((List.mem_cons.mp hp).resolve_left fun h => he h.symm)
      simp [List.countP_cons, this, he]
      omega

theorem popcount_or_maskBit {w : Word} {p : Nat} (hp : p < 64) (hw : w.getLsbD p = false) :
    popcount (w ||| maskBit p) = popcount w + 1 := by
  simp only [popcount, BitVec.getLsbD_or, getLsbD_maskBit hp]
  exact countP_or_single List.nodup_range (List.mem_range.mpr hp) hw

/-! ## Slots of an assembly -/

theorem Asm.arr_setArr (a : Asm) (sn : Nat) (w : Word) : (a.setArr sn w).arr sn = w := by
  unfold Asm.arr Asm.setArr
  split <;> rfl

theorem Asm.setArr_frame (a : Asm) (sn : Nat) (w : Word) : (a.setArr sn w).mask = a.mask ∧ (a.setArr sn w).round = a.round := by
  unfold Asm.setArr
  split <;> exact ⟨rfl, rfl⟩

theorem Asm.drain_setDrain (a : Asm) (sn : Nat) (b : Bool) : (a.setDrain sn b).drain sn = b := by
  unfold Asm.drain Asm.setDrain
  split <;> rfl

theorem Asm.setDrain_frame (a : Asm) (sn : Nat) (b : Bool) :
    (a.setDrain sn b).mask = a.mask ∧ (a.setDrain sn b).arr0 = a.arr0 ∧ (a.setDrain sn b).arr1 = a.arr1 ∧ (a.setDrain sn b).held = a.held := by
  unfold Asm.setDrain
  split <;> exact ⟨rfl, rfl, rfl, rfl⟩

theorem Asm.full_iff (a : Asm) :
    a.full = true ↔ a.mask ≠ 0 ∧ a.drain a.parity = false ∧ a.count a.parity = popcount a.mask := by
  simp only [Asm.full, Bool.and_eq_true, Bool.not_eq_true', bne_iff_ne, decide_eq_true_eq]
  tauto

theorem exec_asmMaskWrite (a : BitVec 10) (m : Word) (h : s.fullLoading = false) (ha : a.toNat < limAsms s.part.set) :
    exec (.asmMaskWrite a m) s = .next (s.writeMask a.toNat m) := by
  show Host.Outcome.next (s.hostWrites (s.hostMask a.toNat m)) = _
  rw [State.hostWrites, if_neg (by rw [h]; decide), State.hostMask, if_pos ha]

/-- Settles O12. A mask of 0 makes no assembly full, the model's reading of R247. -/
theorem assemblyMaskAndArrival : Obligations.AssemblyMaskAndArrival := by
  refine ⟨fun a m s h ha => ?mask, fun a => ⟨fun hf => ?full, fun hf => ?notFull⟩, fun n p sn q s hp _ => ⟨?out, ?held, ?again, ?new⟩⟩
  case mask =>
    rw [exec_asmMaskWrite a m h ha]
    rfl
  case full =>
    have hd := (a.setDrain_frame a.parity true)
    rw [Asm.complete, if_pos (a.full_iff.mpr hf)]
    exact ⟨rfl, a.drain_setDrain a.parity true, hd⟩
  case notFull => rw [Asm.complete, if_neg fun h => hf (a.full_iff.mp h)]
  case out =>
    intro hm
    rw [State.arrive]
    exact if_pos ((and_maskBit_eq_zero hp).mpr hm)
  all_goals intro hm hd
  all_goals
    have hm' : ¬ (s.asm n).mask &&& maskBit p = 0 := fun h => by rw [(and_maskBit_eq_zero hp).mp h] at hm; cases hm
    rw [State.arrive]
    rw [if_neg hm']
  case held => rw [if_pos hd]
  case again =>
    intro hb
    rw [if_neg (by rw [hd]; decide), if_pos fun h => by rw [(and_maskBit_eq_zero hp).mp h] at hb; cases hb]
  case new =>
    intro hb
    rw [if_neg (by rw [hd]; decide), if_neg fun h => h ((and_maskBit_eq_zero hp).mpr hb)]
    obtain ⟨hmask, hround⟩ := (s.asm n).setArr_frame sn ((s.asm n).arr sn ||| maskBit p)
    refine ⟨_, rfl, ?_, hmask, hround, ?_⟩
    · rw [Asm.arr_setArr, BitVec.getLsbD_or, getLsbD_maskBit hp]
      simp
    · rw [Asm.count, Asm.arr_setArr, popcount_or_maskBit hp hb]
      rfl

/-! ## The rebase -/

/-- Settles O13. -/
theorem rebaseKeepsDifference : Obligations.RebaseKeepsDifference := by
  intro a b s hab hw
  have ha := s.bell_lt a
  have hb := s.bell_lt b
  have hw' : Tab.wf (s.setBell a (s.bell a - min (s.bell a) (s.bell b))).bells = true := Tab.wf_put a _ hw
  rw [State.rebasePair]
  refine ⟨?_, ?_, fun m hma hmb => ?_, rfl⟩
  · rw [State.bell_setBell_ne _ hab, State.bell_setBell_same _ hw, Nat.mod_eq_of_lt ((Nat.sub_le _ _).trans_lt ha)]
  · rw [State.bell_setBell_same _ hw', Nat.mod_eq_of_lt ((Nat.sub_le _ _).trans_lt hb)]
  · rw [State.bell_setBell_ne _ hmb, State.bell_setBell_ne _ hma]

end Sys2Proof.Machine
end

section
/-! SUPPORT. Queues (R256 to R260): a push, the control actions, the tests at the head of a queue. -/

namespace Sys2Proof.Machine
variable {s : State}

theorem State.que_modQue_of_ne {q : Nat} {f : Que → Que} (h : f (s.que q) ≠ default) : (s.modQue q f).que q = f (s.que q) :=
  Tab.get_put_of_ne q h

theorem exec_quePush (v : Word) (h : s.fullLoading = false) : exec (.quePush v) s = .next (s.push (fld v 0 13)) :=
  congrArg Host.Outcome.next (if_neg (by rw [h]; decide))

theorem State.append_eq (s : State) (q : Nat) (c : Cmd) (tag : Option EntTag) :
    s.append q c tag = (s.t0Write (s.ringAddr q (s.que q).tail) (cmdBytes c)).modQue q fun x =>
      { x with tail := (x.tail + 1) % (2 * s.ringDepth), tags := x.tags ++ [tag] } := by
  rw [State.append]
  generalize cmdBytes c = bs
  rfl

theorem State.que_append (s : State) (q : Nat) (c : Cmd) (tag : Option EntTag) :
    (s.append q c tag).que q = { s.que q with
      tail := ((s.que q).tail + 1) % (2 * s.ringDepth), tags := (s.que q).tags ++ [tag] } := by
  rw [State.append_eq]
  generalize cmdBytes c = bs
  refine State.que_modQue_of_ne fun h => ?_
  have ht : (s.que q).tags ++ [tag] = [] := congrArg Que.tags h
  exact List.concat_ne_nil _ _ ht
/-- Settles O14. -/
theorem pushAppendsStagedCommand : Obligations.PushAppendsStagedCommand := by
  intro v s h
  rw [exec_quePush v h]
  have he := exec_quePush v h
  generalize fld v 0 13 = q at he ⊢
  refine ⟨fun hx ht hf => ?room, fun hx ht hf => ?full, fun hx => ?illegal⟩
  case room =>
    have hp : s.push q = (s.append q s.sync.stage none).wake := by
      rw [State.push, if_neg (by rw [hx, ht]; decide), if_neg (by rw [hf]; decide)]
    refine ⟨_, he.trans (congrArg _ hp), ?_, ?_, ?_⟩
    · rw [State.wake_t0, State.append_eq]
      generalize cmdBytes s.sync.stage = bs
      rfl
    · exact (congrArg (Tab.get · q) (State.wake_ques _)).trans (s.que_append q _ none)
    · rw [State.wake_frame, State.append_eq]
      generalize cmdBytes s.sync.stage = bs
      rfl
  case full =>
    rw [State.push, if_neg (by rw [hx, ht]; decide), if_pos hf]
  case illegal =>
    rw [State.push, if_pos]
    rcases hx with hx | ht
    · rw [hx]; rfl
    · rw [ht, Bool.or_true]

/-! ## The control actions -/

theorem exec_queCtrl (q : BitVec 13) (h : s.fullLoading = false) (hq : q.toNat < limQueues s.part.set) :
    exec (.resume q) s = .next (s.queResume q.toNat) ∧ exec (.run q) s = .next (s.queRun q.toNat)
      ∧ exec (.halt q) s = .next (s.queHalt q.toNat) ∧ exec (.skip q) s = .next (s.queCtrl q.toNat 2)
      ∧ exec (.flush q) s = .next (s.queCtrl q.toNat 16) := by
  have hw : ∀ u, s.hostWrites u = u := fun u => if_neg (by rw [h]; decide)
  have hc : ∀ v, s.hostQueCtrl q.toNat v = s.writeQueCtrl q.toNat v := fun v => if_pos hq
  have hd : ∀ v, s.hostCtrl q.toNat v = s.queCtrl q.toNat v := fun v => if_pos hq
  exact ⟨congrArg _ ((hw _).trans (hc 1)), congrArg _ ((hw _).trans (hc 8)), congrArg _ ((hw _).trans (hc 4)),
    congrArg _ ((hw _).trans (hd 2)), congrArg _ ((hw _).trans (hd 16))⟩

/-- HALT of a going queue: at once when it holds no issued or accepted command, and else at the next command boundary. -/
theorem State.queHalt_going {q : Nat} (hg : (s.que q).run = .going) :
    (s.queHalt q).que q = (if s.queBusy q = true then { s.que q with haltReq := true }
        else { s.que q with haltReq := false, run := .halted, waiting := false })
      ∧ s.queHalt q = { s with
          ques := (s.queHalt q).ques, sync := { s.sync with waiters := s.sync.waiters.filter (· != q) } } := by
  rw [State.queHalt, if_pos hg]
  extract_lets x u
  have hv : (u.modQue q fun x => { x with haltReq := true }).que q = { s.que q with haltReq := true } :=
    State.que_modQue_of_ne fun h => Bool.noConfusion (congrArg Que.haltReq h : true = false)
  have hb : (u.modQue q fun x => { x with haltReq := true }).queBusy q = s.queBusy q := by
    rw [State.queBusy, hv]
    rfl
  generalize hw : (u.modQue q fun x => { x with haltReq := true }) = v at hv hb ⊢
  rw [State.boundaryHalt, hv, hb]
  cases s.queBusy q with
  | true =>
    rw [← hw] at hv ⊢
    exact ⟨hv, rfl⟩
  | false =>
    refine ⟨(State.que_modQue_of_ne fun h => absurd (congrArg Que.run h) ?_).trans (by rw [hv]; rfl), ?_⟩
    · exact QRun.noConfusion
    · rw [← hw]
      rfl

theorem State.queSkip_stopped {q : Nat} (hr : (s.que q).run = .stopped) :
    s.queSkip q = (if (s.que q).aside.isSome || s.queEmpty q then s else s.advance q).modQue q fun x =>
      { x with run := .going, aside := none, taken := x.aside.isSome && x.headTaken, headTaken := false } := by
  rw [State.queSkip, if_pos hr]
  dsimp only
  cases (s.que q).aside.isSome <;> rfl

theorem State.queFlush_of_ne {q : Nat} (hr : (s.que q).run ≠ .going) :
    s.queFlush q = s.modQue q fun x => { x with
      run := if x.run = .stopped then .going else .halted, aside := none, taken := false, late := false, headTaken := false
      head := x.tail, tags := [] } := by
  unfold State.queFlush
  split
  · exact absurd ‹_› hr
  · rfl

/-- Settles O15; that SKIP leaves `taken` to the next head is the model's reading (log 90). -/
theorem queueControl : Obligations.QueueControl := by
  refine ⟨fun q s h hq => ?_, fun q s h hq => ?_⟩
  · obtain ⟨hres, hrun, hhalt, -, -⟩ := exec_queCtrl q h hq
    rw [hres, hrun, Runs, hhalt]
    refine ⟨rfl, rfl, fun hg => ⟨_, rfl, State.queHalt_going hg⟩, fun hg => ?_⟩
    rw [State.queHalt, if_neg hg]
  · obtain ⟨-, -, -, hskip, hflush⟩ := exec_queCtrl q h hq
    have h2 : s.writeQueCtrl q.toNat 2 = s.queSkip q.toNat := rfl
    have h16 : s.writeQueCtrl q.toNat 16 = s.queFlush q.toNat := rfl
    rw [hskip, hflush, State.queCtrl, State.queCtrl, h2, h16]
    refine ⟨fun hr => ?_, fun hr => ?_, fun hr => ?_, fun hr => ?_⟩
    · rw [if_neg (by simp [hr]), if_neg (by simp), State.queSkip, if_neg hr]
    · rw [if_pos (by simp [hr]), State.queSkip_stopped hr]
    · rw [if_neg (by simp), if_neg (by simp [hr]), State.queFlush, hr]
    · rw [if_neg (by simp), if_pos (by simp [hr]), State.queFlush_of_ne hr]

end Sys2Proof.Machine
end

section
/-! SUPPORT. The issue of the command at the head of a queue (R256 to R260). -/

namespace Sys2Proof.Machine
variable {s : State} {q : Nat}

theorem exec_commandIssue (q : BitVec 13) : exec (.commandIssue q) s = .next (s.commandIssue q.toNat) := rfl

/-- Where nothing stands in the way of the test, COMMAND_ISSUE goes by its outcome. -/
theorem State.commandIssue_eq (hb : s.ringBad q = false) (hi : s.atIssue q = none) :
    s.commandIssue q = match s.testHead q s.stuck with
      | .nothing => s
      | .illegal => s.refuseHead q 0
      | .waits => s.beginWait q
      | .pass c tag t =>
        if s.waitsForPart q c tag then s.beginWait q else if s.servedNow q then (t.markIssued q).acceptUnit q else s := by
  rw [State.commandIssue, if_neg (by rw [hb]; decide), hi]
  rfl

theorem State.commandIssue_pass {c : Cmd} {tag : Option EntTag} {u : State} (hb : s.ringBad q = false) (hi : s.atIssue q = none)
    (ht : s.testHead q s.stuck = .pass c tag u) :
    s.commandIssue q = if s.waitsForPart q c tag then s.beginWait q
      else if s.servedNow q then (u.markIssued q).acceptUnit q else s := by
  rw [State.commandIssue_eq hb hi, ht]

/-! ## A head command that waits for nothing -/

theorem waitBells_of_none {c : Cmd} (h : cmdAt c 2 1 % 16 = 0) : waitBells c = [] := by
  have h1 : cmdAt c 2 1 % 4 = 0 := by omega
  have h2 : cmdAt c 2 1 / 4 % 4 = 0 := by omega
  unfold waitBells
  simp [h1, h2]

theorem State.tryWaits_of_none {c : Cmd} (h : cmdAt c 2 1 % 16 = 0) : s.tryWaits c = some s := by
  have h1 : cmdAt c 2 1 % 4 = 0 := by omega
  have h2 : cmdAt c 2 1 / 4 % 4 = 0 := by omega
  rw [State.tryWaits, h1, h2]
  rfl

theorem State.earlierWaiter_of_none {c : Cmd} (stuck : Nat → Bool) (h : cmdAt c 2 1 % 16 = 0) : s.earlierWaiter q c stuck = false := by
  rw [State.earlierWaiter, List.any_eq_false]
  intro q' _
  split
  · decide
  · rw [waitBells_of_none h]
    simp

theorem State.curCmd_of_ring (ha : (s.que q).aside = none) (he : s.queEmpty q = false) : s.curCmd q = some (s.headOf q) := by
  rw [State.curCmd, ha]
  exact if_neg (by rw [he]; decide)

theorem State.que_markIssued (s : State) (q : Nat) :
    (s.markIssued q).que q = { s.que q with waiting := false, taken := true, issued := true } :=
  Tab.get_put_of_ne q fun h => Bool.noConfusion (congrArg Que.issued h : true = false)

theorem State.headOf_markIssued (s : State) (q : Nat) : (s.markIssued q).headOf q = s.headOf q := by
  rw [State.headOf, State.headCmd, State.que_markIssued]
  rfl

/-- A command that needs no bench and no row unit is with its unit as soon as it is issued. -/
theorem State.acceptUnit_markIssued {c : Cmd} {tag : Option EntTag} (hl : (s.que q).late = false) (ha : (s.que q).aside = none)
    (he : s.queEmpty q = false) (hc : s.headOf q = (c, tag)) (hu : cmdUnit c = none) :
    (s.markIssued q).acceptUnit q = s.markIssued q := by
  have hq := s.que_markIssued q
  have hi : (s.markIssued q).atIssue q = some (c, tag) := by
    rw [State.atIssue, hq]
    rw [State.curCmd_of_ring (s := s.markIssued q) (by rw [hq]; exact ha) (by rw [State.queEmpty, hq]; exact he),
      State.headOf_markIssued, hc, hl]
    rfl
  rw [State.acceptUnit, hi]
  exact if_pos (.inl (by rw [hu]; rfl))

/-- Settles O17. -/
theorem issueTestsHead : Obligations.IssueTestsHead := by
  refine ⟨fun q c s hg hh hi hl hr ha ht he hc hp hs hil hw hu hserved => ?free, fun q s hb hi => ⟨fun c tag u ht => ⟨?_, ?_, ?_⟩, ?_, ?_, ?_⟩⟩
  case free =>
    have hb : s.ringBad q.toNat = false := by rw [State.ringBad]; simp [hp]
    have hai : s.atIssue q.toNat = none := by rw [State.atIssue]; simp [hl, hi]
    have htest : s.testHead q.toNat s.stuck = .pass c none s := by
      rw [State.testHead, hg, hh, hi, hl, hr, State.curCmd_of_ring ha he, hc, ha, ht]
      simp [hs, hp, hil, State.deemed, State.earlierWaiter_of_none _ hw, State.tryWaits_of_none hw, State.noteTaken]
    have hpart : s.waitsForPart q.toNat c none = false := by rw [State.waitsForPart, hu]; rfl
    rw [exec_commandIssue, State.commandIssue_pass hb hai htest, hpart, hserved, if_neg (by decide), if_pos rfl,
      State.acceptUnit_markIssued hl ha he hc hu]
  · intro hpart hserved
    rw [exec_commandIssue, State.commandIssue_pass hb hi ht, hpart, hserved]
    rfl
  · intro hpart hserved
    rw [exec_commandIssue, State.commandIssue_pass hb hi ht, hpart, hserved]
    rfl
  · intro hpart
    rw [exec_commandIssue, State.commandIssue_pass hb hi ht, hpart]
    rfl
  all_goals
    intro ht
    rw [exec_commandIssue, State.commandIssue_eq hb hi, ht]
end Sys2Proof.Machine
end

section
/-! SUPPORT. View registers: a select write clears them, a latching read loads them; the piece digest. -/

namespace Sys2Proof.Machine
variable {s t u : State}

theorem State.hostWrites_eq (h : s.fullLoading = false) (t : State) : s.hostWrites t = t := if_neg (by rw [h]; decide)
theorem State.hostReads_eq (h : s.fullLoading = false) (t : State) : s.hostReads t = t := if_neg (by rw [h]; decide)

/-! ## A run of consecutive registers -/

/-- The `n` registers from `base` on, filled with `w`. -/
def State.fillRegs (s : State) (base : Nat) (w : Nat → Word) (n : Nat) : State :=
  (List.range n).foldl (fun s i => s.setReg (base + 8 * i) (w i)) s

theorem State.fillRegs_succ (s : State) (base : Nat) (w : Nat → Word) (n : Nat) :
    s.fillRegs base w (n + 1) = (s.fillRegs base w n).setReg (base + 8 * n) (w n) := by
  rw [State.fillRegs, List.range_succ, List.foldl_append]
  rfl

theorem State.fillRegs_frame (s : State) (base : Nat) (w : Nat → Word) (n : Nat) : s.sameButRegs (s.fillRegs base w n) := by
  induction n with
  | zero => rfl
  | succ n ih =>
    rw [State.fillRegs_succ]
    exact ih.trans rfl

theorem State.wf_fillRegs (base : Nat) (w : Nat → Word) (n : Nat) (h : Tab.wf s.regs = true) : Tab.wf (s.fillRegs base w n).regs = true := by
  induction n with
  | zero => exact h
  | succ n ih =>
    rw [State.fillRegs_succ]
    exact Tab.wf_put _ _ ih

theorem State.reg_fillRegs_same (base : Nat) (w : Nat → Word) {n i : Nat} (h : Tab.wf s.regs = true) (hi : i < n) :
    (s.fillRegs base w n).reg (base + 8 * i) = w i := by
  induction n with
  | zero => omega
  | succ n ih =>
    rw [State.fillRegs_succ]
    by_cases he : i = n
    · rw [he, State.reg_setReg_same _ _ (State.wf_fillRegs base w n h)]
    · rw [State.reg_setReg_ne _ _ (by omega), ih (by omega)]

theorem State.reg_fillRegs_ne (base : Nat) (w : Nat → Word) {n a : Nat} (ha : ∀ i, i < n → a ≠ base + 8 * i) :
    (s.fillRegs base w n).reg a = s.reg a := by
  induction n with
  | zero => rfl
  | succ n ih =>
    rw [State.fillRegs_succ, State.reg_setReg_ne _ _ (ha n (by omega)), ih fun i hi => ha i (by omega)]

theorem State.sameButRegs.pin (h : s.sameButRegs t) : s.sameButRegsPin t.wake := by
  rw [State.sameButRegsPin, State.wake_frame]
  rw [h]

theorem State.writeHistSel_eq (s : State) (v : Word) :
    s.writeHistSel v = (s.setReg aNumHistSel (word (fld v 0 14))).fillRegs aNumHistAmax (fun _ => 0) 8 := rfl

theorem State.readHistState_snd (s : State) : s.readHistState.2 =
    (s.fillRegs aNumHistAmax (fun i => if s.nmHists ≤ s.regF aNumHistSel 0 14 then 0 else
      word (at_ 32 (s.amax (s.regF aNumHistSel 0 14) (2 * i + 1)) + s.amax (s.regF aNumHistSel 0 14) (2 * i))) 8).setReg aNumHistState
        (s.histWord (s.regF aNumHistSel 0 14)) := rfl

theorem State.readLastIn_snd (s : State) : s.readLastIn.2 =
    (s.fillRegs aPlnLastW (fun i => s.pln.live.getD (i + 1) 0) 5).setReg aPlnLastIn (s.pln.live.getD 0 0) := rfl

/-- A latching read changes registers and answers. -/
theorem State.emit_latched {o : PortOut} {a : Nat} {v : Word} (h : s.sameButRegs t) (hu : u = (t.setReg a v).emit o) :
    u = { s with regs := u.regs, out := u.out } := by
  rw [hu, h]
  rfl

theorem State.out_latched {o : PortOut} {a : Nat} {v : Word} (h : s.sameButRegs t) : ((t.setReg a v).emit o).out = s.out ++ [o] := by
  rw [h]
  rfl

theorem exec_latch (h : s.fullLoading = false) :
    exec .lkrStateRead s = .next (s.readLkrState.2.emit (.hostResp s.readLkrState.1 false))
      ∧ exec .numHistStateRead s = .next (s.readHistState.2.emit (.hostResp s.readHistState.1 false))
      ∧ exec .mkrCardFlagsRead s = .next (s.readCard.2.emit (.hostResp s.readCard.1 false))
      ∧ exec .plnLastInRead s = .next (s.readLastIn.2.emit (.hostResp s.readLastIn.1 false)) := by
  have hr := State.hostReads_eq h
  exact ⟨congrArg _ (hr _), congrArg _ (hr _), congrArg _ (hr _), congrArg _ (hr _)⟩

/-- Settles O18. -/
theorem viewRegisters : Obligations.ViewRegisters := by
  refine ⟨fun v s h => ⟨?_, fun hw => ?_, ?_, fun hi => ?_⟩, fun s h => ⟨?_, fun hw => ?_, fun hl => ?_, fun hw => ?_⟩⟩
  · exact congrArg _ (State.hostWrites_eq h _)
  · have hw' : Tab.wf (s.setReg aNumHistSel (word (fld v 0 14))).regs = true := Tab.wf_put _ _ hw
    refine ⟨(s.writeHistSel v).wake, congrArg _ (State.hostWrites_eq h _), ?_, ?_, fun i hi => ?_, fun a ha hne => ?_⟩
    · rw [State.writeHistSel_eq]
      exact State.sameButRegs.pin (State.sameButRegs.trans (t := s.setReg aNumHistSel _) rfl (State.fillRegs_frame _ _ _ _))
    · rw [State.reg, State.wake_regs, ← State.reg, State.writeHistSel_eq, State.reg_fillRegs_ne _ _ fun i _ => by unfold aNumHistSel aNumHistAmax; omega, State.reg_setReg_same _ _ hw]
    · rw [State.reg, State.wake_regs, ← State.reg, State.writeHistSel_eq, State.reg_fillRegs_same _ _ hw' hi]
    · rw [State.reg, State.wake_regs, ← State.reg, State.writeHistSel_eq, State.reg_fillRegs_ne _ _ hne, State.reg_setReg_ne _ _ ha]
  · exact congrArg _ (State.hostWrites_eq h _)
  · refine (congrArg _ (State.hostWrites_eq h _)).trans ?_
    rw [State.writePhilox]
    simp only [beq_iff_eq]
    rfl
  · exact (exec_latch h).1
  · obtain ⟨-, he, -, -⟩ := exec_latch h
    refine ⟨_, he, ?_, ?_, fun i hi => ?_, ?_⟩
    · rw [State.readHistState_snd]
      exact State.out_latched (State.fillRegs_frame _ _ _ _)
    · rw [State.readHistState_snd]
      exact State.reg_setReg_same _ _ (State.wf_fillRegs _ _ _ hw)
    · rw [State.readHistState_snd]
      refine (State.reg_setReg_ne _ _ (by unfold aNumHistState aNumHistAmax; omega)).trans (State.reg_fillRegs_same _ _ hw hi)
    · rw [State.readHistState_snd]
      exact State.emit_latched (State.fillRegs_frame _ _ _ _) rfl
  · obtain ⟨-, -, he, -⟩ := exec_latch h
    rw [he, State.readCard]
    simp only [hl, true_or, if_true]
  · obtain ⟨-, -, -, he⟩ := exec_latch h
    refine ⟨_, he, ?_, ?_, fun i hi => ?_, ?_⟩
    · rw [State.readLastIn_snd]
      exact State.out_latched (State.fillRegs_frame _ _ _ _)
    · rw [State.readLastIn_snd]
      exact State.reg_setReg_same _ _ (State.wf_fillRegs _ _ _ hw)
    · rw [State.readLastIn_snd]
      refine (State.reg_setReg_ne _ _ (by unfold aPlnLastW aPlnLastIn; omega)).trans (State.reg_fillRegs_same _ _ hw hi)
    · rw [State.readLastIn_snd]
      exact State.emit_latched (State.fillRegs_frame _ _ _ _) rfl

theorem exec_mkrDigSelWrite (v : Word) (h : s.fullLoading = false) : exec (.mkrDigSelWrite v) s = .next (s.writeDigSel v).wake :=
  congrArg _ (State.hostWrites_eq h _)

/-- Settles O19. -/
theorem digestSelectAndDone : Obligations.DigestSelectAndDone := by
  refine ⟨fun v s h => ?_, fun s hr hb => ?_⟩
  · intro u hp
    have hm : ¬ u.mkPieces ≤ u.digPiece := Nat.not_le.mpr hp
    rw [exec_mkrDigSelWrite v h]
    refine ⟨fun hk => ?_, fun hk ht => ?_⟩
    · have hbad : ¬ (u.mkPieces ≤ u.digPiece ∨ (u.digKind ∧ u.pcNw u.digPiece ≤ u.digTile)) := by simp [hm, hk]
      exact congrArg (fun x : State => Host.Outcome.next x.wake) ((if_neg hbad).trans (if_neg (c := u.digKind = true) (by rw [hk]; decide)))
    · have hbad : ¬ (u.mkPieces ≤ u.digPiece ∨ (u.digKind ∧ u.pcNw u.digPiece ≤ u.digTile)) := by simp [hm, ht]
      exact congrArg (fun x : State => Host.Outcome.next x.wake) ((if_neg hbad).trans (if_pos hk))
  · refine congrArg Host.Outcome.next ((if_neg (by simp [hr, hb])).trans ?_)
    rfl
end Sys2Proof.Machine
end

section
/-! SUPPORT. The benches and the row units: products, row operations, PAIRED. -/

namespace Sys2Proof.Machine
variable {s : State}

/-- Settles O23. -/
theorem productElementIsDot : Obligations.ProductElementIsDot := by
  intro spill es l r i j x y hx hy
  refine ⟨_, by simp only [prodMat, List.getElem?_map, List.getElem?_zipIdx, hx, Option.map_some]; rfl, ?_⟩
  simp only [List.getElem?_map, List.getElem?_zipIdx, hy, Option.map_some, Nat.zero_add]

theorem exec_productRow {op : Nat} (u : BitVec 3) (h : op < 4) :
    exec (productRow op u) s = .next (s.runProduct u.toNat op).stir := by
  match op, h with
  | 0, _ | 1, _ | 2, _ | 3, _ => rfl

/-- Settles O22: suspension and resumption of a block by its key are the model's choice (log 92), as are the counts at an illegal
code (log 41) and the chained destination (log 40). -/
theorem productRunsOnOperands : Obligations.ProductRunsOnOperands := by
  intro op u f ts s hop hu hc hp hts n
  rw [exec_productRow u hop]
  have hrun : ¬ (cOp f.cmd ≠ 0x20 ∨ uProd f.cmd ≠ op) := by simp [hc, hp]
  refine ⟨fun hn => ?_, ?_⟩
  · refine congrArg (fun x : State => Host.Outcome.next x.stir) ?_
    rw [State.runProduct, hu]
    dsimp only
    rw [if_neg hrun, hts]
    dsimp only
    split
    next sv a hsv ha =>
      exact hn.elim (fun h => nomatch h.symm.trans hsv) fun h => nomatch h.symm.trans ha
    next => rfl
  · intro sv a hsv ha hpair hmask mr nc hsusp es y live tiles leave count
    have hr : s.runProduct u.toNat op = match uDest f.cmd with
      | 0 => (count s).emitOut f ts (matBad y) (tilesFor (uOctx f.cmd) (s.outFmt f) nc y)
      | 3 =>
        if !rowShapes (uChain f.cmd) nc mr (operandAt ts 2 nc false) none then s.refuseUnit f evBncOperand
        else
          let t := s.runRow f ts (uChain f.cmd) nc y (((operandAt ts 2 nc false).map rowMat).getD []) [] (matBad y)
          if t.flights.any (· == f) then t
          else if t.flights.any (fun g => g.queue == f.queue && g.cmd == f.cmd && g.ran) then count t else leave t
      | dst => s.storeOut f (dst == 2) mr nc y fun s all => (count s).endPlain f ts (matBad y) all := by
      rw [State.runProduct, hu]
      dsimp only
      rw [if_neg hrun, hts]
      dsimp only
      rw [show ((ts[0]?).bind fun t => mkOpd t.2 (s.stepsLeft f.cmd) (prodByRows op)) = some sv from hsv,
        show ((ts[1]?).bind fun t => mkOpd t.2 (s.stepsLeft f.cmd) (op == 3)) = some a from ha]
      dsimp only
      rw [hpair, if_neg (by decide), if_neg (by rw [hsusp]; decide), hmask]
      simp only [Bool.not_eq_true']
      rfl
    rw [hr]
    refine ⟨fun hd => ?_, fun hd => ?_, fun hd hsh => ?_⟩
    · simp only [hd]
    · rcases hd with hd | hd <;> simp only [hd]
    · intro t hf hg
      rw [hd]
      refine congrArg (fun x : State => Host.Outcome.next x.stir) ((if_neg (by rw [hsh]; decide)).trans ?_)
      exact (if_neg (Bool.not_eq_true _ ▸ hf)).trans (if_pos hg)
theorem exec_rowopRow {op : Nat} (u : BitVec 3) (h : op < 11) :
    exec (rowopRow op u) s = .next (s.runRowop u.toNat op).stir := by
  match op, h with
  | 0, _ | 1, _ | 2, _ | 3, _ | 4, _ | 5, _ | 6, _ | 7, _ | 8, _ | 9, _ | 10, _ => rfl

theorem getElem?_map1 {f : Fp → Fp} {x : Mat} {i j : Nat} {v : Fp} {r : List (Option Fp)} (hi : x[i]? = some r)
    (hj : r[j]? = some (some v)) : (((map1 f x)[i]?).bind fun r => r[j]?) = some (some (f v)) := by
  simp [map1, hi, hj]

theorem getElem?_map2 {f : Fp → Fp → Fp} {x y : Mat} {i j : Nat} {v w : Fp} {r t : List (Option Fp)} (hi : x[i]? = some r)
    (hj : r[j]? = some (some v)) (hi' : y[i]? = some t) (hj' : t[j]? = some (some w)) :
    (((map2 f x y)[i]?).bind fun r => r[j]?) = some (some (f v w)) := by
  have hz : (x.zip y)[i]? = some (r, t) := List.getElem?_zip_eq_some.mpr ⟨hi, hi'⟩
  have hz' : (r.zip t)[j]? = some (some v, some w) := List.getElem?_zip_eq_some.mpr ⟨hj, hj'⟩
  simp [map2, hz, hz', lift2]

/-- Settles O24. -/
theorem rowOperationRuns : Obligations.RowOperationRuns := by
  refine ⟨fun op u f ts x s hop hu hc hr hts hx hsh => ?_, fun a x b c i j v w xr br hx hv hb hw => ?_⟩
  · refine (exec_rowopRow u hop).trans (congrArg (fun t : State => Host.Outcome.next t.stir) ?_)
    rw [State.runRowop, hu]
    dsimp only
    rw [if_neg (by simp [hc, hr]), hts]
    dsimp only
    rw [show ((ts[0]?).bind fun t => mkOpd t.2 (uSteps f.cmd) false) = some x from hx]
    exact if_neg (by rw [← operandAt, ← operandAt, hsh]; decide)
  · exact ⟨getElem?_map1 hx hv, getElem?_map2 hx hv hb hw, getElem?_map2 hx hv hb hw⟩

/-- Settles O25: the grid and order of PAIRED (log 42) and its counts (log 41) are the model's choice. -/
theorem pairedAccumulates : Obligations.PairedAccumulates := by
  intro u f ts s hu hc hts p g hok hmask es vw yg hdone bad count sent
  have hm : (if p.w = 0 then none else s.maskBad f.cmd p.wRows (p.wCols g)) = none := by
    split
    · rfl
    · next h => exact hmask.resolve_left h
  have hw : (p.done.length == p.ss.length * (p.w + p.d)) = true := by rw [hdone]; exact beq_self_eq_true _
  have hr : s.runPaired u.toNat = if p.w = 0 then (if p.d = 0 then (count s).endPlain f ts bad true else sent s)
      else s.storeItems f p.wRows (p.wCols g) vw fun t => if p.d = 0 then (count t).endPlain f ts bad true else sent t := by
    rw [State.runPaired, hu]
    dsimp only
    rw [if_neg (by simp [hc]), hts]
    dsimp only
    rw [hok, if_neg (by decide), hm, hw]
    dsimp only
    simp only [Bool.not_true, Bool.false_and, Bool.false_eq_true, or_false, if_false, if_true, List.append_nil]
    rfl
  refine ⟨fun h0 hd => ?_, fun h0 hd => ?_, fun h0 hd => ?_⟩
  all_goals refine congrArg (fun x : State => Host.Outcome.next x.stir) (hr.trans ?_)
  · simp only [if_neg h0, if_pos hd]
  · simp only [if_neg h0, if_neg hd]
  · rw [if_pos h0, if_neg hd]
end Sys2Proof.Machine
end

section
/-! SUPPORT. The completion of a command, and the sequencer of a form whose timetable does not run. -/

namespace Sys2Proof.Machine
variable {s t u : State}

/-! ## A calm form: nothing is made possible for the sequencer -/

theorem State.calm.congr (h : s.calm) (ht : t.tut = s.tut) (he : t.err.due = s.err.due) (hr : t.rcl = s.rcl) : t.calm := by
  rw [State.calm, ht, he, hr]
  exact h

theorem closingLoop_idle (n : Nat) (h : s.tut.closing = .idle) : closingLoop n s = s := by
  have hs : s.closingStep = s := by rw [State.closingStep, h]
  induction n with
  | zero => rfl
  | succ n ih => rw [closingLoop, hs, ih]

theorem State.calm.settle (h : s.calm) : s.settle = s := by
  obtain ⟨-, -, hc, -, he, hw⟩ := h
  have hr : s.retryColls = s := by
    rw [State.retryColls, hw]
    show { s with rcl := { s.rcl with wait := [] } } = s
    rw [← hw]
  rw [State.settle, hr, State.abortDue, he]
  exact closingLoop_idle 12 hc

theorem State.calm.entriesEnded (h : s.calm) : s.entriesEnded = s := by
  obtain ⟨hst, hp, -, hd, -, -⟩ := h
  have hdr : s.drainPeriods = s := by rw [State.drainPeriods, hd, Nat.sub_self]; rfl
  unfold State.entriesEnded
  dsimp only
  rw [hdr, if_neg (by rw [hp]; omega), State.haltDone, if_neg (by rw [hst]; omega)]

theorem State.signalAll_frame (s : State) (sigs : List (Nat × Nat)) :
    (s.signalAll sigs).tut = s.tut ∧ (s.signalAll sigs).err.due = s.err.due ∧ (s.signalAll sigs).rcl = s.rcl := by
  unfold State.signalAll
  rw [State.wake_frame]
  exact List.foldlRecOn _ _ (motive := fun t : State => t.tut = s.tut ∧ t.err.due = s.err.due ∧ t.rcl = s.rcl) ⟨rfl, rfl, rfl⟩
    fun t ht n _ => by
      rw [State.signalBell_frame t n]
      exact ht

theorem State.boundaryHalt_frame (s : State) (q : Nat) : s.boundaryHalt q = { s with ques := (s.boundaryHalt q).ques } := by
  unfold State.boundaryHalt
  split <;> rfl

/-! ## COMMAND_COMPLETE -/

theorem exec_commandComplete (q : BitVec 13) : exec (.commandComplete [q] []) s = .next (s.commandComplete [q.toNat] []) := rfl

/-- The form with command `f` off its unit, and with the dropped commands that are over. -/
def State.takenOff (s : State) (f : Flight) : State :=
  { s with flights := s.flights.filter fun g => !(g == f || (g.dropped && g.done)) }

theorem State.commandComplete_one {q : Nat} {f : Flight} (h : s.oldestOver q = some f) :
    let r := ((s.takenOff f).prodGone f.tag f.cmd true f.amax).entGone f.tag
    let v := r.2.arriveAll (s.flightArrivals f)
    let adds := s.flightAdds f ++ r.1.toList.map fun b => (b, 1)
    s.commandComplete [q] [] = ((if adds.isEmpty then v else v.signalAll adds).boundaryHalt q).entriesEnded.settle := by
  have hf : [q].filterMap s.oldestOver = [f] := by rw [List.filterMap_cons_some h]; rfl
  unfold State.commandComplete
  rw [hf]
  simp only [List.flatMap_cons, List.flatMap_nil, List.append_nil, List.contains_cons, List.contains_nil, Bool.or_false,
    List.foldl_cons, List.foldl_nil, List.map_cons, List.map_nil, State.entsGone]
  rfl

/-- Settles O26. -/
theorem completionAppliesSignals : Obligations.CompletionAppliesSignals := by
  refine ⟨fun q f s h => ?_, fun q f s hc h ht ha => ?_, fun q s h => ?_⟩
  · rw [exec_commandComplete, State.commandComplete_one h]
    rfl
  · intro u
    have hg : ((s.takenOff f).prodGone f.tag f.cmd true f.amax).entGone f.tag = (none, s.takenOff f) := by rw [ht]; rfl
    have harr : s.flightArrivals f = [] := by rw [State.flightArrivals, ht, ha]; rfl
    have hadd : s.flightAdds f = cmdAdds f.cmd := by rw [State.flightAdds, ht]
    have hcalm : ((if (cmdAdds f.cmd).isEmpty then u else u.signalAll (cmdAdds f.cmd)).boundaryHalt q.toNat).calm := by
      rw [State.boundaryHalt_frame]
      split
      · exact hc.congr rfl rfl rfl
      · obtain ⟨h1, h2, h3⟩ := u.signalAll_frame (cmdAdds f.cmd)
        exact hc.congr h1 h2 h3
    have hone := State.commandComplete_one h
    rw [hg, harr, hadd] at hone
    simp only [Option.toList_none, List.map_nil, List.append_nil] at hone
    rw [exec_commandComplete, hone]
    have harr : (s.takenOff f).arriveAll [] = u := rfl
    rw [harr, hcalm.entriesEnded, hcalm.settle]
  · have hf : [q.toNat].filterMap s.oldestOver = [] := by rw [List.filterMap_cons_none h]; rfl
    rw [exec_commandComplete, State.commandComplete, hf]
    rfl
end Sys2Proof.Machine
end

section
/-! SUPPORT. Registers that the log leaves; the step counter under the actions of the closing assembly's round. -/

namespace Sys2Proof.Machine
variable {s t u : State}

/-! ## Registers that a logged event leaves -/

/-- The event and error registers of the units. -/
def unitRegs : List Nat := (List.range 16).filterMap errAddr ++ (List.range 16).filterMap evAddr

/-- A register that no event is logged in. -/
def offLog (a : Nat) : Bool :=
  !(unitRegs ++ [aErrLogPtr, aErrFirstA, aErrFirstB]).contains a && (decide (a < aErrLog) || decide (aErrLog + 4096 ≤ a))

theorem errAddr_mem {n a : Nat} (h : errAddr n = some a) : a ∈ unitRegs := by
  have hn : n < 16 := by
    by_contra hn
    rw [errAddr] at h
    · cases h
    all_goals omega
  exact List.mem_append_left _ (List.mem_filterMap.mpr ⟨n, List.mem_range.mpr hn, h⟩)

theorem evAddr_mem {n a : Nat} (h : evAddr n = some a) : a ∈ unitRegs := by
  have hn : n < 16 := by
    by_contra hn
    rw [evAddr] at h
    · cases h
    all_goals omega
  exact List.mem_append_right _ (List.mem_filterMap.mpr ⟨n, List.mem_range.mpr hn, h⟩)

theorem offLog_iff {a : Nat} : offLog a = true ↔
    a ∉ unitRegs ∧ a ≠ aErrLogPtr ∧ a ≠ aErrFirstA ∧ a ≠ aErrFirstB ∧ (a < aErrLog ∨ aErrLog + 4096 ≤ a) := by
  simp [offLog, and_assoc]

theorem fld_lt {n : Nat} (w : BitVec n) (lo len : Nat) : fld w lo len < 2 ^ len := Nat.mod_lt _ (by positivity)

theorem State.reg_evSet {a : Nat} (e : Ev) (h : a ∉ unitRegs) : (s.evSet e).reg a = s.reg a := by
  unfold State.evSet State.setEvBit
  split
  · rfl
  split
  · rfl
  next ha => exact State.reg_setReg_ne _ _ fun he => h (by rw [he]; exact evAddr_mem ha)

theorem State.reg_logEntry {a : Nat} (n c d : Nat) (h : offLog a = true) : (s.logEntry n c d).reg a = s.reg a := by
  obtain ⟨-, hp, hA, hB, ho⟩ := offLog_iff.mp h
  have hx : s.regF aErrLogPtr 0 8 < 256 := fld_lt _ _ _
  have h0 : a ≠ aErrLog + 16 * s.regF aErrLogPtr 0 8 := by unfold aErrLog at ho ⊢; omega
  have h8 : a ≠ aErrLog + 16 * s.regF aErrLogPtr 0 8 + 8 := by unfold aErrLog at ho ⊢; omega
  unfold State.logEntry
  dsimp only
  split
  · refine (State.reg_setReg_ne _ _ hB).trans ((State.reg_setReg_ne _ _ hA).trans ?_)
    rw [State.reg_setF_ne _ hp, State.reg_incF_ne _ hp, State.reg_setReg_ne _ _ h8, State.reg_setReg_ne _ _ h0]
  · rw [State.reg_setF_ne _ hp, State.reg_incF_ne _ hp, State.reg_setReg_ne _ _ h8, State.reg_setReg_ne _ _ h0]

theorem State.reg_logEv {a : Nat} (e : Ev) (low : Nat) (h : offLog a = true) : (s.logEv e low).reg a = s.reg a := by
  obtain ⟨hu, -⟩ := offLog_iff.mp h
  unfold State.logEv
  split
  · rw [State.reg_logEntry _ _ _ h, State.reg_evSet _ hu]
  next ha => rw [State.reg_logEntry _ _ _ h, State.reg_evSet _ hu, State.reg_setReg_ne _ _ fun he => hu (by rw [he]; exact errAddr_mem ha)]

/-! ## The step counter -/

theorem stepCtr_foldl {α : Type} {f : State → α → State} (hf : ∀ s a, (f s a).stepCtr = s.stepCtr) (l : List α) (s : State) :
    (l.foldl f s).stepCtr = s.stepCtr :=
  List.foldlRecOn l f (motive := fun t => t.stepCtr = s.stepCtr) rfl fun t ht a _ => (hf t a).trans ht

theorem State.haltQueue_stepCtr (s : State) (q code : Nat) : (s.haltQueue q code).stepCtr = s.stepCtr :=
  State.setEvBit_stepCtr _ _ _

theorem State.failFlight_stepCtr (s : State) (q code : Nat) (p : Flight → Bool) : (s.failFlight q code p).stepCtr = s.stepCtr := by
  unfold State.failFlight
  split
  · rfl
  · dsimp only
    split
    · rfl
    · exact State.haltQueue_stepCtr _ _ _

theorem State.failCtxFlights_stepCtr (s : State) (c code : Nat) : (s.failCtxFlights c code).stepCtr = s.stepCtr :=
  stepCtr_foldl (fun _ _ => State.failFlight_stepCtr _ _ _ _) _ _

theorem State.freeCells_stepCtr (s : State) (p vc n : Nat) : (s.freeCells p vc n).stepCtr = s.stepCtr := by
  unfold State.freeCells
  split <;> rfl

theorem State.closeConns_stepCtr (s : State) (c : Nat) : (s.closeConns c).stepCtr = s.stepCtr :=
  State.freeCells_stepCtr _ _ _ _

theorem State.dropCtxWork_stepCtr (s : State) (c : Nat) : (s.dropCtxWork c).stepCtr = s.stepCtr := by
  unfold State.dropCtxWork
  dsimp only
  rw [State.modStm_stepCtr, State.closeConns_stepCtr]
  rfl

theorem State.haltCtx_stepCtr (s : State) (c : Nat) (e : Ev) (kind entry form : Nat) :
    (s.haltCtx c e kind entry form).stepCtr = s.stepCtr := by
  have h : ∀ t : State, (t.haltWith c e.code kind entry).stepCtr = t.stepCtr := fun t => by
    unfold State.haltWith
    rw [State.modStm_stepCtr, State.dropCtxWork_stepCtr, State.failCtxFlights_stepCtr]
  rw [State.haltCtx, h, State.logEv_stepCtr]

theorem State.freeLkr_stepCtr (s : State) (l : Nat) : (s.freeLkr l).stepCtr = s.stepCtr := by
  have h : (s.dropShares l).stepCtr = s.stepCtr := by
    unfold State.dropShares
    dsimp only
    split <;> rfl
  unfold State.freeLkr State.failReads
  rw [stepCtr_foldl fun _ _ => State.haltCtx_stepCtr _ _ _ _ _ _]
  exact h

theorem State.testAsm_stepCtr (s : State) (n : Nat) : (s.testAsm n).stepCtr = s.stepCtr := by
  unfold State.testAsm
  dsimp only
  (repeat' split) <;> rfl

theorem State.helloUps_stepCtr (s : State) : s.helloUps.stepCtr = s.stepCtr := by
  refine List.foldlRecOn _ _ (motive := fun t : State => t.stepCtr = s.stepCtr) rfl fun t ht p _ => ?_
  split <;> exact ht

theorem State.installPartial_stepCtr (s : State) (n : Nat) : (s.installPartial n).stepCtr = s.stepCtr := by
  have hite : ∀ {c : Prop} [Decidable c] {t u v : State}, t.stepCtr = v.stepCtr → u.stepCtr = v.stepCtr →
      (if c then t else u).stepCtr = v.stepCtr := fun ht hu => by
    split
    exacts [ht, hu]
  unfold State.installPartial
  split
  · refine hite (v := s) rfl ?_
    extract_lets all f1 src u u1 brings u2 u3 src1 u4 u5 u6
    have h2 : u2.stepCtr = s.stepCtr := hite rfl rfl
    have h3 : u3.stepCtr = u2.stepCtr := hite (hite rfl rfl) rfl
    have h4 : u4.stepCtr = u3.stepCtr := hite rfl rfl
    have h5 : u5.stepCtr = u4.stepCtr := hite (stepCtr_foldl State.testAsm_stepCtr _ _) rfl
    have h6 : u6.stepCtr = u5.stepCtr := hite (State.helloUps_stepCtr _) rfl
    rw [State.logPlain_stepCtr, State.emit_stepCtr, h6, h5, h4, h3, h2]
  · rfl

/-- The actions of R250 advance the step counter by one. -/
theorem State.boundaryActs_stepCtr (s : State) : s.boundaryActs.stepCtr = s.stepCtr + 1 := by
  have hr : ∀ t : State, t.rebase.stepCtr = t.stepCtr := fun t => stepCtr_foldl (f := State.rebasePair) (fun _ _ => rfl) _ _
  have hf : ∀ t : State, t.freeConsumed.stepCtr = t.stepCtr := fun t => stepCtr_foldl State.freeLkr_stepCtr _ _
  unfold State.boundaryActs
  refine (hf _).trans ((State.installPartial_stepCtr _ _).trans (hr _))

/-! ## The closing assembly's round -/

/-- The form with one completed round of the closing assembly taken. -/
def State.roundTaken (s : State) : State :=
  { s with tut := { s.tut with boundary := decide (s.tut.extra ≠ 0), extra := s.tut.extra - 1 } }

/-- The form at the end of a step, with an abort that was held for the boundary carried out. -/
def State.stepClosed (s : State) : State :=
  ({ s with tut := { s.tut with
      phase := 0, closing := .idle, termSteps := min 0xFFFF (s.tut.termSteps + 1), between := [1, 2, 3, 4]
      runs := s.tut.runs.filter fun r => r.kind != 0 } } : State).applyHeld

/-- The form has a step in its closing sequence whose closing assembly it has arrived at. -/
def State.inClosing (s : State) : Bool := s.tut.phase == 2 && s.tut.closing == .arrive && s.tut.st != 0

theorem State.boundaryAct_eq (hb : s.tut.boundary = true) :
    s.boundaryAct = if !s.roundTaken.inClosing then
      (if s.roundTaken.inClosing then s.roundTaken.closeRelease else s.roundTaken).boundaryActs
    else
      let w := (if s.roundTaken.inClosing then s.roundTaken.closeRelease else s.roundTaken).boundaryActs.stepClosed
      if w.tut.st = 0 then w else (if w.ckptDue 1 then w.startCkpt else w).goOn.entriesEnded := by
  unfold State.boundaryAct
  exact if_neg (by rw [hb]; decide)

theorem State.boundaryAct_outside (hb : s.tut.boundary = true) (hm : s.inClosing = false) :
    s.boundaryAct = s.roundTaken.boundaryActs := by
  have hm' : s.roundTaken.inClosing = false := hm
  rw [State.boundaryAct_eq hb, hm']
  rfl

theorem State.boundaryAct_closing {w : State} (hb : s.tut.boundary = true) (hm : s.inClosing = true)
    (hw : s.roundTaken.closeRelease.boundaryActs.stepClosed = w) :
    s.boundaryAct = if w.tut.st = 0 then w else (if w.ckptDue 1 then w.startCkpt else w).goOn.entriesEnded := by
  have hm' : s.roundTaken.inClosing = true := hm
  rw [State.boundaryAct_eq hb, hm', ← hw]
  rfl

/-- Settles O27: that participant 0 leaves the round first, and that a round outside the closing sequence takes the actions of R250
alone, is the model's choice (logs 46 and 47). -/
theorem closingOfStep : Obligations.ClosingOfStep := by
  have hact : ∀ {s t : State}, s.tut.boundary = true → s.boundaryAct = t → exec .closingAssemblyAct s = .next t.settle.changeStep :=
    fun hb h => congrArg Host.Outcome.next ((if_pos hb).trans (by rw [h]))
  refine ⟨fun s => ?_, fun s => ?_⟩
  · intro u
    refine ⟨fun hb => ?_, fun hb hm => ?_, fun hb hp hc hst => ?_, s.boundaryActs_stepCtr⟩
    · exact congrArg Host.Outcome.next (if_neg (by rw [hb]; decide))
    · refine hact hb (State.boundaryAct_outside hb ?_)
      rw [State.inClosing, Bool.and_assoc, Bool.and_eq_false_iff, Bool.and_eq_false_iff]
      exact hm.imp (beq_eq_false_iff_ne.mpr ·) (Or.imp (beq_eq_false_iff_ne.mpr ·) fun h => by rw [h]; rfl)
    · intro v w
      have hm : s.inClosing = true := by
        rw [State.inClosing, hp, hc, bne_iff_ne.mpr hst]
        rfl
      have h := State.boundaryAct_closing (w := w) hb hm rfl
      exact ⟨fun h0 => hact hb (h.trans (if_pos h0)), fun h0 => hact hb (h.trans (if_neg h0))⟩
  · intro ended u
    refine ⟨fun h => ?_, fun h => ?_⟩
    · refine congrArg Host.Outcome.next ((congrArg State.settle (if_pos h)).trans ?_)
      exact apply_ite State.settle (s.tut.term = 1) (u.setClosing .gate) u.closeArrive
    · exact congrArg (fun t : State => Host.Outcome.next t.settle) (if_neg h)
end Sys2Proof.Machine
end

section
/-! SUPPORT. The deadlock report, the copying of entries, and the sweep's ends. -/

namespace Sys2Proof.Machine
variable {s t u : State}

/-! ## Deadlock -/

/-- The queues that a deadlock report names. -/
def State.blocked (s : State) : List Nat :=
  (s.ques.map Prod.fst).filter fun q => s.queState q == 2 || s.queState q == 4 || s.queState q == 5

theorem State.snapRecord_logEv (e : Ev) (low : Nat) : (s.logEv e low).snapRecord = s.snapRecord := by
  rw [s.logEv_frame e low]
  rfl

theorem State.t0Write_opt (s : State) (a : Nat) (bs : Bytes) :
    ∃ p, (if bs.isEmpty then s else s.t0Write a bs) = { s with t0 := Tab.putBytes s.t0 a bs, t0Poison := p } := by
  cases bs with
  | nil => exact ⟨s.t0Poison, rfl⟩
  | cons b bs => exact ⟨_, rfl⟩

/-- What the report changes: the log, the snapshot in SCRATCH, and SYN_DL's counts. -/
theorem State.reportDeadlock_eq (s : State) :
    let l := s.logEv evDeadlock (synErr 0 (s.blocked.headD 0))
    let bytes := (s.blocked.take s.snapMax).flatMap l.snapRecord
    ∃ p, s.reportDeadlock = { s with
      regs := l.regs, err := { s.err with armed := l.err.armed }
      t0 := Tab.putBytes s.t0 (s.t0Scratch + s.snapOffset) bytes, t0Poison := p
      sync := { s.sync with dlLogged := true, dlRecords := (s.blocked.take s.snapMax).length, dlBlocked := s.blocked.length
                            dlFirst := s.blocked.headD 0 } } := by
  intro l bytes
  have hb : (s.blocked.take s.snapMax).flatMap s.snapRecord = bytes := by rw [← State.snapRecord_logEv]
  have hl : s.sameButLog l := s.logEv_frame _ _
  obtain ⟨p, hp⟩ := l.t0Write_opt (l.t0Scratch + l.snapOffset) bytes
  have hr : s.reportDeadlock = { (if bytes.isEmpty then l else l.t0Write (l.t0Scratch + l.snapOffset) bytes) with
      sync := { s.sync with dlLogged := true, dlRecords := (s.blocked.take s.snapMax).length, dlBlocked := s.blocked.length
                            dlFirst := s.blocked.headD 0 } } := by
    have hs : (if bytes.isEmpty then l else l.t0Write (l.t0Scratch + l.snapOffset) bytes).sync = s.sync := by rw [hp, hl]
    rw [← hs, ← hb]
    rfl
  refine ⟨p, ?_⟩
  rw [hr, hp]
  clear hr hp hb
  clear_value bytes
  clear_value l
  rw [hl]
  rfl

/-- Settles O28. -/
theorem deadlockReportsOnce : Obligations.DeadlockReportsOnce := by
  intro s blocked bytes
  refine ⟨fun hs hd hl => ?_, fun h => ?_⟩
  · have he : s.deadlock = s.reportDeadlock := if_pos (by simp [hs, hd, hl])
    obtain ⟨p, h⟩ := s.reportDeadlock_eq
    refine ⟨s.reportDeadlock, congrArg Host.Outcome.next he, ?sync, ?t0, ?regs, ?frame, ?again⟩
    case sync =>
      rw [h]
      rfl
    case t0 =>
      rw [h]
      rfl
    case regs =>
      rw [h]
      rfl
    case frame => rw [h]
    case again =>
      refine congrArg Host.Outcome.next (if_neg ?_)
      rw [h]
      simp
  · refine congrArg Host.Outcome.next (if_neg ?_)
    rcases h with h | h | h <;> simp [h]

/-! ## Periods and entries -/

/-- Settles O29. -/
theorem periodsAndEntries : Obligations.PeriodsAndEntries := by
  refine ⟨fun s => ?_, fun kind run entry r s hr hn => ?_⟩
  · intro p bell ready
    refine ⟨fun h => ?_, fun h => ?_⟩
    · obtain ⟨hp, hst, hs0, hle, hcop, hbell⟩ := h
      have h1 : ¬ ((s.tut.phase ≠ 1 ∧ s.tut.phase ≠ 3) ∨ s.tut.st = 0 ∨ s.tut.started = 0 ∨ ttPeriods s.ttSect < p
          ∨ (!s.perCopied s.tut.started) = true) := by
        rw [hcop]
        rintro (⟨h1, h3⟩ | h0 | h0 | h0 | h0)
        · exact hp.elim h1 h3
        · exact hst h0
        · exact hs0 h0
        · exact absurd hle (Nat.not_le.mpr h0)
        · cases h0
      have h2 : ¬ (bell ≠ 0xFFFF ∧ s.bell bell < ttPer s.ttSect p 8 4) := by omega
      exact congrArg (fun t : State => Host.Outcome.next t.wake.settle) ((if_neg h1).trans (if_neg h2))
    · have hskip : s.periodStart = s := by
        unfold State.periodStart
        dsimp only
        split
        · rfl
        next h1 =>
          refine if_pos ?_
          rw [not_or, not_or, not_or, not_or, Bool.not_eq_true', Bool.not_eq_false] at h1
          obtain ⟨hp, hst, hs0, hle, hcop⟩ := h1
          by_contra h2
          exact h ⟨by omega, hst, hs0, Nat.le_of_not_lt hle, hcop, or_iff_not_imp_left.mpr fun hb => Nat.le_of_not_lt fun hlt => h2 ⟨hb, hlt⟩⟩
      exact congrArg (fun t : State => Host.Outcome.next t.wake.settle) hskip
  · have hc : exec (.entryCopy kind run entry) s = .next (copyLoop (s.entLen r - r.copied) s r (s.entQue r)) := by
      have hk := List.find?_some hr
      simp only [Bool.and_eq_true, beq_iff_eq] at hk
      obtain ⟨⟨hk1, hk2⟩, hk3⟩ := hk
      refine congrArg Host.Outcome.next ?_
      unfold State.entryCopy
      rw [hr]
      dsimp only
      rw [hn]
      exact if_pos ⟨hk1, hk2, hk3⟩
    refine ⟨hc, fun hf => ?_, fun hf hlen => ?_⟩
    · rw [hc]
      cases s.entLen r - r.copied with
      | zero => rfl
      | succ n => rw [copyLoop, if_pos hf]
    · intro v
      rw [hc, hlen, Nat.add_sub_cancel_left]
      rw [copyLoop, if_neg (by rw [hf]; decide)]
      rfl
end Sys2Proof.Machine
end

section
/-! SUPPORT. The sweep's start and end (R158 to R166). -/

namespace Sys2Proof.Machine
variable {s t u v : State}

/-- A clipping bell that is taken changes the bells alone. -/
theorem State.clipWait_frame (h : (if s.mkClipEn then s.tryWait 1 s.mkClipBell 1 else some s) = some v) :
    v = { s with bells := v.bells } := by
  split at h
  · rw [State.tryWait] at h
    split at h
    · cases h
      rfl
    · cases h
  · cases h
    rfl

/-- Latching the clipping scale changes CLIP and logs. -/
theorem State.latchClip_frame (s : State) : ∃ c, s.latchClip = { s with
    regs := s.latchClip.regs, err := { s.err with armed := s.latchClip.err.armed }, mkr := { s.mkr with clip := c } } := by
  unfold State.latchClip
  split
  · exact ⟨_, rfl⟩
  · dsimp only
    split
    · exact ⟨_, rfl⟩
    · refine ⟨0x3F800000, ?_⟩
      have h := s.logEv_frame evClipBad 0
      generalize s.logEv evClipBad 0 = l at h ⊢
      rw [h]

theorem State.reg_latchClip {a : Nat} (h : offLog a = true) : s.latchClip.reg a = s.reg a := by
  unfold State.latchClip
  split
  · rfl
  · dsimp only
    split
    · rfl
    · exact State.reg_logEv _ _ h

/-- The sweep as it begins, on the state that has latched its clipping scale. -/
def State.beginSweep (s : State) : State :=
  let t := s.takeEpoch.2
  let again (r : StageRun) : StageRun :=
    if r.step = t.stepCtr.toNat ∧ r.place.isSome then { r with chk := some (0, r.tiles) } else r
  { t with
    mkr := { t.mkr with
      phase := 3, blocks := 0, epoch := s.takeEpoch.1, todo := t.sweepTodo, aside := [], cur := none, wrote := [], tdig := []
      begun := [], nfLogged := [], runs := t.mkr.runs.map again }
    tut := { t.tut with closing := .sweep } }

theorem State.sweepStart_eq (hc : s.tut.closing = .clip) (hg : s.mkr.gateDone = true)
    (hw : s.mkr.skip = true ∨ (s.recordsComing = false ∧ s.ckptRuns = false ∧ s.exp = none))
    (hv : (if s.mkClipEn then s.tryWait 1 s.mkClipBell 1 else some s) = some v) :
    s.sweepStart = if v.latchClip.mkr.skip
      then { v.latchClip with mkr := { v.latchClip.mkr with phase := 0 }, tut := { v.latchClip.tut with closing := .digest } }
      else State.sweepLoop 4 v.latchClip.beginSweep := by
  unfold State.sweepStart
  rw [if_neg, hv]
  · rfl
  · rw [hc, hg]
    rcases hw with h | ⟨h1, h2, h3⟩
    · simp [h]
    · simp [h1, h2, h3]

theorem State.skip_latchClip (h : v = { s with bells := v.bells }) : v.latchClip.mkr.skip = s.mkr.skip := by
  obtain ⟨c, hl⟩ := v.latchClip_frame
  rw [hl, h]

/-- The form at the end of the sweep: its epoch and digest recorded, its report cards closed. -/
def State.sweepOver (s : State) : State :=
  let t := (s.setReg aMkrRecEpoch (word s.mkr.epoch)).setReg aMkrStepDigest s.stepDigest
  { t with
    mkr := { t.mkr with
      phase := 0, wrote := [], tdig := []
      cards := ((List.range t.mkLayers).map fun l => (l, t.cardEnd (Tab.get t.mkr.cards l))).filter fun c => c.2 != default }
    tut := { t.tut with closing := .digest } }

theorem State.sweepEnd_eq (hp : s.mkr.phase = 4) (hw : s.mkr.recWrites = 0) :
    s.sweepEnd = if s.sweepOver.mkr.cards.any fun c => c.2.flags % 8 != 0 then s.sweepOver.logEv evCardFlag 0 else s.sweepOver :=
  if_neg (by simp [hp, hw])

/-- Settles O30. -/
theorem sweepTakesOneEpoch : Obligations.SweepTakesOneEpoch := by
  refine ⟨fun s v hc hg hv => ⟨fun hs => ?_, fun hs hr hk he hep => ?_⟩, fun s hp hw hwf => ?_⟩
  · refine congrArg (fun t : State => Host.Outcome.next t.settle) ((State.sweepStart_eq hc hg (.inl hs) hv).trans (if_pos ?_))
    rw [State.skip_latchClip (State.clipWait_frame hv), hs]
  · have hf := State.clipWait_frame hv
    obtain ⟨c, hl⟩ := v.latchClip_frame
    have hreg : v.latchClip.reg aLkrEpoch = s.reg aLkrEpoch := by
      rw [State.reg_latchClip (by decide), hf]
      rfl
    refine ⟨v.latchClip.beginSweep, ?_, rfl, rfl, ?_, ?_, rfl, ?_⟩
    · refine congrArg (fun t : State => Host.Outcome.next t.settle)
        ((State.sweepStart_eq hc hg (.inr ⟨hr, hk, he⟩) hv).trans (if_neg ?_))
      rw [State.skip_latchClip hf, hs]
      decide
    · exact congrArg BitVec.toNat hreg
    · rw [← hreg] at hep ⊢
      refine Tab.get_put_of_ne _ fun h => ?_
      have h0 : v.latchClip.reg aLkrEpoch + 1 = 0#64 := h
      bv_omega
    · show v.latchClip.t0 = s.t0
      rw [hl, hf]
  · refine ⟨s.sweepEnd, rfl, ?_⟩
    have hd : s.sweepOver.reg aMkrStepDigest = s.stepDigest := State.reg_setReg_same _ _ (Tab.wf_put _ _ hwf)
    have he : s.sweepOver.reg aMkrRecEpoch = word s.mkr.epoch :=
      (State.reg_setReg_ne _ _ (by decide)).trans (State.reg_setReg_same _ _ hwf)
    rw [State.sweepEnd_eq hp hw]
    split
    · have hf := s.sweepOver.logEv_frame evCardFlag 0
      rw [State.reg_logEv _ _ (by decide), State.reg_logEv _ _ (by decide), hf]
      exact ⟨he, hd, rfl, rfl, rfl, rfl⟩
    · exact ⟨he, hd, rfl, rfl, rfl, rfl⟩
end Sys2Proof.Machine
end

section
/-! SUPPORT. The tutor's control registers, the change of term, the end of a checkpoint, and what stops for want of room. -/

namespace Sys2Proof.Machine
variable {s t u v : State}

theorem State.next_hostWrites (h : s.fullLoading = false) (e : t = u) : (Host.Outcome.next (s.hostWrites t) : Res) = .next u :=
  congrArg _ ((State.hostWrites_eq h _).trans e)

/-- Settles O31: that RUN takes the request and changes the term before it starts, and that RUN, HALT and TTB_NEXT act at every form,
is the model's choice (log 47); so is what a form below L1 refuses (log 83). -/
theorem timetableControl : Obligations.TimetableControl := by
  intro s h
  have hw : ∀ {t u : State}, t = u → (Host.Outcome.next (s.hostWrites t) : Res) = .next u := State.next_hostWrites h
  refine ⟨fun ha ht => ?_, fun ha ht => ?_, fun ha => ?_, fun hst => ?_, fun hst => ?_, fun w hv => ?_, fun w hv => ?_⟩
  · exact hw (congrArg (fun t : State => t.wake.settle) ((if_neg (by rw [ha]; decide)).trans (if_neg ht)))
  · exact hw (congrArg (fun t : State => t.wake.settle) ((if_neg (by rw [ha]; decide)).trans (if_pos ht)))
  · exact hw (congrArg (fun t : State => t.wake.settle) (if_pos (by rw [ha]; decide)))
  · exact hw (congrArg State.wake (if_neg (not_not.mpr hst)))
  · exact hw (congrArg State.wake (if_pos hst))
  · exact hw (congrArg State.wake (if_neg (Nat.not_le.mpr hv)))
  · exact hw (congrArg State.wake (if_pos hv))

/-! ## The change of term and the end of a checkpoint -/

theorem State.checkpointEnd_eq {k : Ckpt} (hk : s.ckp = some k) (ht : s.tut.ckpt = true) (hp : k.phase = 0) (hw : k.writes = 0)
    (hs : s.ckptStreamed = true) :
    s.checkpointEnd = match k.base with
      | none => s.ckptFinish true
      | some w =>
        if sealFab w then s.sealOver w [gcmSeal k.key s.ckptRecords [] k.indexBytes, s.sealHead k.key]
        else s.sealWrite 1 (recordOff s.ckptRecords) w (gcmSeal k.key s.ckptRecords [] k.indexBytes) := by
  unfold State.checkpointEnd
  rw [hk]
  exact if_neg (by simp [ht, hp, hw, hs])

theorem State.installTerm_logged (s : State) (n : Nat) :
    let t := (((s.installTerm n).logEv evTermChanged 0).incF aTtbCount 32 32 1).tut
    t.term = n ∧ t.termSteps = 0 := by
  rw [State.incF_tut, State.logEv_tut]
  exact ⟨rfl, rfl⟩

/-- Settles O32. -/
theorem termAndCheckpointEnd : Obligations.TermAndCheckpointEnd := by
  refine ⟨fun s hp hd => ?_, fun s h => ?_, fun k s hk ht hp hw hs => ?_⟩
  · intro ls v w u
    exact ⟨congrArg (fun t : State => Host.Outcome.next t.settle) (if_neg (by simp [hp, hd])),
      State.installTerm_logged (v.dropHomework s.tut.toTerm).resetSync s.tut.toTerm⟩
  · refine congrArg (fun t : State => Host.Outcome.next t.settle) (if_pos ?_)
    rcases h with h | h <;> simp [h]
  · have he := State.checkpointEnd_eq hk ht hp hw hs
    refine ⟨fun hb => ?_, fun w hb hf => ?_, fun w hb hf => ?_⟩
    all_goals
      rw [hb] at he
      refine congrArg (fun t : State => Host.Outcome.next t.settle) (he.trans ?_)
    · rfl
    · exact if_neg (by rw [hf]; decide)
    · exact if_pos hf

/-! ## A queue that stops -/

theorem State.stopQueue_eq {q : Nat} (hl : (s.que q).late = false) (code : Nat) : s.stopQueue q code = s.haltQueue q code :=
  if_neg (by rw [hl]; decide)

theorem State.haltQueue_frame (s : State) (q code : Nat) : s.haltQueue q code = { s with
    regs := (s.haltQueue q code).regs, ques := (s.haltQueue q code).ques, sync := (s.haltQueue q code).sync } := by
  unfold State.haltQueue
  rw [State.setEvBit_frame]
  rfl

theorem State.que_haltQueue (s : State) (q code : Nat) : (s.haltQueue q code).que q =
    { s.que q with run := .stopped, code := code, issued := false, waiting := false } := by
  unfold State.haltQueue
  rw [State.setEvBit_frame]
  exact State.que_modQue_of_ne (s := s) (q := q) (f := fun x => { x with run := .stopped, code := code, issued := false, waiting := false })
    fun h => QRun.noConfusion (congrArg Que.run h : QRun.stopped = .going)

/-- A refusal of the command at the head of a queue: the queue stops with the code, and HEAD stays. -/
theorem State.logEv_stopQueue {q : Nat} (hl : (s.que q).late = false) (e : Ev) (low : Nat) :
    let t := (s.logEv e low).stopQueue q e.code
    (t.que q).run = .stopped ∧ (t.que q).code = e.code ∧ (t.que q).head = (s.que q).head
      ∧ t = { s with regs := t.regs, err := { s.err with armed := t.err.armed }, ques := t.ques, sync := t.sync } := by
  intro t
  have hq : (s.logEv e low).que q = s.que q := congrArg (Tab.get · q) (State.logEv_ques _ _ _)
  have ht : t = (s.logEv e low).haltQueue q e.code := State.stopQueue_eq (by rw [hq]; exact hl) _
  have hf := (s.logEv e low).haltQueue_frame q e.code
  have hl := s.logEv_frame e low
  have ha := (s.logEv e low).que_haltQueue q e.code
  rw [← ht] at hf ha
  clear_value t
  refine ⟨by rw [ha], by rw [ha], by rw [ha, hq], ?_⟩
  rw [hf]
  generalize s.logEv e low = l at hl
  rw [hl]

/-! ## Staging runs and timeouts -/

theorem State.openRun_mem (s : State) (p b n step : Nat) :
    ∃ r ∈ (s.openRun p b n step).2.mkr.runs, r.id = (s.openRun p b n step).1 ∧ r.piece = p ∧ r.first = b ∧ r.step = step := by
  unfold State.openRun
  split
  next r hr =>
    have hk := List.find?_some hr
    simp only [Bool.and_eq_true, beq_iff_eq] at hk
    obtain ⟨⟨hp, hb⟩, hs⟩ := hk
    exact ⟨r, List.mem_of_find?_eq_some hr, rfl, hp, hb, hs⟩
  next => exact ⟨_, List.mem_append_right _ (List.mem_singleton_self _), rfl, rfl, rfl, rfl⟩

/-- Settles O33: that an overlapping run is not made is the model's choice (log 96). -/
theorem roomAndTimeouts : Obligations.RoomAndTimeouts := by
  refine ⟨fun piece block tiles s => ?_, fun q h s hh => ⟨fun hst => ?_, fun hc hl => ?_⟩, fun piece block r s hr => ?_⟩
  · intro p b n made
    refine ⟨fun h => congrArg (fun t : State => Host.Outcome.next t.bucketsDue.settle) ?_, fun h => ?_⟩
    · unfold State.stagingAlloc
      dsimp only
      split
      · rfl
      next h1 =>
        rw [not_or, not_or] at h1
        obtain ⟨hp, hb, ht⟩ := h1
        refine if_pos (Bool.not_eq_false _ ▸ fun hm => h ⟨Nat.lt_of_not_le hp, Nat.lt_of_not_le hb, Nat.le_of_not_lt ht, hm⟩)
    · obtain ⟨hp, hb, ht, hm⟩ := h
      refine ⟨congrArg (fun t : State => Host.Outcome.next t.bucketsDue.settle) ?_, s.openRun_mem p b n s.stageStep⟩
      refine (if_neg ?_).trans (if_neg ?_)
      · rw [not_or, not_or]
        exact ⟨Nat.not_le.mpr hp, Nat.not_le.mpr hb, Nat.not_lt.mpr ht⟩
      · exact ne_true_of_eq_false hm
  · refine congrArg (fun t : State => Host.Outcome.next t.wake.settle) ?_
    unfold State.placeTimeout
    rw [hh]
    exact if_pos hst
  · let u : State := { s with pln := { s.pln with held := s.pln.held.filter (·.queue != q.toNat) } }
    let t := (u.logEv evPlnNoPlace (at_ 18 (cLocker h.cmd))).stopQueue q.toNat evPlnNoPlace.code
    obtain ⟨hrun, hcode, -, hf⟩ := State.logEv_stopQueue (s := u) (q := q.toNat) hl evPlnNoPlace (at_ 18 (cLocker h.cmd))
    have he : s.placeTimeout q.toNat = t := by
      obtain ⟨hst, -⟩ := hc
      unfold State.placeTimeout
      rw [hh]
      exact if_neg (not_not.mpr hst)
    have hcalm : t.wake.calm := by
      rw [State.wake_frame, show t = _ from hf]
      exact hc.congr rfl rfl rfl
    refine ⟨t.wake, congrArg Host.Outcome.next ?_, ?_⟩
    · rw [he, hcalm.settle]
    · rw [State.wake_frame]
      refine ⟨hrun, hcode, ?_⟩
      rw [show t = _ from hf]
      exact ⟨rfl, rfl, rfl⟩
  · refine congrArg (fun t : State => Host.Outcome.next t.wake.settle) ?_
    unfold State.stageTimeout
    rw [hr]
end Sys2Proof.Machine
end

section
/-! SUPPORT. Stream contexts: the start of a pass, and the frame of a command that its unit accepts. -/

namespace Sys2Proof.Machine
variable {s t u v : State}

/-! ## A command that its unit accepts -/

/-- The command leaves its queue for its unit; beyond that the detector of deadlocks may be armed again. -/
theorem State.acceptCmd_frame (s : State) (q : Nat) (done : Bool) :
    s.acceptCmd q done = { s with
      ques := (s.acceptCmd q done).ques, sync := (s.acceptCmd q done).sync, flights := (s.acceptCmd q done).flights } := by
  unfold State.acceptCmd
  split
  · rfl
  · dsimp only
    split
    · rfl
    · split <;> rfl

/-! ## The start of a pass -/

theorem State.stm_modStm_same {c : Nat} (f : Stream → Stream) (h : Tab.wf s.stms = true) : (s.modStm c f).stm c = f (s.stm c) :=
  Tab.get_put_same _ _ h

/-- The context reports the event and keeps its code. -/
def State.stmCode (s : State) (c : Nat) (e : Ev) : State := (s.logEv e (at_ 32 c)).modStm c fun x => { x with code := e.code }

theorem not_busy {n : Nat} (h : n = 0 ∨ n = 2) : ¬ (n = 1 ∨ n = 3) := by omega

theorem State.startCtx_busy {c : Nat} (h : (s.stm c).st = 1 ∨ (s.stm c).st = 3) :
    s.startCtx c false = (some evStmBusy.code, s.stmCode c evStmBusy) := if_pos h

theorem State.startCtx_illegal {c : Nat} (h : (s.stm c).st = 0 ∨ (s.stm c).st = 2) (hb : s.startBad (s.stm c) false = true) :
    s.startCtx c false = (some evStmIllegal.code, s.stmCode c evStmIllegal) :=
  (if_neg (not_busy h)).trans (if_pos hb)

theorem State.startCtx_stale {c : Nat} (h : (s.stm c).st = 0 ∨ (s.stm c).st = 2) (hb : s.startBad (s.stm c) false = false)
    (hg : s.genStale (s.stm c).src = true ∨ s.dstStale (s.stm c).dst = true) :
    (s.startCtx c false).2 = ((s.logEv evLkrStale (lkrErr (epLocker (if s.genStale (s.stm c).src = true then (s.stm c).src else (s.stm c).dst))
      0 0)).incF aLkrStats 16 16 1).haltCtx c evStmIllegal 1 0 := by
  have hs : ((!false && s.genStale (s.stm c).src) || s.dstStale (s.stm c).dst) = true := by simpa using hg
  exact congrArg Prod.snd ((if_neg (not_busy h)).trans ((if_neg (by rw [hb]; decide)).trans (if_pos hs)))

theorem State.startCtx_ok {c : Nat} (h : ¬ ((s.stm c).st = 1 ∨ (s.stm c).st = 3)) (hb : s.startBad (s.stm c) false = false)
    (hs : s.genStale (s.stm c).src = false) (hd : s.dstStale (s.stm c).dst = false) :
    s.startCtx c false = (none, s.beginPass c false) :=
  (if_neg h).trans ((if_neg (by rw [hb]; decide)).trans (if_neg (by rw [hs, hd]; decide)))

theorem exec_stmStart (c : BitVec 12) (v : Word) (h : s.fullLoading = false) (hc : c.toNat < limStreams s.part.set) :
    exec (.stmStart c v) s = .next (s.hostStmStart c.toNat v).wake :=
  State.next_hostWrites h (congrArg State.wake (if_pos hc))

/-- Settles O34. -/
theorem streamStarts : Obligations.StreamStarts := by
  refine ⟨fun c v s h hc => ?_, fun q cmd tag s hwf hi hck => ?_⟩
  · intro u x code
    have hgo : bitAt v 1 = false → exec (.stmStart c v) s = .next (u.startCtx c.toNat false).2.stir.wake := fun hv => by
      rw [exec_stmStart c v h hc]
      exact congrArg (fun t : State => Host.Outcome.next t.wake) (if_neg (by rw [hv]; decide))
    refine ⟨fun hv => ?_, fun hv hst hb hs hd => ?_, fun hv hst hb hs => ?_, fun hv hst => ?_, fun hv hst hb => ?_⟩
    · rw [exec_stmStart c v h hc]
      exact congrArg (fun t : State => Host.Outcome.next t.wake) (if_pos hv)
    · rw [hgo hv, State.startCtx_ok (not_busy hst) hb hs hd]
    · rw [hgo hv, State.startCtx_stale hst hb hs]
    · rw [hgo hv, State.startCtx_busy hst]
      rfl
    · rw [hgo hv, State.startCtx_illegal hst hb]
      rfl
  · intro c r u
    have he : exec (.stream q) s = .next (s.streamCmd q.toNat) := congrArg Host.Outcome.next (if_neg (by rw [hck]; decide))
    refine ⟨fun hst => ?_, fun h1 h3 hbad => ?_, fun h1 h3 hb hs hd => ?_⟩
    · rw [he, State.streamCmd, hi]
      exact congrArg Host.Outcome.next (if_pos hst)
    · rw [he, State.streamCmd, hi]
      refine congrArg Host.Outcome.next ((if_neg (not_or.mpr ⟨h1, h3⟩)).trans (if_pos ?_))
      rw [Bool.or_eq_true, Bool.or_eq_true, or_assoc]
      exact hbad
    · rw [he, State.streamCmd, hi]
      let w := (u.acceptCmd q.toNat false).modStm c fun x => { x with runBy := some q.toNat }
      have hw := u.acceptCmd_frame q.toNat false
      have hw' : (u.acceptCmd q.toNat false).stms = u.stms := by rw [hw]
      have hstm : w.stm c = { u.stm c with runBy := some q.toNat } := by
        rw [State.stm_modStm_same _ (by rw [hw']; exact Tab.wf_put _ _ hwf), State.stm, hw']
        rfl
      have hu : u.stm c = { s.stm c with ctrl := r.1, index := r.2.1, src := r.2.2.1, dst := r.2.2.2 } := State.stm_modStm_same _ hwf
      have hst : ¬ ((w.stm c).st = 1 ∨ (w.stm c).st = 3) := by
        rw [hstm, hu]
        exact not_or.mpr ⟨h1, h3⟩
      have hbad : ∀ x, w.startBad x false = u.startBad x false := fun x => by
        show ((u.acceptCmd q.toNat false).modStm c _).startBad x false = _
        rw [hw]
        rfl
      have hgen : ∀ x, w.genStale x = u.genStale x ∧ w.dstStale x = u.dstStale x := fun x => by
        show ((u.acceptCmd q.toNat false).modStm c _).genStale x = _ ∧ ((u.acceptCmd q.toNat false).modStm c _).dstStale x = _
        rw [hw]
        exact ⟨rfl, rfl⟩
      have hgo : (w.startCtx c false).2.stir = (w.beginPass c false).stir := by
        rw [State.startCtx_ok hst]
        · rw [hbad, hstm]
          exact hb
        · rw [(hgen _).1, hstm]
          exact hs
        · rw [(hgen _).2, hstm]
          exact hd
      refine congrArg Host.Outcome.next ((if_neg (not_or.mpr ⟨h1, h3⟩)).trans ((if_neg ?_).trans hgo))
      rw [Bool.or_eq_true, Bool.or_eq_true, or_assoc, not_or, not_or]
      exact ⟨ne_true_of_eq_false hb, ne_true_of_eq_false hs, ne_true_of_eq_false hd⟩
end Sys2Proof.Machine
end

section
/-! SUPPORT. Stream contexts: the entries of a pass, its satchels, and its end. -/

namespace Sys2Proof.Machine
variable {s t u v : State}

theorem State.closeConns_stms (s : State) (c : Nat) : (s.closeConns c).stms = s.stms := by
  unfold State.closeConns State.freeCells
  dsimp only
  split <;> rfl

theorem State.wf_dropCtxWork (c : Nat) (h : Tab.wf s.stms = true) : Tab.wf (s.dropCtxWork c).stms = true := by
  unfold State.dropCtxWork
  rw [State.modStm_stms, State.closeConns_stms]
  exact Tab.wf_put _ _ h

theorem State.stm_idleCtx (c : Nat) (h : Tab.wf s.stms = true) : ((s.idleCtx c).stm c).st = 0 :=
  congrArg Stream.st (Tab.get_put_same _ _ (State.wf_dropCtxWork c h))

/-- A pass that no command runs and that neither persists nor is multicast closes its connections. -/
theorem State.endPass_plain {c : Nat} (hr : (s.stm c).runBy = none) (hb : (s.stm c).bound = none) (hp : (s.stm c).pers = false)
    (hm : s.mc c = none) :
    s.endPass c = (s.closeConns c).modStm c fun x => { x with st := 0, cause := 0, runBy := none, bound := none, fed := false } := by
  unfold State.endPass
  rw [hm]
  dsimp only
  rw [hr, hb, hp]
  have hq : ((s.closeConns c).stm c).pers = false := by rw [State.stm, State.closeConns_stms]; exact hp
  have hf : ∀ x : Stream, x.pers = false → ({ x with st := if x.pers then 2 else 0, cause := 0, runBy := none, bound := none, fed := false } : Stream)
      = { x with st := 0, cause := 0, runBy := none, bound := none, fed := false } := fun x hx => by rw [hx]; rfl
  exact congrArg ((s.closeConns c).setStm c) (hf _ hq)

/-- Index entry `e`, which does not end the list, of context `c`: an item outside an endpoint halts the context, any other is issued. -/
def State.issueIndex (s : State) (c e : Nat) : State :=
  let x := s.stm c
  let src := if x.idxSide then x.issued else e
  let dst := if x.idxSide then e else x.issued
  if !((x.fed || s.itemOk c x.src false src) && s.itemOk c x.dst true dst) then
    s.haltCtx c evIndexRange (if !(x.fed || s.itemOk c x.src false src) then epKind x.src else epKind x.dst) x.issued
  else
    let num := !x.fed && decide (epKind x.src ≤ 3)
    let ent : SEnt := { i := x.issued, src := src, dst := dst, stage := if num then 0 else 1
                        consuming := (x.bound.map Prod.snd).getD false, sat := [] }
    let s := s.modStm c fun y => { y with issued := x.issued + 1, cause := 0, ents := y.ents ++ [ent] }
    if num then s.readEntry c ent else s.fill c

theorem exec_stmAbort (c : BitVec 12) (h : s.fullLoading = false) :
    exec (.stmAbort c) s = .next (s.withCtx c.toNat (s.hostStmAbort c.toNat)).wake := State.next_hostWrites h rfl

/-- Settles O35: the words of the chain (log 86), a context beyond the set's limit as a hole (log 79) and the waits of an entry (log 65)
are the model's choice. -/
theorem streamEntriesAndEnd : Obligations.StreamEntriesAndEnd := by
  refine ⟨fun c s hck => ?_, fun c s => ?_, fun c s hwf => ?_⟩
  · intro x e src dst hold room sound srcOk dstOk
    have hx : ∀ {t : State}, s.issueEntry c.toNat = t → exec (.streamEntryIssue c) s = .next t.stir := fun h =>
      congrArg Host.Outcome.next ((if_neg (by rw [hck]; decide)).trans (congrArg State.stir h))
    have hroom : room → ¬ (x.st ≠ 1 ∨ x.passEnd ≤ x.issued ∨ 16 ≤ x.ents.length) := fun ⟨h1, h2, h3⟩ h =>
      h.elim (fun h => h h1) fun h => h.elim (Nat.not_le.mpr h2) (Nat.not_le.mpr h3)
    have hhold : ((bitAt x.ctrl 16 && decide (s.bell (fld x.ctrl 48 16) < x.issued + 1)) || s.dstHeld c.toNat) = true ↔ hold := by
      rw [Bool.or_eq_true, Bool.and_eq_true, decide_eq_true_iff]
    have hok : (!((x.fed || s.itemOk c.toNat x.src false src) && s.itemOk c.toNat x.dst true dst)) = true ↔ ¬ (srcOk ∧ dstOk) := by
      rw [Bool.not_eq_true', ← Bool.not_eq_true, Bool.and_eq_true, Bool.or_eq_true]
    have hgo : room → ¬ hold → sound → e ≠ 0xFFFFFFFF → s.issueEntry c.toNat = s.issueIndex c.toNat e := fun h hh hs he =>
      (if_neg (hroom h)).trans ((if_neg (mt hhold.mp hh)).trans ((if_neg (ne_true_of_eq_false hs)).trans (if_neg he)))
    refine ⟨fun h => hx ?_, fun h hh => hx ?_, fun h hh hs => hx ?_, fun h hh hs he => hx ?_, fun h hh hs he ho => hx ?_,
      fun h hh hs he ho hd => hx ?_, fun h hh hs he ho hd => ?_⟩
    · refine if_pos ?_
      by_contra hc
      rw [not_or, not_or, not_not] at hc
      exact h ⟨hc.1, Nat.lt_of_not_le hc.2.1, Nat.lt_of_not_le hc.2.2⟩
    · exact (if_neg (hroom h)).trans (if_pos (hhold.mpr hh))
    · exact (if_neg (hroom h)).trans ((if_neg (mt hhold.mp hh)).trans (if_pos (Bool.not_eq_false _ ▸ hs)))
    · exact (if_neg (hroom h)).trans ((if_neg (mt hhold.mp hh)).trans ((if_neg (ne_true_of_eq_false hs)).trans (if_pos he)))
    · refine (hgo h hh hs he).trans ((if_pos (hok.mpr fun h => ho h.1)).trans (congrArg (s.haltCtx c.toNat evIndexRange · x.issued) (if_pos ?_)))
      rw [Bool.not_eq_true', ← Bool.not_eq_true, Bool.or_eq_true]
      exact ho
    · refine (hgo h hh hs he).trans ((if_pos (hok.mpr fun h => hd h.2)).trans (congrArg (s.haltCtx c.toNat evIndexRange · x.issued) (if_neg ?_)))
      rw [Bool.not_eq_true', ← Bool.not_eq_true, Bool.or_eq_true]
      exact not_not.mpr ho
    · intro ent u
      have hi := (hgo h hh hs he).trans (if_neg (mt hok.mp (not_not.mpr ⟨ho, hd⟩)))
      refine ⟨fun hf hk => hx ?_, fun hn => hx ?_⟩
      · have hnum : (!x.fed && decide (epKind x.src ≤ 3)) = true := by rw [hf, decide_eq_true hk]; rfl
        exact hi.trans (by rw [hnum]; rfl)
      · have hnum : (!x.fed && decide (epKind x.src ≤ 3)) = false := by
          rcases hn with hf | hk
          · rw [hf]; rfl
          · rw [decide_eq_false (Nat.not_le.mpr hk), Bool.and_false]
        exact hi.trans (by rw [hnum]; rfl)
  · have hown : s.isCkptCtx c.toNat = false → exec (.satchelReceive (.own c)) s = .next (s.satchelReceive c.toNat).stir := fun hck =>
      congrArg (fun t : State => Host.Outcome.next t.stir) (if_neg (ne_true_of_eq_false hck))
    refine ⟨fun ent hck hn hok => ?_, fun ent hck hn hok => ?_, fun hn => ?_, fun form hr hk => ?_⟩
    · exact (hown hck).trans (by rw [State.satchelReceive, hn]; exact congrArg (fun t : State => Host.Outcome.next t.stir) (if_pos hok))
    · exact (hown hck).trans (by
        rw [State.satchelReceive, hn]
        exact congrArg (fun t : State => Host.Outcome.next t.stir) (if_neg (ne_true_of_eq_false hok)))
    · refine congrArg (fun t : State => Host.Outcome.next t.stir) ?_
      rw [State.ckptReceive, State.satchelReceive, hn]
      exact ite_self s
    · have hrun : ¬ ((!(s.stm c.toNat).running || epKind (s.stm c.toNat).dst != 8) = true) := by rw [hr, hk]; decide
      exact ⟨congrArg (fun t : State => Host.Outcome.next t.stir) ((if_neg hrun).trans (if_pos rfl)),
        congrArg (fun t : State => Host.Outcome.next t.stir) ((if_neg hrun).trans (if_neg Bool.false_ne_true))⟩
  · refine ⟨fun h hc hr hb => ⟨?_, State.stm_idleCtx _ hwf⟩, fun h hc => ?_, fun hp => ?_, fun hp hr hb hq hm => ?_, fun hp => ?_⟩
    · rw [exec_stmAbort c h, State.withCtx, if_pos hc, State.hostStmAbort, hr]
      dsimp only
      rw [hb]
    · rw [exec_stmAbort c h, State.withCtx, if_neg (Nat.not_lt.mpr hc)]
      rfl
    · exact congrArg Host.Outcome.next (if_pos hp)
    · rw [← State.endPass_plain hr hb hq hm]
      exact congrArg Host.Outcome.next (if_pos hp)
    · exact congrArg Host.Outcome.next (if_neg (by rw [hp]; decide))
end Sys2Proof.Machine
end

section
/-! SUPPORT. Couriers: the set-ups that START refuses, START, the COURIER command, ABORT, CONTINUE and pacing. -/

namespace Sys2Proof.Machine
variable {s t u v : State}

/-- Settles O36: PACE_CRS counts when PACE_SRC names a courier (log 30). -/
theorem courierStartChecks : Obligations.CourierStartChecks := by
  intro k x s
  simp only [State.crsBad, Bool.or_eq_true, Bool.and_eq_true, decide_eq_true_eq, beq_iff_eq, bne_iff_ne, ne_eq]
  tauto

/-! ## CRS_CTRL -/

theorem bitAt_or_one (v : Word) : bitAt (v ||| 1) 0 = true ∧ bitAt (v ||| 1) 1 = bitAt v 1 ∧ bitAt (v ||| 1) 2 = bitAt v 2 := by
  simp [bitAt]

theorem State.writeCrsCtrl_start {k : Nat} {v : Word} (h1 : bitAt v 1 = false) (h2 : bitAt v 2 = false) (hst : (s.cr k).st = 0) :
    s.writeCrsCtrl k (v ||| 1) = ((s.modCr k fun x => { x with ctrl := (v ||| 1) &&& crsCtrlMask }).crsStart k none).2 := by
  obtain ⟨hb0, hb1, hb2⟩ := bitAt_or_one v
  unfold State.writeCrsCtrl
  rw [hb0, hb1, hb2, h1, h2]
  exact (if_neg (by decide)).trans ((if_neg (by simp [hst])).trans (if_pos rfl))

theorem State.writeCrsCtrl_busy {k : Nat} {v : Word} (h1 : bitAt v 1 = false) (h2 : bitAt v 2 = false) (hst : (s.cr k).st ≠ 0) :
    s.writeCrsCtrl k (v ||| 1) = s.crsLog k evCrsBusy 0 := by
  obtain ⟨hb0, hb1, hb2⟩ := bitAt_or_one v
  unfold State.writeCrsCtrl
  rw [hb0, hb1, hb2, h1, h2]
  exact (if_neg (by decide)).trans (if_pos ⟨rfl, hst⟩)

theorem State.writeCrsCtrl_more {k : Nat} {v : Word} (h : ¬ (bitAt v 1 = false ∧ bitAt v 2 = false)) :
    s.writeCrsCtrl k (v ||| 1) = s.crsLog k evCrsIllegal 0 := by
  obtain ⟨hb0, hb1, hb2⟩ := bitAt_or_one v
  unfold State.writeCrsCtrl
  rw [hb0, hb1, hb2]
  refine if_pos ?_
  cases h1 : bitAt v 1 <;> cases h2 : bitAt v 2
  case false.false => exact absurd ⟨h1, h2⟩ h
  all_goals decide

theorem State.crsStart_ok {k : Nat} (by_ : Option Nat) (h : s.crsBad k (s.cr k) = false) : s.crsStart k by_ = (none, s.crsRun k by_) :=
  if_neg (ne_true_of_eq_false h)

theorem State.crsStart_bad {k : Nat} (by_ : Option Nat) (h : s.crsBad k (s.cr k) = true) :
    s.crsStart k by_ = (some evCrsIllegal.code, s.crsLog k evCrsIllegal 0) := if_pos h

theorem exec_crsCtrl (k : BitVec 6) (h : s.fullLoading = false) (hk : k.toNat < limCouriers s.part.set) :
    (∀ v, exec (.crsStart k v) s = .next (s.writeCrsCtrl k.toNat (v ||| 1)).wake) ∧ exec (.crsAbort k) s = .next (s.crsAbort k.toNat).wake
      ∧ exec (.crsContinue k) s = .next (s.crsContinue k.toNat).wake :=
  ⟨fun _ => State.next_hostWrites h (congrArg State.wake (if_pos hk)), State.next_hostWrites h (congrArg State.wake (if_pos hk)),
    State.next_hostWrites h (congrArg State.wake (if_pos hk))⟩

/-! ## The COURIER command -/

/-- The courier with the registers that the command gives it. -/
def State.crsRegs (s : State) (c : Cmd) : State := s.modCr (kCourier c) fun x => { x with
  src := word (kSrc c) &&& ~~~7#64, dst := word (kDst c) &&& ~~~7#64, count := word (kCount c)
  ctrl := word (kCtrl c) &&& crsCtrlMask, pace := word (kPeriod c) }

/-- The command with an IDLE courier: it starts the courier, or stops its queue with the refusal. -/
theorem State.courierCmd_idle {q : Nat} {c : Cmd} {tag : Option EntTag} (hi : s.issuedTo q 0x31 = some (c, tag))
    (hr : (s.cr (kCourier c)).runBy ≠ some q) (hst : (s.cr (kCourier c)).st = 0) :
    s.courierCmd q = match (if kSrc c % 8 ≠ 0 ∨ kDst c % 8 ≠ 0
        then (some evCrsIllegal.code, (s.crsRegs c).crsLog (kCourier c) evCrsIllegal 0)
        else (s.crsRegs c).crsStart (kCourier c) (some q)) with
      | (some code, t) => t.stopQueue q code
      | (none, t) => t.acceptCmd q (t.cr (kCourier c)).circular := by
  unfold State.courierCmd
  rw [hi]
  exact (if_neg fun h => hr h.2.1).trans (if_neg (not_not.mpr hst))

/-- Settles O37: that START clears the pending events and the CRC is the model's choice (log 66). -/
theorem courierStartAndControl : Obligations.CourierStartAndControl := by
  refine ⟨⟨fun k v s h hk => ?_, fun q c tag s hi hr => ?_⟩, fun k s => ⟨fun h hk => ?_, fun hp hst hn => ?_, fun hp hst hn => ?_,
    fun hp hst => ?_, fun hp => ?_⟩⟩
  · intro one u
    rw [(exec_crsCtrl k h hk).1 v]
    refine ⟨fun ho hst hb => ?_, fun ho hst hb => ?_, fun ho hst => ?_, fun ho => ?_⟩
    · rw [State.writeCrsCtrl_start ho.1 ho.2 hst, State.crsStart_ok none hb]
      rfl
    · rw [State.writeCrsCtrl_start ho.1 ho.2 hst, State.crsStart_bad none hb]
    · rw [State.writeCrsCtrl_busy ho.1 ho.2 hst]
    · rw [State.writeCrsCtrl_more ho]
  · intro x u
    have he : exec (.courier q) s = .next (s.courierCmd q.toNat) := rfl
    refine ⟨fun hst h1 h2 hb => ?_, fun hst hb => ?_, fun hst => ?_⟩
    · rw [he, State.courierCmd_idle hi hr hst, if_neg (by omega), State.crsStart_ok (s := s.crsRegs c) (k := kCourier c) _ hb]
      rfl
    · rw [he, State.courierCmd_idle hi hr hst]
      split_ifs with hl
      · rfl
      · rw [State.crsStart_bad (s := s.crsRegs c) (k := kCourier c) _ ((or_assoc.mpr hb).resolve_left hl)]
        rfl
    · rw [he, State.courierCmd, hi]
      exact congrArg Host.Outcome.next ((if_neg fun h => hr h.2.1).trans (if_pos hst))
  · intro held w
    obtain ⟨-, ha, hc⟩ := exec_crsCtrl k h hk
    have hw : s.crsAbort k.toNat = if w.crsEng.busy = some k.toNat then { w with crsEng := { w.crsEng with abortReq := true } }
        else w.modCr k.toNat fun x => { x with st := 0, runBy := none } := by
      unfold State.crsAbort
      simp only [Bool.and_eq_true, beq_iff_eq]
      rfl
    rw [ha, hc]
    refine ⟨fun hb => ?_, fun hb => ?_, fun hst => ?_, fun hst => ?_⟩
    · rw [hw, if_pos hb]
    · rw [hw, if_neg hb]
    · rw [State.crsContinue, if_pos hst]
    · rw [State.crsContinue, if_neg hst]
  · exact congrArg Host.Outcome.next ((if_pos hp).trans (congrArg State.wake ((if_neg hst).trans (if_pos hn))))
  · exact congrArg Host.Outcome.next ((if_pos hp).trans (congrArg State.wake ((if_neg hst).trans (if_neg (Nat.not_lt.mpr hn)))))
  · exact congrArg Host.Outcome.next ((if_pos hp).trans (congrArg State.wake (if_pos hst)))
  · exact congrArg Host.Outcome.next (if_neg hp)
end Sys2Proof.Machine
end

section
/-! SUPPORT. The memory ports and the engine channels: responses, timeouts, tags, credits. -/

namespace Sys2Proof.Machine
variable {s t u v : State}

/-- Settles O39: that a courier's write is not sent again, and what a timed-out write and an unused tag do, is the model's choice
(log 62). -/
theorem memoryResponses : Obligations.MemoryResponses := by
  refine ⟨fun port tag s => ⟨fun o data poison err ho => ?_, fun o ho => ?_, fun o ho hr hc => ?_, fun o ho hrc => ?_,
    fun data poison err ho => ?_, fun err ho => ?_, fun o ho => ?_⟩, fun port tag s => ⟨fun o ho => ?_, fun o ho hc => ?_, fun o ho hc => ?_,
    fun ho => ?_, fun ho => ?_⟩⟩
  case refine_7 =>
    show (s.mem.out.erase o).length + 1 = s.mem.out.length
    rw [List.length_erase_of_mem ho]
    have := List.length_pos_of_mem ho
    omega
  all_goals refine congrArg Host.Outcome.next ?_
  · rw [State.readAnswer, ho]
  · rw [State.writeAnswer, ho]
    rfl
  · rw [State.writeAnswer, ho]
    exact congrArg State.goOnMem ((if_neg (by decide)).trans (if_neg (c := (o.retried || s.courierWrite o) = true) (by rw [hr, hc]; decide)))
  · rw [State.writeAnswer, ho]
    refine congrArg State.goOnMem ((if_neg (by decide)).trans (if_pos ?_))
    rw [Bool.or_eq_true]
    exact hrc
  · rw [State.readAnswer, ho]
  · rw [State.writeAnswer, ho]
  · rw [State.readTimeout, ho]
  · rw [State.writeTimeout, ho]
    exact congrArg (fun t : State => t.goOnMem.wake) (if_pos hc)
  · rw [State.writeTimeout, ho]
    exact congrArg (fun t : State => t.goOnMem.wake) (if_neg (ne_true_of_eq_false hc))
  · rw [State.readTimeout, ho]
  · rw [State.writeTimeout, ho]

/-! ## Tags -/

theorem State.freeTag_eq_some {port n : Nat} (h : s.freeTag port = some n) :
    n < s.tagsOf port ∧ n ∉ s.usedTags port ∧ ∀ u, u < n → u ∈ s.usedTags port := by
  obtain ⟨hp, -, hu⟩ := List.find?_range_eq_some.mp h
  rw [Bool.and_eq_true, Bool.not_eq_true', decide_eq_true_eq] at hp
  obtain ⟨hc, hlt⟩ := hp
  refine ⟨hlt, fun hm => ?_, fun u hun => ?_⟩
  · rw [List.contains_iff_mem.mpr hm] at hc
    cases hc
  · have hn := hu u hun
    rw [decide_eq_true (Nat.lt_trans hun hlt), Bool.and_true, Bool.not_not] at hn
    exact List.contains_iff_mem.mp hn

/-- A port with fewer tags in use than it has gives one of the lowest `used + 1`. -/
theorem State.freeTag_isSome {port : Nat} (h : (s.usedTags port).length < s.tagsOf port) : ∃ n, s.freeTag port = some n := by
  by_contra hno
  have hnone : s.freeTag port = none := Option.eq_none_iff_forall_ne_some.mpr fun n hn => hno ⟨n, hn⟩
  have hsub : List.range ((s.usedTags port).length + 1) ⊆ s.usedTags port := fun n hn => by
    have hp := List.find?_eq_none.mp hnone n hn
    rw [decide_eq_true (by have := List.mem_range.mp hn; omega), Bool.and_true, Bool.not_eq_true', Bool.not_eq_false] at hp
    exact List.contains_iff_mem.mp hp
  have hlen := (List.nodup_range.subperm hsub).length_le
  rw [List.length_range] at hlen
  omega

theorem State.usedTags_sendReq {r : MemReq} {retried : Bool} (h : ∀ port, (s.usedTags port).Nodup) (port : Nat) :
    ((s.sendReq r retried).usedTags port).Nodup := by
  unfold State.sendReq
  split
  · exact h port
  next n hn =>
    obtain ⟨-, hfree, -⟩ := State.freeTag_eq_some hn
    show ((((s.mem.out ++ [({ tag := n, req := r, retried := retried } : MemOut)]).filter (·.req.port == port)).map MemOut.tag
      ++ (s.mem.late.filter (·.1 == port)).map Prod.snd)).Nodup
    rw [List.filter_append, List.map_append]
    by_cases hp : r.port = port
    · subst hp
      have hone : [({ tag := n, req := r, retried := retried } : MemOut)].filter (·.req.port == r.port)
          = [{ tag := n, req := r, retried := retried }] := by simp
      rw [hone, List.append_assoc]
      exact (List.perm_middle.nodup_iff).mpr (List.nodup_cons.mpr ⟨hfree, h r.port⟩)
    · have hnone : [({ tag := n, req := r, retried := retried } : MemOut)].filter (·.req.port == port) = [] := by simp [hp]
      rw [hnone, List.map_nil, List.append_nil]
      exact h port

theorem usedTags_pumpLoop (n : Nat) {s : State} (h : ∀ port, (s.usedTags port).Nodup) (port : Nat) :
    ((pumpLoop n s).usedTags port).Nodup := by
  induction n generalizing s with
  | zero => exact h port
  | succ n ih =>
    rw [pumpLoop]
    split
    · exact h port
    · exact ih (State.usedTags_sendReq h)

/-- Settles O40: that the lowest free tag is taken is the model's choice (log 75). -/
theorem outstandingTags : Obligations.OutstandingTags :=
  ⟨fun _ _ => ⟨fun _ => State.freeTag_eq_some, State.freeTag_isSome⟩, fun _ => usedTags_pumpLoop _⟩

/-! ## Engine channels -/

/-- Context `c` waits to send on channel `ch`, which has no credit. -/
def State.sendStuck (s : State) (ch c : Nat) : Bool := Tab.get s.eng.credit ch == 0 && (s.stm c).ents.any fun e => e.stage == 2

theorem State.engineTimeout_eq (s : State) (ch : Nat) :
    s.engineTimeout ch = match s.engineSource ch, (s.engineDest ch).filter (s.sendStuck ch) with
      | _, some c => (s.haltCtx c evStmBusErr 6 (s.failingEntry c 6)).stir
      | some c, none => (s.haltCtx c evStmBusErr 6 (s.failingEntry c 6)).stir
      | none, none => s := rfl

theorem State.engineTimeout_dest {ch c : Nat} (h : (s.engineDest ch).filter (s.sendStuck ch) = some c) :
    s.engineTimeout ch = (s.haltCtx c evStmBusErr 6 (s.failingEntry c 6)).stir := by
  rw [State.engineTimeout_eq, h]

theorem State.engineTimeout_source {ch c : Nat} (h : (s.engineDest ch).filter (s.sendStuck ch) = none) (hs : s.engineSource ch = some c) :
    s.engineTimeout ch = (s.haltCtx c evStmBusErr 6 (s.failingEntry c 6)).stir := by
  rw [State.engineTimeout_eq, h, hs]

theorem State.engineTimeout_none {ch : Nat} (h : (s.engineDest ch).filter (s.sendStuck ch) = none) (hs : s.engineSource ch = none) :
    s.engineTimeout ch = s := by
  rw [State.engineTimeout_eq, h, hs]

/-- A credit granted to the channel is used up. -/
def State.spendGrant (s : State) (ch : Nat) : State :=
  { s with eng := { s.eng with granted := Tab.put s.eng.granted ch (Tab.get s.eng.granted ch - 1) } }

theorem State.engineSatchel_eq (s : State) (ch : Nat) (sat : Bytes) (err : Bool) :
    s.engineSatchel ch sat err = match (s.spendGrant ch).engineSource ch with
      | none => s.spendGrant ch
      | some c =>
        if err then ((s.spendGrant ch).haltCtx c evStmBusErr 6 ((s.spendGrant ch).failingEntry c 6)).stir
        else (((s.spendGrant ch).modStm c fun x => { x with supply := x.supply ++ [sat] }).fill c).stir := rfl

/-- Settles O41: which context ENGINE_TIMEOUT halts is the model's choice (log 64). -/
theorem creditsAndChannels : Obligations.CreditsAndChannels := by
  refine ⟨fun n s => ⟨rfl, rfl, rfl, rfl, fun hw => ?_, fun c hf => ?_, fun port c hp hc => ?_⟩, fun ch s => ?_⟩
  · rw [State.pump, hw]
    rfl
  · rw [State.portOpen, if_pos rfl, hf]
    rfl
  · rw [State.portOpen, if_neg (by omega), hc]
    rfl
  · intro u stuck halt
    refine ⟨fun sat c hc => ?_, fun sat c hc => ?_, fun sat err hc => ?_, rfl, fun c hd hst => ?_, fun c hd hsrc => ?_, fun hd hsrc => ?_⟩
    · have hc' : (s.spendGrant ch.toNat).engineSource ch.toNat = some c := hc
      refine congrArg (fun t : State => Host.Outcome.next t.settle) ((s.engineSatchel_eq _ _ _).trans ?_)
      rw [hc']
      exact if_neg Bool.false_ne_true
    · have hc' : (s.spendGrant ch.toNat).engineSource ch.toNat = some c := hc
      refine congrArg (fun t : State => Host.Outcome.next t.settle) ((s.engineSatchel_eq _ _ _).trans ?_)
      rw [hc']
      exact if_pos rfl
    · have hc' : (s.spendGrant ch.toNat).engineSource ch.toNat = none := hc
      refine congrArg (fun t : State => Host.Outcome.next t.settle) ((s.engineSatchel_eq _ _ _).trans ?_)
      rw [hc']
      rfl
    · have hf : (s.engineDest ch.toNat).filter stuck = some c := by rw [hd, Option.filter_some, if_pos hst]
      exact congrArg (fun t : State => Host.Outcome.next t.settle) (State.engineTimeout_dest hf)
    · have hf : (s.engineDest ch.toNat).filter stuck = none := Option.filter_eq_none_iff.mpr fun d hd' => ne_true_of_eq_false (hd d hd')
      exact congrArg (fun t : State => Host.Outcome.next t.settle) (State.engineTimeout_source hf hsrc)
    · have hf : (s.engineDest ch.toNat).filter stuck = none := Option.filter_eq_none_iff.mpr fun d hd' => ne_true_of_eq_false (hd d hd')
      exact congrArg (fun t : State => Host.Outcome.next t.settle) (State.engineTimeout_none hf hsrc)
end Sys2Proof.Machine
end

section
/-! SUPPORT. The error log's entries. -/

namespace Sys2Proof.Machine
variable {s t u v : State}

theorem State.wf_evSet (e : Ev) (h : Tab.wf s.regs = true) : Tab.wf (s.evSet e).regs = true := by
  unfold State.evSet State.setEvBit
  split
  · exact h
  split
  · exact h
  · exact Tab.wf_put _ _ h

/-- The first word of a log entry. -/
def State.logWord (s : State) (unit code : Nat) : Word :=
  word (at_ 32 (s.hall.toNat % 2 ^ 32) + at_ 16 code + at_ 13 s.part.form + at_ 8 unit)

/-- An entry without ERR_FIRST: the next place of the log, and the pointer. -/
def State.logPlace (s : State) (unit code detail : Nat) : State :=
  let nx := s.regF aErrLogPtr 0 8
  ((((s.setReg (aErrLog + 16 * nx) (s.logWord unit code)).setReg (aErrLog + 16 * nx + 8)
    (word (at_ 32 s.stepCtr.toNat + detail % 2 ^ 32))).incF aErrLogPtr 32 32 1).setF aErrLogPtr 0 8 ((nx + 1) % 256))

theorem State.logEntry_eq (s : State) (unit code detail : Nat) :
    s.logEntry unit code detail = if s.err.armed then
      { ((s.logPlace unit code detail).setReg aErrFirstA (s.logWord unit code)).setReg aErrFirstB
          (word (at_ 32 s.stepCtr.toNat + detail % 2 ^ 32)) with err := { s.err with armed := false } }
      else s.logPlace unit code detail := rfl

theorem State.logPlace_reg (unit code detail : Nat) (h : Tab.wf s.regs = true) :
    let t := s.logPlace unit code detail
    let nx := s.regF aErrLogPtr 0 8
    Tab.wf t.regs = true ∧ t.reg (aErrLog + 16 * nx) = s.logWord unit code ∧ t.regF aErrLogPtr 0 8 = (nx + 1) % 256
      ∧ t.reg aErrFirstA = s.reg aErrFirstA := by
  intro t nx
  have h1 : Tab.wf (s.setReg (aErrLog + 16 * nx) (s.logWord unit code)).regs = true := Tab.wf_put _ _ h
  have h2 : Tab.wf ((s.setReg (aErrLog + 16 * nx) (s.logWord unit code)).setReg (aErrLog + 16 * nx + 8)
    (word (at_ 32 s.stepCtr.toNat + detail % 2 ^ 32))).regs = true := Tab.wf_put _ _ h1
  have h3 : Tab.wf (((s.setReg (aErrLog + 16 * nx) (s.logWord unit code)).setReg (aErrLog + 16 * nx + 8)
    (word (at_ 32 s.stepCtr.toNat + detail % 2 ^ 32))).incF aErrLogPtr 32 32 1).regs = true := Tab.wf_put _ _ h2
  refine ⟨Tab.wf_put _ _ h3, ?_, ?_, ?_⟩
  · have hp : aErrLog + 16 * nx ≠ aErrLogPtr := by unfold aErrLog aErrLogPtr; omega
    refine (State.reg_setF_ne _ hp).trans ((State.reg_incF_ne _ hp).trans ((State.reg_setReg_ne _ _ (by omega)).trans ?_))
    exact State.reg_setReg_same _ _ h
  · refine (State.regF_setF_same _ _ h3 (by decide)).trans ?_
    omega
  · have hp : aErrFirstA ≠ aErrLogPtr := by decide
    refine (State.reg_setF_ne _ hp).trans ((State.reg_incF_ne _ hp).trans ((State.reg_setReg_ne _ _ ?_).trans (State.reg_setReg_ne _ _ ?_)))
    all_goals unfold aErrLog aErrFirstA; omega

theorem State.logEntry_reg (unit code detail : Nat) (h : Tab.wf s.regs = true) :
    let t := s.logEntry unit code detail
    let nx := s.regF aErrLogPtr 0 8
    t.reg (aErrLog + 16 * nx) = s.logWord unit code ∧ t.regF aErrLogPtr 0 8 = (nx + 1) % 256 ∧ t.err.armed = false
      ∧ (s.err.armed = true → t.reg aErrFirstA = s.logWord unit code) ∧ (s.err.armed = false → t.reg aErrFirstA = s.reg aErrFirstA) := by
  intro t nx
  obtain ⟨hw, hlog, hptr, hfst⟩ := State.logPlace_reg unit code detail h
  have ht : t = _ := s.logEntry_eq unit code detail
  cases ha : s.err.armed with
  | false =>
    rw [ha] at ht
    rw [ht]
    exact ⟨hlog, hptr, ha, fun h => (Bool.false_ne_true h).elim, fun _ => hfst⟩
  | true =>
    rw [ha] at ht
    rw [ht]
    refine ⟨?_, ?_, rfl, fun _ => ?_, fun h => (Bool.false_ne_true h.symm).elim⟩
    · have hA : aErrLog + 16 * nx ≠ aErrFirstA := by unfold aErrLog aErrFirstA; omega
      have hB : aErrLog + 16 * nx ≠ aErrFirstB := by unfold aErrLog aErrFirstB; omega
      exact (State.reg_setReg_ne _ _ hB).trans ((State.reg_setReg_ne _ _ hA).trans hlog)
    · refine (congrArg (fld · 0 8) ((State.reg_setReg_ne _ _ ?_).trans (State.reg_setReg_ne _ _ ?_))).trans hptr
      all_goals decide
    · refine (State.reg_setReg_ne _ _ (by decide)).trans (State.reg_setReg_same _ _ hw)

/-- Settles O43. -/
theorem loggedEventSetsBitAndEntry : Obligations.LoggedEventSetsBitAndEntry := by
  intro e low a s hw ha hcode hform hunit t nx
  let u := (s.setReg a (word (at_ 48 e.code + low % 2 ^ 48))).evSet e
  have ht : t = u.logEntry e.unit e.code ((low % 2 ^ 48) >>> 16) := by
    show s.logEv e low = _
    unfold State.logEv
    rw [ha]
    rfl
  have hu : s.sameButRegs u := by
    have h := (s.setReg a (word (at_ 48 e.code + low % 2 ^ 48))).evSet_frame e
    exact State.sameButRegs.trans (t := s.setReg a (word (at_ 48 e.code + low % 2 ^ 48))) (by rfl) h
  have hreg : ∀ b, b ∉ unitRegs → u.reg b = s.reg b := fun b hb =>
    (State.reg_evSet e hb).trans (State.reg_setReg_ne _ _ fun he => hb (by rw [he]; exact errAddr_mem ha))
  have hwu : Tab.wf u.regs = true := State.wf_evSet e (Tab.wf_put _ _ hw)
  obtain ⟨hlog, hptr, harm, hfst, hkeep⟩ := State.logEntry_reg e.unit e.code ((low % 2 ^ 48) >>> 16) hwu
  have hnx : u.regF aErrLogPtr 0 8 = nx := congrArg (fld · 0 8) (hreg _ (by decide))
  have hword : u.logWord e.unit e.code = s.logWord e.unit e.code := by
    rw [hu]
    rfl
  have herr : u.err = s.err := by rw [hu]
  rw [hnx] at hlog hptr
  rw [hword] at hlog hfst
  rw [herr] at hfst hkeep
  rw [hreg _ (by decide)] at hkeep
  exact ⟨s.logEv_frame e low, ht ▸ hlog, ht ▸ hptr, ht ▸ harm, ht ▸ hfst, ht ▸ hkeep⟩
end Sys2Proof.Machine
end

section
/-! SUPPORT. Accesses of the host and of the debug port. -/

namespace Sys2Proof.Machine
variable {s t u v : State}

theorem State.head_of_form (h : s.part.form = 0) : s.head = true := beq_iff_eq.mpr h

theorem exec_hostWrite_head (addr : BitVec 27) (data same : Word) {strb : BitVec 8} (h : s.part.form = 0) (hs : strb = 0xFF) :
    exec (.hostWrite addr data strb same) s = .next (s.hostWriteAt addr.toNat data same) := by
  refine congrArg Host.Outcome.next ((if_neg ?_).trans (if_neg ?_))
  · rw [State.head_of_form h]
    decide
  · rw [hs]
    decide

theorem State.hostWrites_load (h : s.fullLoading = true) (t : State) : s.hostWrites t = s.logEv evHostAccessViolation 0 := if_pos h

theorem State.hostWriteAt_far {addr : Nat} {v same : Word} (hf : s.part.form = 0) (hn : addrForm addr ≠ 0) (hlt : addrForm addr < s.forms) :
    s.hostWriteAt addr v same = if inUnits (addrOff addr) then s.hostWrites (s.sendFed (addrForm addr) 1 0 addr v)
      else s.sendFed (addrForm addr) 1 0 addr v :=
  (if_neg (Nat.not_le.mpr hlt)).trans (if_neg (by rw [hf]; exact hn))

theorem State.forms_pos : 0 < s.forms := Nat.two_pow_pos _

/-! ## The debug port -/

theorem State.tapAccess_own {wr : Bool} {addr : Nat} {v same : Word} (hn : addrForm addr = s.part.form) (hlt : addrForm addr < s.forms) :
    s.tapAccess wr addr v same = if wr then s.localWrite (addrOff addr) v same
      else { (s.regRead (addrOff addr)).2 with tap := (s.regRead (addrOff addr)).1 } := by
  unfold State.tapAccess
  dsimp only
  rw [if_neg (Nat.not_le.mpr hlt)]
  cases wr with
  | true => exact (if_pos rfl).trans ((if_neg (Nat.not_le.mpr hlt)).trans (if_pos hn))
  | false => exact (if_neg Bool.false_ne_true).trans (if_pos hn)

/-! ## DOORBELL -/

theorem exec_doorbell_head (kind : BitVec 1) (index : BitVec 16) {form : BitVec 3} (h : s.part.form = 0) (hn : form.toNat < s.forms) :
    exec (.doorbell form kind index) s = .next (if form.toNat = 0 then s.localBell kind.toNat index.toNat
      else s.hostWrites (s.sendFed form.toNat 3 0 (bellFields form.toNat kind.toNat index.toNat) 0)) := by
  refine congrArg Host.Outcome.next ((if_neg ?_).trans ((if_neg (Nat.not_le.mpr hn)).trans ?_))
  · rw [State.head_of_form h]
    decide
  · rw [h]

/-- Settles O42: that a partial strobe goes before an unmapped address and the fields of DOORBELL (log 58), and the access of the debug
port (logs 59 and 81), are the model's choice. -/
theorem hostAndDebugAccess : Obligations.HostAndDebugAccess := by
  refine ⟨fun addr data same strb s => ?host, fun wr addr data same s htd => ?tapOff, fun wr addr data same s htd => ?tap,
    fun kind form index s h => ?bell, fun kind form index s h => ?away⟩
  case host =>
    intro n off
    refine ⟨fun h hs => ?_, fun h hs hn => ?_, fun h hs hn => ?_, fun h hs hn hlt hu => ?_, fun h hs hn hlt hu hl => ?_, fun h => ?_⟩
    · refine congrArg Host.Outcome.next ((if_neg ?_).trans (if_pos fun he => hs (BitVec.eq_of_toNat_eq he)))
      rw [State.head_of_form h]
      decide
    · rw [exec_hostWrite_head addr data same h hs]
      exact congrArg Host.Outcome.next (if_pos hn)
    · rw [exec_hostWrite_head addr data same h hs]
      refine congrArg Host.Outcome.next ((if_neg ?_).trans (if_pos (hn.trans h.symm)))
      rw [show addrForm addr.toNat = 0 from hn]
      exact Nat.not_le.mpr State.forms_pos
    · rw [exec_hostWrite_head addr data same h hs, State.hostWriteAt_far h hn hlt]
      refine congrArg Host.Outcome.next ?_
      rcases hu with hu | hl
      · exact if_neg (ne_true_of_eq_false hu)
      · rw [State.hostWrites_eq hl]
        exact ite_self _
    · rw [exec_hostWrite_head addr data same h hs, State.hostWriteAt_far h hn hlt]
      exact congrArg Host.Outcome.next ((if_pos hu).trans (State.hostWrites_load hl _))
    · exact congrArg Host.Outcome.next (if_pos (by rw [State.head, beq_eq_false_iff_ne.mpr h]; rfl))
  case tapOff => exact congrArg Host.Outcome.next (if_pos (by rw [htd]; rfl))
  case tap =>
    intro u off
    have he : exec (.tapDbgacc wr addr ⟨data, same⟩) s = .next (u.tapAccess wr addr.toNat data same) :=
      congrArg Host.Outcome.next (if_neg (by rw [htd]; decide))
    refine ⟨fun hn hlt => ?_, fun hn => ?_⟩
    · rw [he, State.tapAccess_own (s := u) hn hlt]
    · rw [he]
      exact congrArg Host.Outcome.next (if_pos hn)
  case bell =>
    refine ⟨fun hl hf hk hi => ?_, fun hl hf hk => ?_, fun hl hf hn => ?_, fun hl hn => ?_, fun hn => ?_⟩
    · rw [exec_doorbell_head kind index h (by rw [hf]; exact State.forms_pos), hf, hk]
      exact congrArg Host.Outcome.next ((State.hostWrites_eq hl _).trans (if_pos hi))
    · rw [exec_doorbell_head kind index h (by rw [hf]; exact State.forms_pos), hf, hk]
      exact congrArg Host.Outcome.next (State.hostWrites_eq hl _)
    · rw [exec_doorbell_head kind index h hn, if_neg fun he : form.toNat = 0 => hf (BitVec.eq_of_toNat_eq he), State.hostWrites_eq hl]
    · rw [exec_doorbell_head kind index h hn]
      refine congrArg Host.Outcome.next ?_
      split
      · exact State.hostWrites_load hl _
      · exact State.hostWrites_load hl _
    · refine congrArg Host.Outcome.next ((if_neg ?_).trans (if_pos hn))
      rw [State.head_of_form h]
      decide
  case away => exact congrArg Host.Outcome.next (if_pos (by rw [State.head, beq_eq_false_iff_ne.mpr h]; rfl))
end Sys2Proof.Machine
end

section
/-! SUPPORT. The states of the fabric ports. -/

namespace Sys2Proof.Machine

/-- A form whose link table lists port 0 twice: a link at reset but for its alignment, and behind it one in HELLO. -/
def exTwice : State := { exS with fab := { exS.fab with
  links := [(0, { (default : FLink) with aligned := true }), (0, { (default : FLink) with st := lsHello })] } }

/-- Loss of alignment leaves the first link at its reset value, which the table does not list; the one behind it goes DOWN. -/
theorem exTwice_alignLoss : ((exTwice.alignLoss 0).flink 0).st = lsDown := by decide

/-- Refutes O44: from a link table that is not in canonical form (`exTwice`), PCS_ALIGN_LOSS of a link that is not beyond DOWN takes a second
link of that port DOWN, where the statement has the form's alignment alone change. -/
theorem not_portStates : ¬ Obligations.PortStates := by
  intro h
  obtain ⟨hports, -⟩ := h
  obtain ⟨-, -, hloss, -⟩ := hports 0 exTwice
  have he : exTwice.alignLoss 0 = exTwice.modFlink 0 fun l => { l with aligned := false } :=
    Host.Outcome.next.inj (hloss (by decide) (.inl (by decide)))
  have hst : ((exTwice.modFlink 0 fun l => { l with aligned := false }).flink 0).st = lsHello := by decide
  have h1 := exTwice_alignLoss
  rw [he, hst] at h1
  exact absurd h1 (by decide)
end Sys2Proof.Machine
end

section
/-! SUPPORT. The link timers, the failures of a link, and FRAME_SEND. -/

namespace Sys2Proof.Machine
variable {s t u v : State}

theorem State.offerTimer_if (p : Nat) :
    s.offerTimer p = if ((s.flink p).st = lsKeying ∨ ((s.flink p).st = lsUp ∧ (s.flink p).renewing = true)) ∧ (s.flink p).offerIn.isNone then
      (if (s.flink p).offer.isSome then s else s.makeOffer p (s.flink p).index).sendPlain p tKey (s.flink p).partnerSA
        (((if (s.flink p).offer.isSome then s else s.makeOffer p (s.flink p).index).flink p).offer.getD [])
      else s := rfl

/-- Settles O45. -/
theorem linkTimersAndFailures : Obligations.LinkTimersAndFailures := by
  refine ⟨fun p s => ?timers, fun p s => ?failures⟩
  case timers =>
    intro l offers renews again made new
    have hoff : offers ↔ (l.st = lsKeying ∨ (l.st = lsUp ∧ l.renewing = true)) ∧ l.offerIn.isNone = true := by
      rw [Option.isNone_iff_eq_none]
    have hren : renews ↔ l.st = lsUp ∧ (!l.renewing) = true
        ∧ (2 ^ 47 ≤ l.txLsn ∨ 2 ^ 47 ≤ l.rxLsn ∨ 2 ^ 47 ≤ l.txLink ∨ 2 ^ 47 ≤ l.rxLink) := by rw [Bool.not_eq_true']
    refine ⟨fun h => ?_, fun h => ?_, fun h ho => ?_, fun h ho => ?_, fun h => ?_, fun h => ?_, fun h => ?_, fun h => ?_, fun h => ?_,
      fun h => ?_, fun h => ?_⟩
    all_goals refine congrArg Host.Outcome.next ?_
    · exact if_pos h
    · exact if_neg h
    · rw [State.offerTimer_if, if_pos (hoff.mp h), if_pos ho]
    · rw [State.offerTimer_if, if_pos (hoff.mp h), if_neg (by rw [show (s.flink p.toNat).offer = none from ho]; decide)]
    · rw [State.offerTimer_if, if_neg (mt hoff.mpr h)]
    · refine (if_pos h).trans (congrArg (fun f => s.modFlink p.toNat f) ?_)
      simp only [isFed, decide_eq_true_eq]
    · exact if_neg h
    · exact if_pos (hren.mp h)
    · exact if_neg (mt hren.mpr h)
    · exact if_pos h
    · exact if_neg (ne_true_of_eq_false h)
  case failures =>
    have hno : ∀ {a b : Bool}, a = false ∨ b = false → ¬ ((a && b) = true) := fun h => by
      rcases h with h | h <;> simp [h]
    refine ⟨fun hu he => ?_, fun h => ?_, fun hu => ?_, fun hu => ?_, fun hu hr => ?_, fun h => ?_⟩
    all_goals refine congrArg Host.Outcome.next ?_
    · exact if_pos (by rw [hu, he]; rfl)
    · exact if_neg (hno h)
    · exact if_pos hu
    · exact if_neg (ne_true_of_eq_false hu)
    · exact if_neg (by simp [hu, hr])
    · refine if_pos ?_
      rcases h with h | h <;> simp [h]

/-- Settles O46. -/
theorem frameSendTakesNextLsn : Obligations.FrameSendTakesNextLsn := by
  intro p s l
  have hsend : l.st = lsUp → ∀ d, drr s p.toNat 4096 l = d → s.frameSend p.toNat = match d with
      | none => s.setFlink p.toNat { l with deficit := l.deficit.zipIdx.map fun d => if (l.headOf d.2).isSome then d.1 else 0 }
      | some (f, l') =>
        let bytes := s.protect p.toNat { WHdr.read f.head with lsn := l.txLsn, key := l.txIndex } f.pay
        if !replayRoom p.toNat l bytes.length then s else (s.setFlink p.toNat { l' with
          txLsn := l.txLsn + 1
          sent := l'.sent.set f.vc ((l'.sent.getD f.vc 0 + cellsOf f.pay.length) % 2 ^ 32)
          replay := l'.replay ++ [{ lsn := l.txLsn, bytes := bytes, tries := 1, pay := f.pay }] }).transmit p.toNat l.txLsn 0 f.pay.length
            bytes := by
    rintro hst d rfl
    exact if_neg (not_not.mpr hst)
  refine ⟨fun hst => ?_, fun hst hd => ?_, fun f l' hst hd => ?_, fun f l' hst hd hr => ?_⟩
  · exact congrArg Host.Outcome.next (if_pos hst)
  · exact congrArg Host.Outcome.next (hsend hst _ hd)
  · intro bytes hr
    exact congrArg Host.Outcome.next ((hsend hst _ hd).trans (if_neg (by rw [hr]; decide)))
  · exact congrArg Host.Outcome.next ((hsend hst _ hd).trans (if_pos (by rw [hr]; rfl)))
end Sys2Proof.Machine
end

section
/-! SUPPORT. Received frames: the rows of the types, MCAST_DETACH, and the frames of collectives. -/

namespace Sys2Proof.Machine
variable {s t u v : State}

/-- What the checks have passed goes to the rules of its type. -/
theorem State.onFrame_got {p typ : Nat} {fr pay : Bytes} {bad : Bool} {h : WHdr} (hr : s.receive p fr bad = .got h pay u) (ht : h.typ = typ)
    (f : WHdr → Bytes → State → State) : s.onFrame p typ fr bad f = f h pay u := by
  rw [State.onFrame, hr]
  exact if_pos ht

theorem State.onFrame_drop {p typ : Nat} {fr : Bytes} {bad : Bool} (hr : s.receive p fr bad = .drop u)
    (f : WHdr → Bytes → State → State) : s.onFrame p typ fr bad f = u := by
  rw [State.onFrame, hr]

theorem State.frameRow_got {p typ : Nat} {fr pay : Bytes} {bad : Bool} {h : WHdr} (hr : s.receive p fr bad = .got h pay u) (ht : h.typ = typ)
    (t : State) : s.frameRow p typ fr bad t = (s.afterPort t.wake p).settle := by
  have ha : s.accepted p typ fr bad t = true := by
    rw [State.accepted, hr]
    exact beq_iff_eq.mpr ht
  rw [State.frameRow, ha]
  rfl

theorem State.frameRow_drop {p : Nat} {fr : Bytes} {bad : Bool} (hr : s.receive p fr bad = .drop u) (typ : Nat) (t : State) :
    s.frameRow p typ fr bad t = (s.afterPort (if (t.flink p).rxLsn != (s.flink p).rxLsn then t.wake else t) p).settle := by
  rw [State.frameRow, State.accepted, hr]

/-! ## MCAST_DETACH -/

/-- A child that blocks the sender: attached, with eight satchels unacknowledged. -/
def Mcast.stuck (m : Mcast) (x : McChild) : Bool := x.attached && decide (x.acked + 8 ≤ m.issued)

theorem Mcast.map_cut (m : Mcast) :
    (m.children.map fun x => if (m.children.filter m.stuck).contains x then { x with attached := false } else x)
      = m.children.map fun x => if m.stuck x then { x with attached := false } else x := by
  refine List.map_congr_left fun x hx => ?_
  have hc : (m.children.filter m.stuck).contains x = m.stuck x := by
    rw [Bool.eq_iff_iff, List.contains_iff_mem, List.mem_filter]
    exact and_iff_right hx
  rw [hc]

theorem State.mcastDetach_none {c : Nat} (h : s.mc c = none) : s.mcastDetach c = s := by rw [State.mcastDetach, h]

theorem State.mcastDetach_open {c : Nat} {m : Mcast} (h : s.mc c = some m) (hw : m.window = true ∨ s.treeReady c = false) :
    s.mcastDetach c = s := by
  rw [State.mcastDetach, h]
  refine if_pos ?_
  rcases hw with hw | hw <;> simp [hw]

theorem State.mcastDetach_shut {c : Nat} {m : Mcast} (h : s.mc c = some m) (hw : m.window = false) (ht : s.treeReady c = true) :
    s.mcastDetach c = State.relayLoop 16 (((m.children.filter m.stuck).foldl (fun t x =>
        ((t.logEv evMcastDetach (fabErr 0 0 x.coord m.group)).incF aFabMcast 32 32 1).sendLossy tDetach 0 x.coord m.form (0xE000 + m.group)
          (mcastPay m.group x.sent)) s).setMc c { m with
            children := m.children.map fun x => if m.stuck x then { x with attached := false } else x }) c := by
  rw [State.mcastDetach, h, ← m.map_cut]
  exact if_neg (by rw [hw, ht]; decide)

/-- Settles O47. -/
theorem frameTypes : Obligations.FrameTypes := by
  refine ⟨fun p fr bad same s => ⟨fun h pay u hr => ?_, fun u hr => ?_⟩, fun c s => ⟨fun hm => ?_, fun m hm hw => ?_, fun m hm hw ht => ?_⟩⟩
  · intro fin
    have hrow : ∀ {typ : Nat} (f : WHdr → Bytes → State → State), h.typ = typ →
        s.frameRow p.toNat typ fr bad (s.onFrame p.toNat typ fr bad f) = fin (f h pay u) := fun f ht =>
      (State.frameRow_got hr ht _).trans (by rw [State.onFrame_got hr ht])
    refine ⟨fun ht => ?_, fun ht => ?_, fun ht => ?_, fun ht he => ?_, fun ht he hs => ?_, fun ht => ?_, fun ht => ?_, fun ht => ?_,
      fun ht => ?_⟩
    · exact congrArg Host.Outcome.next (hrow _ ht)
    · exact congrArg Host.Outcome.next (hrow _ ht)
    · exact congrArg Host.Outcome.next (hrow _ ht)
    · exact congrArg Host.Outcome.next (hrow _ ht)
    · exact congrArg Host.Outcome.next ((hrow _ ht).trans (congrArg fin ((if_neg (not_not.mpr he)).trans (if_neg hs))))
    · exact congrArg Host.Outcome.next (hrow _ ht)
    · exact congrArg Host.Outcome.next (hrow _ ht)
    · exact congrArg Host.Outcome.next (hrow _ ht)
    · exact congrArg Host.Outcome.next (hrow _ ht)
  · have hrow : ∀ (typ : Nat) (f : WHdr → Bytes → State → State), s.frameRow p.toNat typ fr bad (s.onFrame p.toNat typ fr bad f)
        = (s.afterPort (if (u.flink p.toNat).rxLsn != (s.flink p.toNat).rxLsn then u.wake else u) p.toNat).settle := fun typ f => by
      rw [State.onFrame_drop hr, State.frameRow_drop hr]
    refine ⟨_, ?_, congrArg Host.Outcome.next (hrow _ _), congrArg Host.Outcome.next (hrow _ _), congrArg Host.Outcome.next (hrow _ _),
      congrArg Host.Outcome.next (hrow _ _), congrArg Host.Outcome.next (hrow _ _)⟩
    split
    · exact .inr rfl
    · exact .inl rfl
  · exact congrArg (fun t : State => Host.Outcome.next t.wake.settle) (State.mcastDetach_none hm)
  · exact congrArg (fun t : State => Host.Outcome.next t.wake.settle) (State.mcastDetach_open hm hw)
  · exact congrArg (fun t : State => Host.Outcome.next t.wake.settle) (State.mcastDetach_shut hm hw ht)
/-! ## Frames of collectives -/

theorem State.onColl_acts {p typ : Nat} {fr pay : Bytes} {bad : Bool} {h : WHdr} (hr : s.receive p fr bad = .got h pay u) (ht : h.typ = typ)
    (hb : u.collBad h (CHdr.read pay) pay = none)
    (hm : (u.collMembers (h.ep - 0xF000)).isEmpty = false)
    (hn : u.noState h (CHdr.read pay) ((CHdr.read pay).root, (CHdr.read pay).rform, h.ep - 0xF000, (CHdr.read pay).seq) = false)
    (f : WHdr → CHdr → CKey → Bytes → State → State) :
    s.onColl p typ fr bad f = f h (CHdr.read pay) ((CHdr.read pay).root, (CHdr.read pay).rform, h.ep - 0xF000, (CHdr.read pay).seq) pay
      (u.consumed p h) := by
  rw [State.onColl, State.onFrame_got hr ht]
  dsimp only
  rw [hb]
  exact (if_neg (ne_true_of_eq_false hm)).trans (if_neg (ne_true_of_eq_false hn))

theorem State.onColl_refused {p typ r : Nat} {fr pay : Bytes} {bad : Bool} {h : WHdr} (hr : s.receive p fr bad = .got h pay u)
    (ht : h.typ = typ) (hb : u.collBad h (CHdr.read pay) pay = some r) (f : WHdr → CHdr → CKey → Bytes → State → State) :
    s.onColl p typ fr bad f = u.refuseFrame p r h := by
  rw [State.onColl, State.onFrame_got hr ht]
  dsimp only
  rw [hb]

/-- Settles O50. -/
theorem collectiveFramesAct : Obligations.CollectiveFramesAct := by
  intro p fr bad h pay s u hr c k v fin acts
  have hrow : ∀ {typ : Nat} (f : WHdr → CHdr → CKey → Bytes → State → State) (row : Sys2Proof.Instr), h.typ = typ →
      exec row s = .next (s.frameRow p.toNat typ fr bad (s.onColl p.toNat typ fr bad f)) → acts (f h c k pay v) row := fun f row ht he => by
    rw [State.frameRow_got hr ht] at he
    refine ⟨fun hb hm hn => ?_, fun r hb => ?_⟩
    · rw [he, State.onColl_acts hr ht hb hm hn]
    · rw [he, State.onColl_refused hr ht hb]
  exact ⟨fun ht => hrow (fun h c k pay s => s.rcExch h c k pay) _ ht rfl, fun ht => hrow (fun h c k pay s => s.rcUp h c k pay) _ ht rfl,
    fun ht => hrow (fun _ c k pay s => s.rcDown c k pay) _ ht rfl, fun ht => hrow (fun h c k pay s => s.redUp h c k pay) _ ht rfl,
    fun ht => hrow (fun h c k pay s => s.redDown h c k pay) _ ht rfl, fun ht => hrow (fun h c k pay s => s.noticeIn h c k pay) _ ht rfl,
    fun ht => hrow (fun h c k pay s => s.abortFrame h c k pay) _ ht rfl⟩
end Sys2Proof.Machine
end

section
/-! SUPPORT. Collectives: what ROLLCALL and BUCKET start, and the combined slots. -/

namespace Sys2Proof.Machine
variable {s t u v : State}

/-! ## Sorted lists hold the same elements -/

theorem insertBy_perm {α : Type} (key : α → Nat) (x : α) (l : List α) : List.Perm (insertBy key x l) (x :: l) := by
  induction l with
  | nil => exact .refl _
  | cons y r ih =>
    rw [insertBy]
    split
    · exact .refl _
    · exact (ih.cons y).trans (.swap x y r)

theorem sortBy_perm {α : Type} (key : α → Nat) (l : List α) : List.Perm (sortBy key l) l := by
  have hgen : ∀ acc, List.Perm (l.foldl (fun acc x => insertBy key x acc) acc) (l ++ acc) := by
    induction l with
    | nil => exact fun acc => .refl _
    | cons x r ih => exact fun acc => (ih _).trans (((insertBy_perm key x acc).append_left r).trans List.perm_middle)
  have h := hgen []
  rwa [List.append_nil] at h

/-! ## The combined slots of a roll call -/

theorem getD_range_map {n i : Nat} (f : Nat → Word) (h : i < n) : ((List.range n).map f).getD i 0 = f i := by
  simp [List.getD_eq_getElem?_getD, h]

theorem getD_replicate_zero {n i : Nat} : (List.replicate n (0 : Word)).getD i 0 = 0 := by
  by_cases h : i < n <;> simp [List.getD_eq_getElem?_getD, h]

theorem combine_unused {ops i : Nat} (hi : i < 8) (h : slotCode ops i = 0) (a b : List Word) : (combine ops a b).getD i 0 = 0 := by
  rw [combine, getD_range_map _ hi, h]
  rfl

theorem combine_add {ops i : Nat} (hi : i < 8) (h : slotCode ops i = 1) (a b : List Word) :
    (combine ops a b).getD i 0 = a.getD i 0 + b.getD i 0 := by
  rw [combine, getD_range_map _ hi, h]
  rfl

theorem foldl_combine_unused {ops i : Nat} (hi : i < 8) (h : slotCode ops i = 0) (l : List (List Word)) {a : List Word}
    (ha : a.getD i 0 = 0) : (l.foldl (combine ops) a).getD i 0 = 0 :=
  List.foldlRecOn l _ (motive := fun a => a.getD i 0 = 0) ha fun a _ b _ => combine_unused hi h a b

theorem foldl_combine_add {ops i : Nat} (hi : i < 8) (h : slotCode ops i = 1) (l : List (List Word)) (a : List Word) :
    (l.foldl (combine ops) a).getD i 0 = a.getD i 0 + (l.map fun p => p.getD i 0).sum := by
  induction l generalizing a with
  | nil => simp
  | cons b l ih => rw [List.foldl_cons, ih, combine_add hi h, List.map_cons, List.sum_cons, add_assoc]

/-- The sum of a slot over the contributions, in the order in which they are combined. -/
theorem combineAll_eq (ops : Nat) (parts : List (Nat × List Word)) : ∃ l, List.Perm l (parts.map Prod.snd) ∧
    combineAll ops parts = match l with
      | [] => List.replicate 8 0
      | p :: r => r.foldl (combine ops) (maskSlots ops p) :=
  ⟨_, (sortBy_perm Prod.fst parts).map Prod.snd, rfl⟩

/-- Settles O49. -/
theorem rollCallAddsSlots : Obligations.RollCallAddsSlots := by
  intro ops i parts hi hlen
  obtain ⟨l, hl, he⟩ := combineAll_eq ops parts
  rw [he]
  refine ⟨fun h => ?_, fun h => ?_⟩
  · cases l with
    | nil => exact getD_replicate_zero
    | cons p r => exact foldl_combine_unused hi h r (by rw [maskSlots, getD_range_map _ hi, h]; rfl)
  · have hsum : (parts.map fun p => p.2.getD i 0).sum = (l.map fun p => p.getD i 0).sum := by
      rw [(hl.map fun p => p.getD i 0).sum_eq, List.map_map]
      rfl
    rw [hsum]
    cases l with
    | nil => exact getD_replicate_zero
    | cons p r =>
      refine (foldl_combine_add hi h r _).trans ?_
      rw [maskSlots, getD_range_map _ hi, h]
      rfl

/-! ## ROLLCALL and BUCKET -/

theorem State.rollcall_refused {q : Nat} {c : Cmd} {tag : Option EntTag} {e : Ev} (hi : s.issuedTo q 0x40 = some (c, tag))
    (h : s.groupRefusal c = some e ∨ (s.groupRefusal c = none ∧ s.rollIllegal c = true ∧ e = evRclIllegal)) :
    s.rollcall q = s.refuseColl q e c := by
  rw [State.rollcall, hi]
  dsimp only
  rcases h with h | ⟨h, hr, rfl⟩
  · rw [h]
  · rw [h]
    exact if_pos hr

theorem State.bucket_refused {q : Nat} {c : Cmd} {tag : Option EntTag} {e : Ev} (hi : s.issuedTo q 0x41 = some (c, tag))
    (h : s.groupRefusal c = some e ∨ (s.groupRefusal c = none ∧ s.bucketIllegal c = true ∧ e = evRclIllegal)) :
    s.bucket q = s.refuseColl q e c := by
  rw [State.bucket, hi]
  dsimp only
  rcases h with h | ⟨h, hr, rfl⟩
  · rw [h]
  · rw [h]
    exact if_pos hr

theorem State.rollcall_passed {q : Nat} {c : Cmd} {tag : Option EntTag} (hi : s.issuedTo q 0x40 = some (c, tag))
    (hg : s.groupRefusal c = none) (hl : s.rollIllegal c = false) (hb : s.t0Bad (s.t0Scratch + rSrc c) 64 = false) :
    s.rollcall q = if s.rollsFull c then s else (s.acceptCmd q false).startRoll (some q) c
      ((List.range 8).map fun i => word (leAt (s.t0Read (s.t0Scratch + rSrc c) 64) (8 * i) 8)) := by
  rw [State.rollcall, hi]
  dsimp only
  rw [hg]
  exact (if_neg (ne_true_of_eq_false hl)).trans (if_neg (ne_true_of_eq_false hb))

theorem State.bucket_passed {q : Nat} {c : Cmd} {tag : Option EntTag} (hi : s.issuedTo q 0x41 = some (c, tag))
    (hg : s.groupRefusal c = none) (hl : s.bucketIllegal c = false)
    (hb : bSrcT1 c = true ∨ s.t0Bad (s.t0Staging + bSrcAddr c) (4 * bCount c) = false) :
    s.bucket q = if 64 ≤ s.collsOf true ∧ !s.keyHeld c ((s.coordOfNode (bRoot c)).getD 0) (bRootForm c) then s
      else (s.acceptCmd q false).startBucket q c ((s.coordOfNode (bRoot c)).getD 0) := by
  have hsrc : (!bSrcT1 c && s.t0Bad (s.t0Staging + bSrcAddr c) (4 * bCount c)) = false := by
    rcases hb with hb | hb
    · rw [hb]; rfl
    · rw [hb, Bool.and_false]
  rw [State.bucket, hi]
  dsimp only
  rw [hg]
  exact (if_neg (ne_true_of_eq_false hl)).trans (if_neg (ne_true_of_eq_false hsrc))

/-- Settles O48: that collectives are counted per form, and that a key in progress already is joined, is the model's choice (log 91). -/
theorem collectivesStartOrRefuse : Obligations.CollectivesStartOrRefuse := by
  intro q c tag s root
  refine ⟨fun hi hg hl hb => ⟨fun hf => ?_, fun hf => ?_⟩, fun hi hg hl hb => ⟨fun hk => ?_, fun hn hk => ?_⟩, fun e row h => ?_⟩
  · refine congrArg (fun t : State => Host.Outcome.next t.settle) ((State.rollcall_passed hi hg hl hb).trans (if_neg (ne_true_of_eq_false hf)))
  · refine congrArg (fun t : State => Host.Outcome.next t.settle) ((State.rollcall_passed hi hg hl hb).trans (if_pos hf))
  · refine congrArg (fun t : State => Host.Outcome.next t.settle) ((State.bucket_passed hi hg hl hb).trans (if_neg ?_))
    rintro ⟨hn, hk'⟩
    rcases hk with hk | hk
    · exact absurd hn (Nat.not_le.mpr hk)
    · rw [hk] at hk'
      cases hk'
  · refine congrArg (fun t : State => Host.Outcome.next t.settle) ((State.bucket_passed hi hg hl hb).trans (if_pos ⟨hn, ?_⟩))
    rw [hk]
    rfl
  · have hrow : exec row s = .next (s.refuseColl q.toNat e c).settle := by
      rcases h with ⟨rfl, hi, hr⟩ | ⟨rfl, hi, hr⟩
      · exact congrArg (fun t : State => Host.Outcome.next t.settle) (State.rollcall_refused hi hr)
      · exact congrArg (fun t : State => Host.Outcome.next t.settle) (State.bucket_refused hi hr)
    refine ⟨hrow, fun hc hl => ?_⟩
    obtain ⟨hrun, hcode, -, hf⟩ := State.logEv_stopQueue hl e (rclErr (rGroup c) q.toNat)
    have hcalm : (s.refuseColl q.toNat e c).calm := by
      rw [State.refuseColl, hf]
      exact hc.congr rfl rfl rfl
    refine ⟨_, hrow, ?_⟩
    rw [hcalm.settle]
    refine ⟨hrun, hcode, ?_⟩
    rw [State.refuseColl, hf]
    exact ⟨rfl, rfl, rfl, rfl⟩
end Sys2Proof.Machine
end

section
/-! SUPPORT. Recoveries, the scrub, and the error unit's controls. -/

namespace Sys2Proof.Machine
variable {s t u v : State}

/-! ## Recoveries -/

/-- What an attempt's result makes of a recovery that has a source and is not being written back. -/
theorem State.sourceDone_eq {id : Nat} {r : Recovery} {ok : Bool} {tile : Bytes} (hr : s.recovery id = some r) (hs : r.source ≠ 0)
    (hw : r.writing = false) :
    s.sourceDone id ok tile = match s.sourceResult r ok tile with
      | (none, s) => s
      | (some g, s) =>
        if r.stopped then (match r.rd.tile with
          | .locker l _ => (s.dropRecov r.id).settleLkr l
          | _ => s.dropRecov r.id)
        else if r.source = 6 then s.repairFetched r g
        else if State.recovFits r.rd g then s.recovered r g
        else s.nextSource r := by
  have hid : r.id = id := beq_iff_eq.mp (List.find?_some (p := fun r : Recovery => r.id == id) hr)
  rw [State.sourceDone, hr, hid]
  exact if_neg (by rw [hw]; simp [hs])

theorem State.sourceDone_none {id : Nat} {ok : Bool} {tile : Bytes} (hr : s.recovery id = none) : s.sourceDone id ok tile = s := by
  rw [State.sourceDone, hr]

theorem State.sourceDone_idle {id : Nat} {r : Recovery} {ok : Bool} {tile : Bytes} (hr : s.recovery id = some r)
    (h : r.source = 0 ∨ r.writing = true) : s.sourceDone id ok tile = s := by
  rw [State.sourceDone, hr]
  exact if_pos h

/-! ## The scrub -/

/-- The two states agree in everything but registers and the error unit. -/
def State.sameButErr (s t : State) : Prop := t = { s with regs := t.regs, err := t.err }

theorem State.sameButErr.trans (h : s.sameButErr t) (h' : t.sameButErr u) : s.sameButErr u := by
  rw [State.sameButErr, h', h]

theorem State.sameButLog.err (h : s.sameButLog t) : s.sameButErr t := by rw [State.sameButErr, h]

theorem State.scrubCorrected_frame (s : State) (g : Nat) : s.sameButErr (s.scrubCorrected g) := by
  unfold State.scrubCorrected
  extract_lets u u' ms
  have hu : s.sameButErr u := by
    unfold u
    split <;> rfl
  have hu' : s.sameButErr u' := hu.trans (u := u') rfl
  split
  · exact hu'
  · exact (hu'.trans (u := { u' with err := { u'.err with ceLogged := Tab.put u'.err.ceLogged g ms } }) rfl).trans (State.logEv_frame _ _ _).err

theorem State.sramRead_eq {a : Sys2Proof.SramAt} {bits : BitVec 2} (hb : bits ≠ 0) (hp : a ≠ .peer)
    (hc : ∀ v, a = .cloak v → v.toNat < cloakMiB s.part.set * 131072) :
    s.sramRead a bits.toNat = if bits.toNat = 1 then s.scrubCorrected (s.sramGroup a) else s.sramLost a := by
  have h0 : bits.toNat ≠ 0 := fun h => hb (BitVec.eq_of_toNat_eq h)
  unfold State.sramRead
  cases a with
  | cloak w => exact if_neg (by simp [h0, hc w rfl])
  | peer => exact absurd rfl hp
  | _ => exact if_neg (by simp [h0])

/-- Settles O52: that one row carries the errors of the other arrays (log 73), the word of a peer (log 83) and what ends a recovery
(log 48) are the model's choice. -/
theorem recoveryAndScrub : Obligations.RecoveryAndScrub := by
  refine ⟨fun i ok tile s => ?recov, fun w bits s => ?scrub⟩
  case recov =>
    have hgo : ∀ {t : State}, s.sourceDone i.toNat ok tile = t → exec (.recoverySourceDone i ok tile) s = .next t.stir.settle := fun h =>
      congrArg (fun t : State => Host.Outcome.next t.stir.settle) h
    refine ⟨fun hr => hgo (State.sourceDone_none hr), fun r hr h => hgo (State.sourceDone_idle hr h), fun r u hr hs hw hres => ?_,
      fun r g u hr hs hw hres => ?_⟩
    · refine hgo ((State.sourceDone_eq hr hs hw).trans ?_)
      rw [hres]
    · have he := State.sourceDone_eq (ok := ok) (tile := tile) hr hs hw
      rw [hres] at he
      dsimp only at he
      refine ⟨fun h => hgo ?_, fun h h6 => hgo ?_, fun h h6 hf => hgo ?_, fun h h6 hf => hgo ?_⟩
      · exact he.trans (if_pos h)
      · rw [he, h, if_neg Bool.false_ne_true, if_pos h6]
      · rw [he, h, if_neg Bool.false_ne_true, if_neg h6, if_pos hf]
      · rw [he, h, if_neg Bool.false_ne_true, if_neg h6, hf]
        rfl
  case scrub =>
    have hsram : ∀ (a : Sys2Proof.SramAt) (bits : BitVec 2), (∀ v, a ≠ .scrub v) →
        exec (.scrubRead a bits) s = .next (s.sramRead a bits.toNat).settle := fun a bits h => by
      cases a with
      | scrub w => exact absurd rfl (h w)
      | _ => rfl
    refine ⟨fun h => ?_, fun hs hw hb => ?_, fun hs hw hb => ?_, fun a hb hp hsc hc => ⟨fun h1 => ?_, fun h1 => ?_⟩, fun hb => ⟨?_, ?_⟩⟩
    · refine congrArg Host.Outcome.next (if_pos ?_)
      rcases h with h | h | h
      · exact .inl h
      · exact .inr (.inr (by rw [h]; rfl))
      · exact .inr (.inl h)
    · refine congrArg Host.Outcome.next ((if_neg ?_).trans (if_neg (by omega)))
      rintro (h | h | h)
      · exact hs h
      · exact absurd h (Nat.not_le.mpr hw)
      · omega
    · have hb1 : bits.toNat = 1 := by rw [hb]; rfl
      have hf := s.scrubCorrected_frame (s.bankOf (8 * w.toNat))
      refine ⟨_, congrArg Host.Outcome.next ((if_neg ?_).trans (if_pos hb1)), rfl, hf, by rw [hf], by rw [hf]⟩
      rintro (h | h | h)
      · exact hs h
      · exact absurd h (Nat.not_le.mpr hw)
      · omega
    · rw [hsram a bits hsc, State.sramRead_eq hb hp hc, if_pos (by rw [h1]; rfl)]
    · rw [hsram a bits hsc, State.sramRead_eq hb hp hc, if_neg fun h : bits.toNat = 1 => h1 (BitVec.eq_of_toNat_eq h)]
    · have h1 : ¬ (bits.toNat = 0 ∨ (bits.toNat == 1) = true) := by
        rw [beq_iff_eq]
        omega
      exact congrArg (fun t : State => Host.Outcome.next t.settle) ((if_neg h1).trans (if_neg (by omega)))
    · simp [State.runAllowed]

/-! ## The error unit's controls -/

/-- A cause of a common abort, where none waits, is carried out at once. -/
theorem State.causeAbort_abortDue (h : s.err.due = none) (e : Ev) (low : Nat) :
    (s.causeAbort e low).abortDue = (s.logEv e low).startAbort e.code := by
  have hl := s.logEv_frame e low
  unfold State.causeAbort
  dsimp only
  generalize s.logEv e low = l at hl ⊢
  have hd : l.err.due = none := by rw [hl]; exact h
  have hb : ({ l with err := { l.err with due := none } } : State) = l := by rw [← hd]
  have hc : l.err.due.getD e.code = e.code := by rw [hd]; rfl
  rw [hc]
  exact congrArg (State.startAbort · e.code) hb

/-- Settles O53. -/
theorem softwareAbortAndRearm : Obligations.SoftwareAbortAndRearm := by
  intro s
  refine ⟨fun hst hd => ?_, fun hst hd => ?_, rfl, rfl⟩
  · have he : s.swAbort = s := if_pos hst
    refine congrArg Host.Outcome.next ?_
    rw [he, State.abortDue, hd]
  · have he : s.swAbort = s.causeAbort evSwAbort 0 := if_neg hst
    refine congrArg Host.Outcome.next ?_
    rw [he, State.causeAbort_abortDue hd]
end Sys2Proof.Machine
end

section
/-! SUPPORT. The SPDM responder: what a response leaves alone, and the rows of the requests. -/

namespace Sys2Proof.Machine
variable {s t u v : State}

/-! ## Responses -/

theorem State.sameButMbox.trans (h : s.sameButMbox t) (h' : t.sameButMbox u) : s.sameButMbox u := by
  rw [State.sameButMbox, h', h]

/-- A response is in the mailbox: the registers of the mailbox and its length and flags change, and the transcript. -/
def State.Answered (s t : State) : Prop :=
  s.sameButMbox t ∧ ∃ tr n, t.sec = { s.sec with transcript := tr, mboxRespLen := n, mboxReady := true, mboxBusy := false }

theorem State.mboxPut_eq (s : State) (b : Bytes) :
    s.mboxPut b = s.fillRegs aSecMboxData (fun i => word (leAt b (8 * i) 8)) ((b.length + 7) / 8) := rfl

theorem State.mboxAnswer_eq (s : State) (b : Bytes) : s.mboxAnswer b = { s with
    regs := (s.mboxPut (b.take 4096)).regs
    sec := { s.sec with mboxRespLen := (b.take 4096).length, mboxReady := true, mboxBusy := false } } := by
  have h := s.fillRegs_frame aSecMboxData (fun i => word (leAt (b.take 4096) (8 * i) 8)) (((b.take 4096).length + 7) / 8)
  rw [← State.mboxPut_eq] at h
  unfold State.mboxAnswer
  dsimp only
  generalize s.mboxPut (b.take 4096) = m at h ⊢
  rw [h]

theorem State.answered_mboxAnswer (s : State) (b : Bytes) : s.Answered (s.mboxAnswer b) := by
  rw [State.mboxAnswer_eq]
  exact ⟨rfl, s.sec.transcript, _, rfl⟩

theorem State.answered_replyError (s : State) (code : Nat) (sec : Bool) : s.Answered (s.replyError code sec) := s.answered_mboxAnswer _

theorem State.answered_reply (s : State) (msg : Bytes) (code p1 p2 : Nat) (data : Bytes) (sec : Bool) :
    s.Answered (s.reply msg code p1 p2 data sec) := by
  unfold State.reply
  dsimp only
  rw [State.mboxAnswer_eq]
  exact ⟨rfl, _, _, rfl⟩

/-- A response after the security unit and the count of free values have changed. -/
theorem State.Answered.after {n : Nat} {x : SecSt} (h : ({ s with free := n, sec := x } : State).Answered t) :
    s.sameButMbox t ∧ t.sec.session = x.session ∧ t.sec.sessionUp = x.sessionUp ∧ t.sec.chain = x.chain ∧ t.sec.negotiated = x.negotiated := by
  obtain ⟨hf, tr, m, hs⟩ := h
  refine ⟨State.sameButMbox.trans (t := { s with free := n, sec := x }) rfl hf, ?_⟩
  rw [hs]
  exact ⟨rfl, rfl, rfl, rfl⟩

/-! ## The rows -/

theorem State.spdmRow_plain {rq : Nat} {msg : Bytes} (hh : s.head = true) (hr : s.spdmRefused msg = none) (hq : spdmAt msg 1 1 = rq)
    (h1 : rq ≠ rqFinish) (h2 : rq ≠ rqEndSession) : s.spdmRow rq msg = s.spdmServe rq msg false := by
  have hrow : (s.head && spdmAt msg 1 1 == rq) = true := by rw [hh, beq_iff_eq.mpr hq]; rfl
  have hsec : (s.sec.session.isSome && (rq == rqFinish || rq == rqEndSession)) = false := by
    rw [beq_eq_false_iff_ne.mpr h1, beq_eq_false_iff_ne.mpr h2, Bool.or_false, Bool.and_false]
  rw [State.spdmRow, if_pos hrow, hsec, State.spdm, hr, hq]

theorem State.spdmRow_session {rq : Nat} {msg : Bytes} (hh : s.head = true) (hr : s.spdmRefused msg = none) (hq : spdmAt msg 1 1 = rq)
    (h : rq = rqFinish ∨ rq = rqEndSession) : s.spdmRow rq msg = s.spdmServe rq msg s.sec.session.isSome := by
  have hrow : (s.head && spdmAt msg 1 1 == rq) = true := by rw [hh, beq_iff_eq.mpr hq]; rfl
  have hsec : (s.sec.session.isSome && (rq == rqFinish || rq == rqEndSession)) = s.sec.session.isSome := by
    rcases h with rfl | rfl <;> exact Bool.and_true _
  rw [State.spdmRow, if_pos hrow, hsec, State.spdm, hr, hq]

theorem State.spdmRow_away {rq : Nat} {msg : Bytes} (hh : s.head = false) : s.spdmRow rq msg = s :=
  if_neg (by rw [hh]; exact Bool.false_ne_true)

/-- Before NEGOTIATE_ALGORITHMS the requests that come after it are answered by an ERROR. -/
theorem State.spdmServe_early {rq : Nat} {msg : Bytes} {sec : Bool} (hn : s.sec.negotiated = false) (h1 : rq ≠ rqGetVersion)
    (h2 : rq ≠ rqGetCapabilities) (h3 : rq ≠ rqNegotiate) : s.spdmServe rq msg sec = s.replyError erUnexpected sec := by
  rw [State.spdmServe, if_neg h1, if_neg h2, if_neg h3]
  exact if_pos (by rw [hn]; rfl)

/-- After it they are served by their own rules. -/
theorem State.spdmServe_late {rq : Nat} {msg : Bytes} {sec : Bool} (hn : s.sec.negotiated = true) (h1 : rq ≠ rqGetVersion)
    (h2 : rq ≠ rqGetCapabilities) (h3 : rq ≠ rqNegotiate) :
    s.spdmServe rq msg sec = if rq = rqGetDigests then s.getDigests msg sec
      else if rq = rqGetCertificate then s.getCertificate msg sec
      else if rq = rqChallenge then s.challenge msg sec
      else if rq = rqGetMeasurements then s.getMeasurements msg sec
      else if rq = rqKeyExchange then s.keyExchange msg
      else if rq = rqFinish then s.finishRq msg
      else if rq = rqEndSession then s.endSession msg
      else s.setCertificate msg sec := by
  rw [State.spdmServe, if_neg h1, if_neg h2, if_neg h3]
  exact if_neg (by rw [hn]; decide)

/-! ## The requests -/

theorem State.mbox_getDigests (s : State) (msg : Bytes) (sec : Bool) : s.sameButMbox (s.getDigests msg sec) := (s.answered_reply _ _ _ _ _ _).1

theorem State.mbox_getCertificate (s : State) (msg : Bytes) (sec : Bool) : s.sameButMbox (s.getCertificate msg sec) := by
  unfold State.getCertificate
  split
  · exact (s.answered_replyError _ _).1
  · exact (s.answered_reply _ _ _ _ _ _).1

theorem State.mbox_challenge (s : State) (msg : Bytes) (sec : Bool) : s.sameButMbox (s.challenge msg sec) := by
  unfold State.challenge
  split
  · exact (s.answered_replyError _ _).1
  · exact ((s.drawBytes 32).2.answered_reply _ _ _ _ _ _).after.1

theorem State.mbox_getMeasurements (s : State) (msg : Bytes) (sec : Bool) : s.sameButMbox (s.getMeasurements msg sec) := by
  unfold State.getMeasurements
  dsimp only
  split
  · exact (s.answered_replyError _ _).1
  · exact ((s.drawBytes 32).2.answered_reply _ _ _ _ _ _).after.1
theorem State.mbox_setCertificate (s : State) (msg : Bytes) : s.sameButMbox (s.setCertificate msg false)
    ∧ (s.setCertificate msg false).sec.session = s.sec.session
    ∧ (s.setCertificate msg false).sec.chain = if Config.certLeafKey (msg.drop 4) = s.sec.idKey
        ∧ digestBytes (sha384 (keyBytes (Config.certRootKey (msg.drop 4)))) = rootHash s.part.fuses then msg.drop 4 else s.sec.chain := by
  unfold State.setCertificate
  dsimp only
  split
  next h =>
    obtain ⟨hf, hs, -, hc, -⟩ := (s.answered_replyError erInvalid false).after (n := s.free) (x := s.sec)
    refine ⟨hf, hs, hc.trans (if_neg fun hg => ?_).symm⟩
    exact h.elim (fun h => h hg.1) fun h => h hg.2
  next h =>
    rw [not_or, not_not, not_not] at h
    obtain ⟨hf, hs, -, hc, -⟩ := ((s.modSec fun x => { x with chain := msg.drop 4 }).answered_reply msg (responseOf rqSetCertificate) 0 0 []
      false).after (s := s) (n := s.free) (x := { s.sec with chain := msg.drop 4 })
    exact ⟨hf, hs, hc.trans (if_pos h).symm⟩

theorem State.mbox_keyExchange (msg : Bytes) (h : s.sec.chain ≠ []) : s.sameButMbox (s.keyExchange msg)
    ∧ (s.keyExchange msg).sec.session.isSome = true ∧ (s.keyExchange msg).sec.sessionUp = false
    ∧ (s.keyExchange msg).sec.chain = s.sec.chain := by
  have hc : ¬ s.sec.chain.isEmpty = true := mt List.isEmpty_iff.mp h
  have he : s.keyExchange msg = ((s.drawKey.2.modSec fun x => { x with
      session := some (leNat (sharedSecret s.drawKey.1 (slice msg 40 96))), sessionUp := false }).reply msg (responseOf rqKeyExchange) 0 0
        (keyBytes (ecPublic s.drawKey.1) ++ s.drawKey.2.spdmSign msg (keyBytes (ecPublic s.drawKey.1))) false) := if_neg hc
  rw [he]
  obtain ⟨hf, hs, hu, hch, -⟩ := ((s.drawKey.2.modSec fun x => { x with
      session := some (leNat (sharedSecret s.drawKey.1 (slice msg 40 96))), sessionUp := false }).answered_reply msg
        (responseOf rqKeyExchange) 0 0
        (keyBytes (ecPublic s.drawKey.1) ++ s.drawKey.2.spdmSign msg (keyBytes (ecPublic s.drawKey.1))) false).after (s := s)
  exact ⟨hf, by rw [hs]; rfl, hu, hch⟩

theorem State.mbox_finishRq {k : Nat} (msg : Bytes) (hs : s.sec.session = some k) (hu : s.sec.sessionUp = false) :
    s.sameButMbox (s.finishRq msg) ∧ (s.finishRq msg).sec.session = some k ∧ (s.finishRq msg).sec.sessionUp = Config.spdmAuth k msg := by
  unfold State.finishRq
  rw [hs]
  dsimp only
  rw [hu, if_neg Bool.false_ne_true]
  cases ha : Config.spdmAuth k msg with
  | false =>
    obtain ⟨hf, hs', hu', -⟩ := (s.answered_replyError erInvalid true).after (n := s.free) (x := s.sec)
    exact ⟨hf, hs'.trans hs, hu'.trans hu⟩
  | true =>
    obtain ⟨hf, hs', hu', -⟩ := ((s.modSec fun x => { x with sessionUp := true }).answered_reply msg (responseOf rqFinish) 0 0 []
      true).after (s := s) (n := s.free) (x := { s.sec with sessionUp := true })
    exact ⟨hf, hs'.trans hs, hu'⟩

theorem State.mbox_endSession (msg : Bytes) (hs : s.sec.session.isSome = true) : s.sameButMbox (s.endSession msg)
    ∧ (s.endSession msg).sec.session = none ∧ (s.endSession msg).sec.sessionUp = false ∧ (s.endSession msg).sec.chain = s.sec.chain := by
  have he : s.endSession msg = (s.reply msg (responseOf rqEndSession) 0 0 [] true).modSec fun x =>
      { x with session := none, sessionUp := false } := if_neg (by rw [Option.isNone_iff_eq_none]; intro h; rw [h] at hs; cases hs)
  obtain ⟨hf, -, -, hc, -⟩ := (s.answered_reply msg (responseOf rqEndSession) 0 0 [] true).after (n := s.free) (x := s.sec)
  rw [he]
  exact ⟨hf.trans rfl, rfl, rfl, hc⟩

/-- A request that needs the negotiation closed, served by its own rule once it is. -/
theorem State.spdmRow_late {rq : Nat} {msg : Bytes} (hh : s.head = true) (hr : s.spdmRefused msg = none) (hn : s.sec.negotiated = true)
    (hq : spdmAt msg 1 1 = rq) (h1 : rq ≠ rqGetVersion ∧ rq ≠ rqGetCapabilities ∧ rq ≠ rqNegotiate)
    (h2 : rq ≠ rqFinish ∧ rq ≠ rqEndSession) :
    s.spdmRow rq msg = if rq = rqGetDigests then s.getDigests msg false
      else if rq = rqGetCertificate then s.getCertificate msg false
      else if rq = rqChallenge then s.challenge msg false
      else if rq = rqGetMeasurements then s.getMeasurements msg false
      else if rq = rqKeyExchange then s.keyExchange msg
      else s.setCertificate msg false := by
  rw [State.spdmRow_plain hh hr hq h2.1 h2.2, State.spdmServe_late hn h1.1 h1.2.1 h1.2.2, if_neg h2.1, if_neg h2.2]

/-- The same request before. -/
theorem State.spdmRow_early {rq : Nat} {msg : Bytes} (hh : s.head = true) (hr : s.spdmRefused msg = none) (hn : s.sec.negotiated = false)
    (hq : spdmAt msg 1 1 = rq) (h1 : rq ≠ rqGetVersion ∧ rq ≠ rqGetCapabilities ∧ rq ≠ rqNegotiate)
    (h2 : rq ≠ rqFinish ∧ rq ≠ rqEndSession) : s.spdmRow rq msg = s.replyError erUnexpected false := by
  rw [State.spdmRow_plain hh hr hq h2.1 h2.2, State.spdmServe_early hn h1.1 h1.2.1 h1.2.2]

/-- The ERROR response in plain text: four bytes in the first word of the mailbox. -/
theorem State.replyError_plain (s : State) (e : Nat) : s.replyError e false = { s with
    regs := (s.mboxPut [0x13, 0x7F, BitVec.ofNat 8 e, 0]).regs
    sec := { s.sec with mboxRespLen := 4, mboxReady := true, mboxBusy := false } } := s.mboxAnswer_eq _

theorem State.reg_replyError_plain (e : Nat) (hw : Tab.wf s.regs = true) :
    (s.replyError e false).reg aSecMboxData = word (leNat [0x13, 0x7F, BitVec.ofNat 8 e, 0]) := by
  have h := State.reg_fillRegs_same (s := s) aSecMboxData (fun i => word (leAt [0x13, 0x7F, BitVec.ofNat 8 e, 0] (8 * i) 8)) (n := 1) (i := 0)
    hw Nat.one_pos
  have hl : leAt [0x13, 0x7F, BitVec.ofNat 8 e, 0] (8 * 0) 8 = leNat [0x13, 0x7F, BitVec.ofNat 8 e, 0] := rfl
  rw [hl] at h
  rw [State.replyError_plain, State.reg]
  have hp : s.mboxPut [0x13, 0x7F, BitVec.ofNat 8 e, 0] = s.fillRegs aSecMboxData
      (fun i => word (leAt [0x13, 0x7F, BitVec.ofNat 8 e, 0] (8 * i) 8)) 1 := by
    rw [State.mboxPut_eq]
    simp only [List.length_cons, List.length_nil, Nat.reduceAdd, Nat.reduceDiv]
  rw [hp]
  exact h

theorem State.unsupported_refused {e : Nat} {msg : Bytes} (hh : s.head = true) (hr : s.spdmRefused msg = some e) :
    s.unsupported msg = s.replyError e false := by rw [State.unsupported, hh, hr]

theorem State.unsupported_idle {msg : Bytes} (h : s.head = false ∨ s.spdmRefused msg = none) : s.unsupported msg = s := by
  rw [State.unsupported]
  rcases h with h | h
  · rw [h]
  · cases hh : s.head <;> rw [h]

/-- Settles O54: the request codes, their order and the ERROR codes are the model's choice (log 53). -/
theorem spdmResponder : Obligations.SpdmResponder := by
  refine ⟨⟨fun msg s hh hr => ?initial, fun msg s hh => ⟨congrArg _ (State.spdmRow_away hh), congrArg _ (State.spdmRow_away hh)⟩⟩,
    fun msg s hh hr hn => ?second, fun msg s => ⟨fun e hh hr hw => ?_, fun h => congrArg _ (State.unsupported_idle h)⟩⟩
  case initial =>
    have plain : ∀ {q : Nat}, spdmAt msg 1 1 = q → q ≠ rqFinish → q ≠ rqEndSession → s.spdmRow q msg = s.spdmServe q msg false :=
      fun hq => State.spdmRow_plain hh hr hq
    have error := (s.answered_replyError erUnexpected false).1
    refine ⟨fun hq => ⟨congrArg _ (plain hq (by decide) (by decide)), ?_⟩, fun hq => ⟨congrArg _ (plain hq (by decide) (by decide)), ?_⟩,
      fun hq => ⟨⟨congrArg _ (plain hq (by decide) (by decide)), ?_⟩, ?_⟩,
      fun hn hq => ⟨congrArg _ (State.spdmRow_late hh hr hn hq (by decide) (by decide)), s.mbox_getDigests msg false⟩,
      fun hn hq => ⟨congrArg _ (State.spdmRow_late hh hr hn hq (by decide) (by decide)), s.mbox_getCertificate msg false⟩,
      fun hn hq => ⟨congrArg _ (State.spdmRow_late hh hr hn hq (by decide) (by decide)), s.mbox_challenge msg false⟩,
      fun hn hq => ⟨congrArg _ (State.spdmRow_late hh hr hn hq (by decide) (by decide)), s.mbox_getMeasurements msg false⟩,
      fun hn => ⟨fun hq => ⟨congrArg _ (State.spdmRow_early hh hr hn hq (by decide) (by decide)), error⟩,
        fun hq => ⟨congrArg _ (State.spdmRow_early hh hr hn hq (by decide) (by decide)), error⟩,
        fun hq => ⟨congrArg _ (State.spdmRow_early hh hr hn hq (by decide) (by decide)), error⟩,
        fun hq => ⟨congrArg _ (State.spdmRow_early hh hr hn hq (by decide) (by decide)), error⟩⟩⟩
    · exact ((s.modSec _).answered_reply _ _ _ _ _ _).after.1
    · exact (s.answered_reply _ _ _ _ _ _).1
    · exact ((s.modSec _).answered_reply _ _ _ _ _ _).after.1
    · exact ((s.modSec _).answered_reply _ _ _ _ _ _).after.2.2.2.2
  case second =>
    refine ⟨fun hq => ⟨_, congrArg Host.Outcome.next (State.spdmRow_late hh hr hn hq (by decide) (by decide)), s.mbox_setCertificate msg⟩,
      fun hq hc => ⟨_, congrArg Host.Outcome.next (State.spdmRow_late hh hr hn hq (by decide) (by decide)), s.mbox_keyExchange msg hc⟩,
      fun hq hc => congrArg Host.Outcome.next ((State.spdmRow_late hh hr hn hq (by decide) (by decide)).trans (if_pos (List.isEmpty_iff.mpr hc))),
      fun k hq hs hu => ⟨_, congrArg Host.Outcome.next ((State.spdmRow_session hh hr hq (.inl rfl)).trans
        (State.spdmServe_late hn (by decide) (by decide) (by decide))), s.mbox_finishRq msg hs hu⟩,
      fun hq hs => ⟨_, congrArg Host.Outcome.next ((State.spdmRow_session hh hr hq (.inr rfl)).trans
        (State.spdmServe_late hn (by decide) (by decide) (by decide))), s.mbox_endSession msg hs⟩,
      fun hs => ⟨fun hq => ?_, fun hq => ?_⟩⟩
    · refine congrArg Host.Outcome.next ((State.spdmRow_session hh hr hq (.inl rfl)).trans ?_)
      rw [hs]
      refine (State.spdmServe_late hn (by decide) (by decide) (by decide)).trans ?_
      change s.finishRq msg = _
      rw [State.finishRq, hs]
    · refine congrArg Host.Outcome.next ((State.spdmRow_session hh hr hq (.inr rfl)).trans ?_)
      rw [hs]
      exact (State.spdmServe_late hn (by decide) (by decide) (by decide)).trans (if_pos (Option.isNone_iff_eq_none.mpr hs))
  · refine ⟨_, congrArg Host.Outcome.next (State.unsupported_refused hh hr), ?_, State.reg_replyError_plain e hw, ?_⟩
    · rw [State.replyError_plain]
    · rw [State.replyError_plain]
end Sys2Proof.Machine
end

section
/-! SUPPORT. The domain key, RESTORE and EXPORT, a zeroisation and the sideband. -/

namespace Sys2Proof.Machine
variable {s t : State}

/-! ## Bytes and port messages -/

theorem leNat_lt (b : Bytes) : leNat b < 256 ^ b.length := by
  induction b with
  | nil => exact Nat.one_pos
  | cons x xs ih =>
    rw [leNat, List.length_cons, Nat.pow_succ]
    have := x.isLt
    omega

theorem leAt_lt (b : Bytes) (off n : Nat) : leAt b off n < 256 ^ n := by
  have h := leNat_lt (slice b off n)
  rwa [length_slice] at h

/-! ## The domain key -/

/-- The messages by which the head form passes on a key message. -/
def State.domainSent (s : State) (msg : Bytes) : List PortOut :=
  if s.head = true then (List.range (s.forms - 1)).map fun i => PortOut.domain (i + 1) msg else []

theorem State.sendDomain_eq (s : State) (msg : Bytes) : s.sendDomain msg = { s with out := s.out ++ s.domainSent msg } := by
  rw [State.sendDomain, State.domainSent]
  cases s.head with
  | false => exact congrArg (fun o => { s with out := o }) (List.append_nil _).symm
  | true => exact State.foldl_emit _ _ _

theorem State.domainMsg_refused {op : Nat} {msg : Bytes} (h : leAt msg 0 1 ≠ op ∨ (s.head = true ∧ s.sec.sessionUp = false)
    ∨ s.secBusyNow = true ∨ s.domainOk msg = false) : s.domainMsg op msg = s.logEv evSecDomain 0 := by
  refine if_pos (h.imp_right (Or.imp (fun h => ?_) (Or.imp_right fun h => ?_)))
  · rw [h.1, h.2]
    rfl
  · rw [h]
    rfl

theorem State.domainMsg_admitted {op : Nat} {msg : Bytes} (hop : leAt msg 0 1 = op) (hu : s.sec.sessionUp = true)
    (hb : s.secBusyNow = false) (hd : s.domainOk msg = true) : s.domainMsg op msg = if op = 1
      then (s.sendDomain msg).setDomain (some (BitVec.ofNat 256 (leAt msg 0x20 32), BitVec.ofNat 128 (leAt msg 0x10 16)))
      else (s.sendDomain msg).setDomain none := by
  refine if_neg ?_
  rw [hu, hb, hd]
  rintro (h | h | h | h)
  · exact h hop
  · rw [Bool.not_true, Bool.and_false] at h
    cases h
  · cases h
  · cases h

theorem State.setDomain_some (k : BitVec 256) (d : BitVec 128) : s.setDomain (some (k, d)) =
    ((s.modSec fun x => { x with domain := some (k, d) }).setReg aSecDomain0 (word (d.toNat % 2 ^ 64))).setReg aSecDomain1 (word (d.toNat / 2 ^ 64)) :=
  rfl

theorem State.setDomain_none (s : State) : s.setDomain none =
    ((s.modSec fun x => { x with domain := none }).setReg aSecDomain0 (word 0)).setReg aSecDomain1 (word 0) := rfl

/-- The two halves of SEAL_DOMAIN after both have been written. -/
theorem State.reg_domain (hw : Tab.wf s.regs = true) (a b : Word) :
    ((s.setReg aSecDomain0 a).setReg aSecDomain1 b).reg aSecDomain0 = a ∧ ((s.setReg aSecDomain0 a).setReg aSecDomain1 b).reg aSecDomain1 = b :=
  ⟨(State.reg_setReg_ne _ _ (by decide)).trans (State.reg_setReg_same _ _ hw), State.reg_setReg_same _ _ (Tab.wf_put _ _ hw)⟩

/-- Settles O55. -/
theorem domainKeyNeedsSession : Obligations.DomainKeyNeedsSession := by
  refine fun msg s hw => ⟨fun hu hb hd => ⟨fun hop => ?_, fun hop => ?_⟩, fun h => congrArg _ (State.domainMsg_refused h),
    fun h => congrArg _ (State.domainMsg_refused h)⟩
  · have hlt : leAt msg 0x10 16 < 2 ^ 128 := leAt_lt msg 0x10 16
    refine ⟨_, congrArg Host.Outcome.next ((State.domainMsg_admitted hop hu hb hd).trans (if_pos rfl)), ?_⟩
    rw [State.sendDomain_eq, State.setDomain_some, BitVec.toNat_ofNat, Nat.mod_eq_of_lt hlt]
    have hd := State.reg_domain (s := s) hw (word (leAt msg 0x10 16 % 2 ^ 64)) (word (leAt msg 0x10 16 / 2 ^ 64))
    exact ⟨rfl, hd.1, hd.2, rfl⟩
  · refine ⟨_, congrArg Host.Outcome.next ((State.domainMsg_admitted hop hu hb hd).trans (if_neg (by decide))), ?_⟩
    rw [State.sendDomain_eq, State.setDomain_none]
    have hd := State.reg_domain (s := s) hw (word 0) (word 0)
    exact ⟨rfl, hd.1, hd.2, rfl⟩

/-! ## RESTORE and EXPORT -/

/-- The two states agree in everything but the registers and the Marker's state. -/
def State.sameButMarker (s t : State) : Prop := t = { s with regs := t.regs, mkr := t.mkr }

/-- Record `i` of the Marker's slot `tile`, whose head is record 0. -/
def State.takeRecord (tile : Nat) (g : TileGot) (s : State) (i : Nat) : State :=
  let n := 512 * tile + i
  let b := slice g.pay (64 * i) 64
  if n = 0 then ((s.setReg aMkrApplied (word (leAt b 0 8))).setReg aMkrStepDigest (word (leAt b 0x10 8)))
  else if s.mkPieces < n then s
  else { s with mkr := { s.mkr with recs := Tab.put s.mkr.recs (n - 1) (PieceRec.read b) } }

theorem State.markerHave_record (s : State) (p k : Nat) (run : Option Nat) (g : TileGot) :
    s.markerHave p 6 k run g = (List.range 512).foldl (State.takeRecord k g) s := if_pos rfl

theorem State.takeRecord_frame (k : Nat) (g : TileGot) (s : State) (i : Nat) : s.sameButMarker (State.takeRecord k g s i) := by
  unfold State.takeRecord
  dsimp only
  split_ifs <;> rfl

theorem State.foldl_takeRecord_frame (k : Nat) (g : TileGot) (l : List Nat) : s.sameButMarker (l.foldl (State.takeRecord k g) s) := by
  refine List.foldlRecOn _ _ (motive := s.sameButMarker) rfl fun t ht i _ => ?_
  rw [State.sameButMarker, State.takeRecord_frame k g t i, ht]

/-- A record slot of the Marker goes into its records and its two registers. -/
theorem State.markerHave_record_frame (s : State) (p k : Nat) (run : Option Nat) (g : TileGot) :
    s.sameButMarker (s.markerHave p 6 k run g) := by
  rw [State.markerHave_record]
  exact State.foldl_takeRecord_frame k g _

theorem State.mkPieces_of_frame (h : s.sameButMarker t) : t.mkPieces = s.mkPieces := by
  rw [h]
  rfl

theorem State.mkPieces_markerHave (s : State) (p k : Nat) (run : Option Nat) (g : TileGot) :
    (s.markerHave p 6 k run g).mkPieces = s.mkPieces := State.mkPieces_of_frame (s.markerHave_record_frame p k run g)

/-- The tile of record slot `k` that the restore `x` gives a Marker of `pieces` pieces. -/
def Restore.slotGot (x : Restore) (pieces k : Nat) : TileGot :=
  { ok := true, hdr := [], scales := [], pay := restoredSlot k x.epoch pieces (Tab.get x.kept k), coded := false }

theorem State.takeSlots_eq (x : Restore) (l : List Nat) (h : t.mkPieces = s.mkPieces) :
    l.foldl (fun t k => t.markerHave 0x3FFFF 6 k none (x.slotGot t.mkPieces k)) t
      = l.foldl (fun t k => t.markerHave 0x3FFFF 6 k none (x.slotGot s.mkPieces k)) t := by
  induction l generalizing t with
  | nil => rw [List.foldl_nil, List.foldl_nil]
  | cons k ks ih =>
    rw [List.foldl_cons, List.foldl_cons, h]
    exact ih ((State.mkPieces_markerHave _ _ _ _ _).trans h)

/-- The end of a restore once the Marker has its slots. -/
def State.restoreEnded (s : State) : State :=
  ({ s with mkr := { s.mkr with torn := false }, err := { s.err with restoreNeeded := false } } : State).logEv evRestored 0

theorem State.restoreComplete_of {x : Restore} (hx : s.rst = some x) (hl : x.last = true) (hw : x.writes = 0) :
    s.restoreComplete = State.restoreEnded ((List.range s.recSlots).foldl (fun t k => t.markerHave 0x3FFFF 6 k none (x.slotGot s.mkPieces k))
      (({ s with rst := none } : State).setReg aMkrRecEpoch (word x.epoch))) := by
  have hg : ¬((!x.last) = true ∨ x.writes ≠ 0) := by
    rw [hl, hw]
    rintro (h | h)
    · cases h
    · exact h rfl
  have he : s.restoreComplete = State.restoreEnded ((List.range s.recSlots).foldl (fun t k => t.markerHave 0x3FFFF 6 k none (x.slotGot t.mkPieces k))
      (({ s with rst := none } : State).setReg aMkrRecEpoch (word x.epoch))) := by
    rw [State.restoreComplete, hx]
    dsimp only
    rw [if_neg hg]
    rfl
  exact he.trans (congrArg State.restoreEnded (State.takeSlots_eq x _ rfl))

/-- Settles O56: that a START is refused while a RESTORE or an EXPORT runs is the model's choice (log 52). -/
theorem restoreAndExportRun : Obligations.RestoreAndExportRun := by
  refine ⟨fun s h => congrArg (fun t : State => Host.Outcome.next t.wake) (if_pos h), fun s ht hr => ?start, fun s hr => ?none, fun x s hx h => ?wait,
    fun x s hx hl hw => congrArg Host.Outcome.next (State.restoreComplete_of hx hl hw), fun v s => ?begin, fun s he => ?noExport, fun x s hx => ?done⟩
  case start =>
    refine congrArg (fun t : State => Host.Outcome.next t.wake) (if_neg ?_)
    rw [hr]
    rintro (h | h)
    · exact h ht
    · cases h
  case none =>
    show Host.Outcome.next s.restoreComplete = _
    rw [State.restoreComplete, hr]
  case wait =>
    show Host.Outcome.next s.restoreComplete = _
    rw [State.restoreComplete, hx]
    exact congrArg _ (if_pos (h.imp_left fun h => by rw [h]; rfl))
  case begin =>
    have busy : ((s.setF aSecExportCtrl 24 18 (fld v 24 18)).syl.isNone = true ∨ 3 ≤ s.mkr.phase ∨ s.rst.isSome = true ∨ s.tut.ckpt = true
        ∨ s.exp.isSome = true) ↔ (s.syl = none ∨ 3 ≤ s.mkr.phase ∨ s.rst.isSome = true ∨ s.tut.ckpt = true ∨ s.exp.isSome = true) :=
      or_congr_left Option.isNone_iff_eq_none
    have on : bitAt v 0 = true → ¬ (!bitAt v 0) = true := fun h => by rw [h]; exact Bool.false_ne_true
    exact ⟨fun h => congrArg Host.Outcome.next (if_pos (by rw [h]; rfl)),
      fun h hb => congrArg Host.Outcome.next ((if_neg (on h)).trans (if_pos (busy.mpr hb))),
      fun h hb => congrArg Host.Outcome.next ((if_neg (on h)).trans (if_neg (mt busy.mp hb)))⟩
  case noExport =>
    show Host.Outcome.next s.exportComplete = _
    rw [State.exportComplete, he]
  case done =>
    have he : s.exportComplete = if x.next < s.exportTiles x.piece ∨ x.writes ≠ 0 then s else { s with exp := none } := by
      rw [State.exportComplete, hx]
    exact ⟨fun h0 h1 => congrArg Host.Outcome.next (he.trans (if_neg (not_or.mpr ⟨Nat.not_lt.mpr h0, not_not.mpr h1⟩))),
      fun h => congrArg Host.Outcome.next (he.trans (if_pos h))⟩

/-! ## Zeroisation and the sideband -/

/-- What a zeroisation leaves, at the form where it starts and at the others. -/
theorem State.zeroised (s : State) (p : Part) :
    (s.coldReset p 3).reg aLkrEpoch = 1 ∧ (s.coldReset p 3).reg aMkrRecEpoch = 0 ∧ (s.coldReset p 3).regF aOfcResetCause 0 2 = 3 :=
  ⟨(s.reg_coldReset p 3 (by decide)).trans (regsReset_lkrEpoch _), (s.reg_coldReset p 3 (by decide)).trans (regsReset_mkrRecEpoch _),
    State.regF_setCause (by decide) (wf_regsReset _)⟩

theorem State.zeroise_head (hh : s.head = true) : s.zeroise = (s.sideband 2 none).coldReset s.part 3 := by
  rw [State.zeroise, if_pos hh, State.zeroiseHere, s.sideband_frame]

theorem State.sidebandIn_down {l : Nat} (h : (s.flink (2 + l)).aligned = false) (z : Bool) : s.sidebandIn l z = s :=
  if_pos (by rw [h]; rfl)

theorem State.sidebandIn_warm {l : Nat} (h : (s.flink (2 + l)).aligned = true) :
    s.sidebandIn l false = (s.sideband 1 (some l)).warmReset 1 := if_neg (by rw [h]; exact Bool.false_ne_true)

theorem State.sidebandIn_zero {l : Nat} (h : (s.flink (2 + l)).aligned = true) :
    s.sidebandIn l true = (s.sideband 2 (some l)).coldReset s.part 3 := by
  have he : s.sidebandIn l true = (s.sideband 2 (some l)).zeroiseHere := if_neg (by rw [h]; exact Bool.false_ne_true)
  rw [he, State.zeroiseHere, s.sideband_frame]

/-- Settles O57: the relay of the sideband's messages is the model's choice (log 3). -/
theorem zeroiseAndSideband : Obligations.ZeroiseAndSideband := by
  refine ⟨⟨fun s hh => ?zero, fun s hh => congrArg Host.Outcome.next (if_neg (by rw [hh]; exact Bool.false_ne_true)), fun s => ?entropy⟩,
    fun l s => ⟨fun ha z => congrArg Host.Outcome.next (State.sidebandIn_down ha z), fun ha => ?message⟩⟩
  case zero =>
    have he : exec .zeroise s = .next _ := congrArg Host.Outcome.next (State.zeroise_head hh)
    have hz := (s.sideband 2 none).zeroised s.part
    exact ⟨he, _, he, rfl, rfl, rfl, rfl, rfl, rfl, rfl, hz.1, hz.2.1, rfl, hz.2.2⟩
  case entropy =>
    refine ⟨rfl, _, rfl, State.logEv_sec _ _ _, ?_⟩
    have h : State.sameButLog _ _ := (s.modSec fun x => { x with entropyOk := false }).logEv_frame evEntropy 0
    generalize (s.modSec fun x => { x with entropyOk := false }).logEv evEntropy 0 = t at h ⊢
    rw [h]
    rfl
  case message =>
    have hw : exec (.ucieSideband l false) s = .next _ := congrArg Host.Outcome.next (State.sidebandIn_warm ha)
    have hz : exec (.ucieSideband l true) s = .next _ := congrArg Host.Outcome.next (State.sidebandIn_zero ha)
    have hk := WarmKept.of_frame (s.sideband_frame 1 (some l.toNat)) (State.warmKept_warmReset _ 1)
    have hz' := (s.sideband 2 (some l.toNat)).zeroised s.part
    refine ⟨hw, hz, ⟨_, hw, State.regF_cause_warmReset (by decide), rfl, rfl, ?_, rfl, rfl, ?_⟩,
      ⟨_, hz, rfl, rfl, rfl, rfl, hz'.1, hz'.2.1, rfl, rfl, rfl⟩⟩
    · show (s.sideband 1 (some l.toNat)).sec.k1 = _
      rw [s.sideband_frame]
    · show (s.sideband 1 (some l.toNat)).hall = _
      rw [s.sideband_frame]
end Sys2Proof.Machine
end

section
/-! SUPPORT. Recess: its entry, the stop of the functional clock and its return. -/

namespace Sys2Proof.Machine
variable {s t : State}

/-- The functional clock has stopped: the operating step that waits is taken. -/
def State.clockStopped (s : State) : State := (s.modPins fun p => { p with fclkEn := false }).takeStep

/-- The functional clock runs again. -/
def State.clockRuns (s : State) : State := s.modPins fun p => { p with fclkEn := true }

/-- The form is useful: out of recess, with a reading due where one is. -/
def State.useful (s : State) : State := s.modPwr fun p => { p with st := 2, entering := false, readDue := p.readDue || s.wakeReading }

/-- RECESS_ENTRY's conditions. -/
def State.recessReady (s : State) : Prop := s.recessEn = true ∧ s.pins.fclkReq = true ∧ s.pins.fclkEn = true ∧ s.quiet = true

theorem State.recessEntry_iff (s : State) :
    (!s.recessEn || !s.pins.fclkReq || !s.pins.fclkEn || !s.quiet) = true ↔ ¬ s.recessReady := by
  rw [State.recessReady]
  cases s.recessEn <;> cases s.pins.fclkReq <;> cases s.pins.fclkEn <;> cases s.quiet <;> decide

theorem State.recessEntry_deep (s : State) : (!s.retain && s.tut.st == 0 && !s.t0Allocated) = true ↔
    s.retain = false ∧ s.tut.st = 0 ∧ s.t0Allocated = false := by
  rw [Bool.and_eq_true, Bool.and_eq_true, Bool.not_eq_true', Bool.not_eq_true', beq_iff_eq, and_assoc]

theorem State.recessEntry_ready (h : s.recessReady) : s.recessEntry = { s with
    pwr := { s.pwr with entering := true, from_ := if s.retain = false ∧ s.tut.st = 0 ∧ s.t0Allocated = false then 3 else 2 }
    pins := { s.pins with fclkReq := false } } := by
  rw [State.recessEntry, if_neg (not_not.mpr h ∘ s.recessEntry_iff.mp)]
  dsimp only
  rw [if_congr s.recessEntry_deep rfl rfl]
  rfl

theorem State.fclkLowered_applying (hr : s.pins.fclkReq = false) (ha : s.pwr.applying = true) : s.fclkLowered =
    (s.clockStopped.modPwr fun p => { p with applying := false, st := 2, entering := false }).modPins fun p => { p with fclkReq := true } := by
  rw [State.fclkLowered, if_neg (ne_true_of_eq_false hr)]
  exact if_pos ha

theorem State.fclkLowered_recess (hr : s.pins.fclkReq = false) (ha : s.pwr.applying = false) : s.fclkLowered =
    if s.clockStopped.pwr.entering then s.clockStopped.modPwr fun p => { p with entering := false, st := p.from_ } else s.clockStopped := by
  rw [State.fclkLowered, if_neg (ne_true_of_eq_false hr)]
  exact if_neg (ne_true_of_eq_false ha)

theorem State.clockStopped_settled (hp : s.pwr.pend = none) : s.clockStopped = s.modPins fun p => { p with fclkEn := false } := by
  rw [State.clockStopped, State.takeStep]
  rw [show (s.modPins fun p => { p with fclkEn := false }).pwr.pend = none from hp]

theorem State.fclkRaised_stopped (he : s.pins.fclkEn = false) : s.fclkRaised = if (!s.clockRuns.pins.fclkReq) = true then s.clockRuns
    else if s.clockRuns.pwr.st = 3 then s.clockRuns.powerUp.useful else s.clockRuns.useful := by
  rw [State.fclkRaised, if_neg (ne_true_of_eq_false he)]
  show (if (!s.clockRuns.pins.fclkReq) = true then s.clockRuns else (if s.clockRuns.pwr.st = 3 then s.clockRuns.powerUp else s.clockRuns).useful) = _
  rw [apply_ite State.useful]

/-- Settles O58: what counts as quiet is the model's choice (log 54). -/
theorem recessFollowsClockPins : Obligations.RecessFollowsClockPins := by
  intro s ready low high use
  refine ⟨fun h => congrArg _ (State.recessEntry_ready h), fun h => congrArg Host.Outcome.next (if_pos (s.recessEntry_iff.mpr h)),
    fun h => congrArg Host.Outcome.next (if_pos h), fun hr ha => congrArg Host.Outcome.next (State.fclkLowered_applying hr ha),
    fun hr ha => congrArg Host.Outcome.next (State.fclkLowered_recess hr ha), fun hr ha hp he => ?stop,
    fun h => congrArg Host.Outcome.next (if_pos h), fun he hr => ?idle, fun he hr hs => ?awake, fun he hr hs => ?powered⟩
  case stop =>
    have hc := State.clockStopped_settled hp
    have hf : s.fclkLowered = (s.modPins fun p => { p with fclkEn := false }).modPwr fun p => { p with entering := false, st := p.from_ } := by
      rw [State.fclkLowered_recess hr ha, hc]
      exact if_pos he
    exact ⟨_, congrArg Host.Outcome.next hf, rfl, rfl, rfl, rfl⟩
  case idle =>
    exact congrArg Host.Outcome.next ((State.fclkRaised_stopped he).trans (if_pos (congrArg not hr)))
  case awake =>
    exact congrArg Host.Outcome.next ((State.fclkRaised_stopped he).trans
      ((if_neg (ne_true_of_eq_false (congrArg not hr))).trans (if_neg hs)))
  case powered =>
    exact congrArg Host.Outcome.next ((State.fclkRaised_stopped he).trans
      ((if_neg (ne_true_of_eq_false (congrArg not hr))).trans (if_pos hs)))
end Sys2Proof.Machine
end

section
/-! SUPPORT. The governor, droop, the slack readings, telemetry and the operating points. -/

namespace Sys2Proof.Machine
variable {s t : State}

/-! ## The governor -/

/-- A window's duty: the grant `g` against the estimate `est`. -/
theorem PwrSt.govern_over {p : PwrSt} {g est : Nat} (h : g < est) :
    (1 < p.duty → (p.govern g est).duty = p.duty - 1 ∧ (p.govern g est).streamDuty = p.streamDuty)
      ∧ (p.duty ≤ 1 → (p.govern g est).duty = p.duty ∧ (p.govern g est).streamDuty = max 1 (p.streamDuty - 1)) := by
  rw [PwrSt.govern, if_pos h]
  exact ⟨fun h1 => by rw [if_pos h1]; exact ⟨rfl, rfl⟩, fun h1 => by rw [if_neg (Nat.not_lt.mpr h1)]; exact ⟨rfl, rfl⟩⟩

theorem PwrSt.govern_well {p : PwrSt} {g est : Nat} (h : 16 * est ≤ 15 * g) :
    (p.govern g est).duty = min 16 (p.duty + 1) ∧ (p.govern g est).streamDuty = min 16 (p.streamDuty + 1) := by
  rw [PwrSt.govern, if_neg (show ¬ g < est by omega), if_pos h]
  exact ⟨rfl, rfl⟩

theorem PwrSt.govern_near {p : PwrSt} {g est : Nat} (h : 15 * g < 16 * est) (h' : est ≤ g) : p.govern g est = p := by
  rw [PwrSt.govern, if_neg (Nat.not_lt.mpr h'), if_neg (Nat.not_le.mpr h)]

theorem State.wf_logEv (e : Ev) (low : Nat) (h : Tab.wf s.regs = true) : Tab.wf (s.logEv e low).regs = true := by
  have entry : ∀ {t : State} (u c d : Nat), Tab.wf t.regs = true → Tab.wf (t.logEntry u c d).regs = true := fun {t} u c d ht => by
    obtain ⟨hw, -⟩ := State.logPlace_reg (s := t) u c d ht
    rw [State.logEntry_eq]
    split
    · exact Tab.wf_put _ _ (Tab.wf_put _ _ hw)
    · exact hw
  unfold State.logEv
  refine entry _ _ _ (State.wf_evSet e ?_)
  split
  · exact h
  · exact Tab.wf_put _ _ h

/-- A grant below the least is logged when it is the first. -/
def State.grantNoted (s : State) (g : Nat) : State :=
  if (decide (g < 10) && !s.pwr.lowLogged) = true then s.logEv evGrantLow 0 else s

theorem State.grantNoted_frame (s : State) (g : Nat) : s.sameButLog (s.grantNoted g) := by
  unfold State.grantNoted
  split
  · exact s.logEv_frame _ _
  · rfl

theorem State.wf_grantNoted (g : Nat) (h : Tab.wf s.regs = true) : Tab.wf (s.grantNoted g).regs = true := by
  unfold State.grantNoted
  split
  · exact State.wf_logEv _ _ h
  · exact h

/-- The throttle counters count the window. -/
def State.throttled (s : State) : State :=
  let s := if s.pwr.duty < 16 then s.incF aPwrThrottle 32 32 1 else s
  if (s.pwr.droopHeld && decide (s.droopDuty < s.pwr.duty)) = true then s.incF aPwrThrottle 0 32 1 else s

theorem State.throttled_frame (s : State) : s.sameButRegs s.throttled := by
  unfold State.throttled
  dsimp only
  split_ifs <;> rfl

theorem State.reg_throttled {a : Nat} (h : a ≠ aPwrThrottle) : s.throttled.reg a = s.reg a := by
  unfold State.throttled
  dsimp only
  split_ifs
  · exact (State.reg_incF_ne _ h).trans (State.reg_incF_ne _ h)
  · exact State.reg_incF_ne _ h
  · exact State.reg_incF_ne _ h
  · rfl

/-- The window recorded, before its throttle counters: duty, pins, PWR_GRANT and PWR_EST. -/
def State.windowNoted (s : State) (g est peak : Nat) : State :=
  let u : State := { s with
    pwr := { s.pwr.govern (max g 10) est with lowLogged := decide (g < 10) }
    pins := { s.pins with grant := g, pwrReq := powerRequest peak } }
  let u := u.setReg aPwrGrant (word (at_ 32 (powerRequest peak) + g))
  u.setReg aPwrEst (word (at_ 32 (max est (u.regF aPwrEst 32 16)) + est))

theorem State.governor_eq (s : State) (g est peak : Nat) : s.governor g est peak =
    let t := ((s.grantNoted g).windowNoted g est peak).throttled
    if t.tut.st = 0 then t.changeStep else t := rfl

theorem State.reg_windowNoted {g est peak : Nat} (hw : Tab.wf s.regs = true) (he : est < 2 ^ 16) :
    (s.windowNoted g est peak).reg aPwrGrant = word (at_ 32 (powerRequest peak) + g)
      ∧ fld ((s.windowNoted g est peak).reg aPwrEst) 0 16 = est := by
  unfold State.windowNoted
  dsimp only
  refine ⟨(State.reg_setReg_ne _ _ (by decide)).trans (State.reg_setReg_same _ _ hw), ?_⟩
  rw [State.reg_setReg_same _ _ (Tab.wf_put _ _ hw)]
  generalize max est _ = m
  rw [fld, word, at_, BitVec.toNat_ofNat, Nat.shiftLeft_eq, Nat.shiftRight_zero]
  omega

/-- What the window leaves: the duty by the rule, PWR_GRANT and PWR_EST, and nothing of the stores. -/
theorem State.window_spec {g est peak : Nat} (hw : Tab.wf s.regs = true) (he : est < 2 ^ 16) :
    ∃ t : State, s.governor g est peak = (if s.tut.st = 0 then t.changeStep else t)
      ∧ t.pwr = { s.pwr.govern (max g 10) est with lowLogged := decide (g < 10) }
      ∧ t.reg aPwrGrant = word (at_ 32 (powerRequest peak) + g) ∧ t.pins.grant = g ∧ t.regF aPwrEst 0 16 = est
      ∧ t.t0 = s.t0 ∧ t.lkrs = s.lkrs ∧ t.ques = s.ques := by
  have hn := s.grantNoted_frame g
  have hreg := State.reg_windowNoted (g := g) (peak := peak) (State.wf_grantNoted g hw) he
  have hg := s.governor_eq g est peak
  have hth := ((s.grantNoted g).windowNoted g est peak).throttled_frame
  have hr : ∀ a, a ≠ aPwrThrottle → _ = _ := fun a ha => State.reg_throttled (s := (s.grantNoted g).windowNoted g est peak) ha
  have hwin : (s.grantNoted g).windowNoted g est peak = { s with
      regs := ((s.grantNoted g).windowNoted g est peak).regs
      err := { s.err with armed := (s.grantNoted g).err.armed }
      pwr := { s.pwr.govern (max g 10) est with lowLogged := decide (g < 10) }
      pins := { s.pins with grant := g, pwrReq := powerRequest peak } } := by
    generalize s.grantNoted g = n at hn ⊢
    rw [hn]
    rfl
  generalize (s.grantNoted g).windowNoted g est peak = w at *
  have hf : w.throttled = _ := hth
  rw [hwin] at hf
  refine ⟨w.throttled, ?_, ?_, (hr _ (by decide)).trans hreg.1, ?_, (congrArg (fld · 0 16) (hr _ (by decide))).trans hreg.2, ?_, ?_, ?_⟩
  · rw [hg]
    show (if w.throttled.tut.st = 0 then _ else _) = _
    rw [show w.throttled.tut = s.tut by rw [hth, hwin]]
  all_goals rw [hth, hwin]

/-! ## Droop -/

theorem State.droopOn_raised (h : s.pins.droop = false) : s.droopOn =
    ({ s with pins := { s.pins with droop := true }, pwr := { s.pwr with droopHeld := true } } : State).logEv evDroop 0 :=
  if_neg (ne_true_of_eq_false h)

/-- Settles O59: that both duties rise together up to 16, and the request's sum with its floor of 10, are the model's choice (log 54). -/
theorem dutyOfBenches : Obligations.DutyOfBenches := by
  refine ⟨fun g e p s hw => ?window, fun s => ⟨fun h => ?on, fun h => ⟨congrArg Host.Outcome.next (if_pos h), congrArg Host.Outcome.next (if_pos h)⟩,
    rfl, fun h => congrArg Host.Outcome.next (if_neg (ne_true_of_eq_false h))⟩⟩
  case window =>
    obtain ⟨t, ht, hp, hgr, hpin, hest, h0, hl, hq⟩ := State.window_spec (g := g.toNat) (peak := p.toNat) hw e.isLt
    refine ⟨t, congrArg Host.Outcome.next ht, ?_, ?_, ?_, ?_, hgr, hpin, hest, h0, hl, hq⟩
    all_goals rw [hp]
    · exact fun h => (PwrSt.govern_over h).1
    · exact fun h => (PwrSt.govern_over h).2
    · exact PwrSt.govern_well
    · exact fun h h' => by rw [PwrSt.govern_near h h']; exact ⟨rfl, rfl⟩
  case on =>
    have hl : State.sameButLog _ _ := State.logEv_frame
      (s := { s with pins := { s.pins with droop := true }, pwr := { s.pwr with droopHeld := true } }) evDroop 0
    refine ⟨_, congrArg Host.Outcome.next (State.droopOn_raised h), ?_⟩
    generalize State.logEv _ evDroop 0 = t at hl ⊢
    rw [hl]
    exact ⟨rfl, rfl, Nat.min_le_left _ _, rfl⟩
end Sys2Proof.Machine
end

section
/-! SUPPORT. The slack readings, telemetry and the operating points. -/

namespace Sys2Proof.Machine
variable {s t : State}

/-! ## Slack readings -/

/-- A reading recorded, with REF `r`. -/
def State.slackNoted (s : State) (sl worst r : Nat) : State :=
  ({ s with pwr := { s.pwr with readDue := false, confirm := false, ref := some r } } : State).setReg aPwrSlack
    (word (at_ 32 s.seconds + at_ 24 worst + at_ 12 r + sl))

/-- The reading makes the ceiling anew. -/
def State.slackReplans (s : State) (sl : Nat) : Bool :=
  decide (sl < s.slackMin) || (!s.pwr.confirm && s.pwr.ref.any fun r => decide (sl + 20 ≤ r))

theorem State.monitor_due {sl worst : Nat} (h : s.pwr.readDue = true) : s.monitor sl worst =
    if s.slackReplans sl = true then (s.slackNoted sl worst sl).replan sl worst s.pwr.ref
    else s.slackNoted sl worst (if s.pwr.confirm = true then sl else s.pwr.ref.getD sl) := by
  rw [State.monitor, if_neg (by rw [h]; exact Bool.false_ne_true)]
  show (if s.slackReplans sl = true
    then (s.slackNoted sl worst (if (s.slackReplans sl || s.pwr.confirm) = true then sl else s.pwr.ref.getD sl)).replan sl worst s.pwr.ref
    else s.slackNoted sl worst (if (s.slackReplans sl || s.pwr.confirm) = true then sl else s.pwr.ref.getD sl)) = _
  cases s.slackReplans sl with
  | false => rw [if_neg Bool.false_ne_true, if_neg Bool.false_ne_true, Bool.false_or]
  | true => rw [if_pos rfl, if_pos rfl, Bool.true_or, if_pos rfl]

theorem State.slackReplans_first {sl : Nat} (h : s.pwr.ref = none) : s.slackReplans sl = decide (sl < s.slackMin) := by
  rw [State.slackReplans, h, Option.any_none, Bool.and_false, Bool.or_false]

theorem State.slackReplans_iff {sl r : Nat} (h : s.pwr.ref = some r) :
    s.slackReplans sl = true ↔ sl < s.slackMin ∨ (s.pwr.confirm = false ∧ sl + 20 ≤ r) := by
  rw [State.slackReplans, h, Option.any_some, Bool.or_eq_true, Bool.and_eq_true, decide_eq_true_iff, decide_eq_true_iff, Bool.not_eq_true']

theorem State.newCeiling_le (s : State) (sl : Nat) : (s.newCeiling sl).getD 0 ≤ s.pwr.ceiling := by
  cases h : s.newCeiling sl with
  | none => exact Nat.zero_le _
  | some k =>
    have hm := List.mem_of_find?_eq_some h
    rw [List.mem_reverse, List.mem_range] at hm
    exact Nat.le_of_lt_succ hm

theorem State.ceiling_changeStep (s : State) : s.changeStep.pwr.ceiling = s.pwr.ceiling := by
  unfold State.changeStep State.takeStep
  split
  · rfl
  split
  · split <;> rfl
  · rfl

theorem State.ceiling_retarget (s : State) : s.retarget.pwr.ceiling = s.pwr.ceiling := by
  unfold State.retarget
  dsimp only
  split
  · exact State.ceiling_changeStep _
  · rfl

theorem State.wearLog_pwr (s : State) (old new worst sl ref cause : Nat) : (s.wearLog old new worst sl ref cause).pwr = s.pwr := rfl

/-- A new plan's ceiling is the best point that the reading allows, from the old one down. -/
theorem State.ceiling_replan (s : State) (sl worst : Nat) (ref : Option Nat) :
    (s.replan sl worst ref).pwr.ceiling = (s.newCeiling sl).getD 0 := by
  unfold State.replan
  rw [State.ceiling_retarget]
  cases ref with
  | none =>
    dsimp only
    rw [State.logEv_pwr]
    rfl
  | some r =>
    dsimp only
    rw [State.wearLog_pwr, State.logEv_pwr]
    rfl

theorem State.ceiling_monitor (s : State) (sl worst : Nat) : (s.monitor sl worst).pwr.ceiling ≤ s.pwr.ceiling := by
  cases h : s.pwr.readDue with
  | false =>
    rw [State.monitor, if_pos (by rw [h]; rfl)]
  | true =>
    rw [State.monitor_due h]
    split
    · rw [State.ceiling_replan]
      exact (s.slackNoted sl worst sl).newCeiling_le sl
    · exact Nat.le_refl _

/-! ## Telemetry and the operating points -/

/-- A positive reading in LINEAR11 with exponent 0 is its mantissa in thousandths. -/
theorem linear11_small {w : Nat} (h : w < 1024) : linear11 w = ((w : Int) * 1000, 1) := by
  have he : signed 5 (w / 2048 % 32) = 0 := by
    rw [Nat.div_eq_of_lt (by omega : w < 2048)]
    rfl
  have hy : signed 11 (w % 2048) = w := by
    rw [signed, Nat.mod_eq_of_lt (by omega)]
    exact if_neg (by omega)
  rw [linear11, he, hy]
  simp

/-- PWR_VIN once the millivolts are known. -/
def State.vinNoted (s : State) (mv : Nat) (bad : Bool) : State :=
  let u := s.setReg aPwrVin (word (at_ 32 1 + mv))
  (if (bad && !u.pwr.vinBad) = true then u.logEv evVinRange 0 else u).modPwr fun p => { p with vinBad := bad }

theorem State.vinWord_of {w d mv : Nat} {n : Int} {bad : Bool} (hl : linear11 w = (n, d)) (hm : n.tdiv d = mv) (hr : (mv : Int) < 2 ^ 32)
    (hb : decide (n < 32400 * d ∨ 66000 * d < n) = bad) : s.vinWord w = s.vinNoted mv bad := by
  rw [State.vinWord, hl]
  dsimp only
  rw [hm, if_pos (show (0 : Int) ≤ (mv : Int) ∧ (mv : Int) < 2 ^ 32 from ⟨Int.natCast_nonneg mv, hr⟩), hb, Int.toNat_natCast]
  dsimp only
  rw [State.vinNoted]

theorem State.vinWord_small {w : Nat} (h : w < 1024) :
    s.vinWord w = s.vinNoted (1000 * w) (decide (1000 * w < 32400 ∨ 66000 < 1000 * w)) := by
  refine State.vinWord_of (linear11_small h) ?_ (by omega) (decide_eq_decide.mpr (by omega))
  rw [Nat.cast_one, Int.tdiv_one]
  omega

theorem State.reg_vinNoted {mv : Nat} {bad : Bool} {a : Nat} (ha : offLog a = true) :
    (s.vinNoted mv bad).reg a = (s.setReg aPwrVin (word (at_ 32 1 + mv))).reg a := by
  unfold State.vinNoted
  dsimp only
  split
  · exact State.reg_logEv _ _ ha
  · rfl

/-- A telemetry word in its field. -/
theorem State.telemetry_field {c w lo : Nat} (h : telemField c = some lo) (hc : c ≠ 0x88) : s.telemetry c w = s.setF aPwrTelem lo 16 w := by
  rw [State.telemetry, h]
  exact if_neg hc

theorem State.telemetry_spec {c lo : Nat} (w : BitVec 16) (hw : Tab.wf s.regs = true) (h : telemField c = some lo) (hc : c ≠ 0x88)
    (hl : lo + 16 ≤ 64) : (s.telemetry c w.toNat).regF aPwrTelem lo 16 = w.toNat ∧ s.sameButRegs (s.telemetry c w.toNat) := by
  rw [State.telemetry_field h hc]
  exact ⟨(State.regF_setF_same (s := s) w.toNat hw hl).trans (Nat.mod_eq_of_lt w.isLt), rfl⟩

theorem State.followVid_frame (s : State) : s.followVid = { s with pins := { s.pins with pwrVid := s.followVid.pins.pwrVid } } := by
  unfold State.followVid
  split <;> rfl

/-- Settles O60: that the first reading below SLACK_MIN re-plans without an entry of the wear log is the model's choice (log 77). -/
theorem readingsAndTelemetry : Obligations.ReadingsAndTelemetry := by
  refine ⟨fun sl w s hw => ⟨fun h => ?ignored, fun h hr => ?initial, fun r h hr => ?later, _, rfl, State.ceiling_monitor _ _ _⟩,
    ⟨fun w s hw => ⟨⟨_, rfl, State.telemetry_spec w hw rfl (by decide) (by decide)⟩, ⟨_, rfl, State.telemetry_spec w hw rfl (by decide) (by decide)⟩,
      ⟨_, rfl, State.telemetry_spec w hw rfl (by decide) (by decide)⟩, rfl, fun h => ?vin⟩, fun c w s h => ?other,
      fun k v s h => congrArg Host.Outcome.next (if_pos h), fun k v s h hw => ?point⟩⟩
  case ignored => exact congrArg Host.Outcome.next (if_pos (by rw [h]; rfl))
  case initial =>
    refine congrArg Host.Outcome.next ((State.monitor_due h).trans ?_)
    rw [State.slackReplans_first hr, hr, Option.getD_none, ite_self, if_congr decide_eq_true_iff rfl rfl]
    rfl
  case later =>
    intro replans
    have hd := State.monitor_due (sl := sl.toNat) (worst := w.toNat) h
    rw [hr] at hd
    exact ⟨fun hp => congrArg Host.Outcome.next (hd.trans (if_pos ((State.slackReplans_iff hr).mpr hp))),
      fun hp => congrArg Host.Outcome.next (hd.trans (if_neg (mt (State.slackReplans_iff hr).mp hp)))⟩
  case vin =>
    refine ⟨_, congrArg Host.Outcome.next (State.vinWord_small (s := s.setF aPwrTelem 0 16 w.toNat) h), ?_, ?_, rfl⟩
    · have ht : offLog aPwrTelem = true := by decide
      refine (congrArg (fld · 0 16) ((State.reg_vinNoted ht).trans (State.reg_setReg_ne _ _ (by decide)))).trans ?_
      exact (State.regF_setF_same (s := s) w.toNat hw (by decide)).trans (Nat.mod_eq_of_lt w.isLt)
    · have hv : offLog aPwrVin = true := by decide
      exact (State.reg_vinNoted hv).trans (State.reg_setReg_same _ _ (State.setF_wf _ hw))
  case other =>
    show Host.Outcome.next (s.telemetry c.toNat w.toNat) = _
    rw [State.telemetry, h]
  case point =>
    have hf := (s.setReg (aPwrVf + 8 * k.toNat) (v &&& vfMask)).followVid_frame
    refine ⟨_, congrArg Host.Outcome.next (if_neg (ne_true_of_eq_false h)), ?_⟩
    generalize (s.setReg (aPwrVf + 8 * k.toNat) (v &&& vfMask)).followVid = t at hf ⊢
    rw [hf]
    exact ⟨State.reg_setReg_same _ _ hw, rfl⟩
end Sys2Proof.Machine
end

section
/-! SUPPORT. MOVE, RECALL, READ and RELEASE. -/

namespace Sys2Proof.Machine
variable {s t : State}

/-! ## Accepted and refused commands -/

theorem State.atIssue_of_issuedTo {q op : Nat} {x : Cmd × Option EntTag} (h : s.issuedTo q op = some x) : s.atIssue q = some x :=
  (Option.filter_eq_some_iff.mp h).1

/-- The command that stands to be accepted is the one at issue. -/
theorem State.flights_acceptCmd {q : Nat} {c : Cmd} {tag : Option EntTag} (h : s.atIssue q = some (c, tag)) (done : Bool) :
    (s.acceptCmd q done).flights = s.flights ++ [Machine.accepted q c tag done] := by
  have hc : (if (s.que q).late = true then some (s.headOf q) else s.curCmd q) = some (c, tag) := by
    rw [State.atIssue] at h
    by_cases hl : (s.que q).late = true
    · rwa [if_pos hl] at h ⊢
    · rw [if_neg hl] at h ⊢
      exact (Option.ite_none_right_eq_some.mp h).2
  unfold State.acceptCmd
  rw [hc]
  dsimp only
  split
  · rfl
  · split <;> rfl

/-- The log's entry and the statistics of a refused locker command. -/
def State.lkrRefusalNoted (s : State) (e : Ev) (l tier : Nat) : State :=
  let s := s.logEv e (lkrErr l tier 0)
  if e = evLkrStale then s.incF aLkrStats 16 16 1 else if e = evLkrNoSpace then s.incF aLkrStats 0 16 1 else s

theorem State.lkrRefusalNoted_frame (s : State) (e : Ev) (l tier : Nat) : s.sameButLog (s.lkrRefusalNoted e l tier) := by
  have h := s.logEv_frame e (lkrErr l tier 0)
  unfold State.lkrRefusalNoted
  dsimp only
  generalize s.logEv e (lkrErr l tier 0) = u at h ⊢
  split_ifs
  · rw [h]
    rfl
  · rw [h]
    rfl
  · exact h

/-- A refused locker command stops its queue with the code, and HEAD stays. -/
theorem State.refuseLkr_spec {q : Nat} (hl : (s.que q).late = false) (e : Ev) (l tier : Nat) :
    let t := s.refuseLkr q e l tier
    (t.que q).run = .stopped ∧ (t.que q).code = e.code ∧ (t.que q).head = (s.que q).head
      ∧ t = { s with regs := t.regs, err := { s.err with armed := t.err.armed }, ques := t.ques, sync := t.sync } := by
  intro t
  have hn := s.lkrRefusalNoted_frame e l tier
  have ht : t = (s.lkrRefusalNoted e l tier).stopQueue q e.code := rfl
  generalize s.lkrRefusalNoted e l tier = u at hn ht
  have hq : u.que q = s.que q := by
    rw [hn]
    rfl
  have hf := u.haltQueue_frame q e.code
  have ha := u.que_haltQueue q e.code
  rw [State.stopQueue_eq (by rw [hq]; exact hl)] at ht
  rw [← ht] at hf ha
  clear_value t
  refine ⟨by rw [ha], by rw [ha], by rw [ha, hq], ?_⟩
  rw [hf, hn]

/-! ## MOVE and RECALL -/

/-- The entry of locker `l` once it moves to slot `f` of `tier`. -/
theorem State.lkr_startMove (s : State) (l tier f : Nat) (isRecall : Bool) : ((s.startMove l tier f isRecall false).lkr l).e =
    { (s.lkr l).e with
        st := lkMoving, src := (s.lkr l).e.tier, dest := tier, isRecall := isRecall, dslot := f, done := 0
        depoch := (s.reg aLkrEpoch).toNat } :=
  congrArg Locker.e (Tab.get_put_of_ne l fun h => absurd (congrArg (fun x : Locker => x.e.st) h : lkMoving = 0) (by decide))

/-- A move's start takes one epoch and changes the locker. -/
theorem State.startMove_frame (s : State) (l tier f : Nat) (isRecall : Bool) : s.startMove l tier f isRecall false = { s with
    regs := (s.setReg aLkrEpoch (s.reg aLkrEpoch + 1)).regs, lkrs := (s.startMove l tier f isRecall false).lkrs } := rfl

/-- A move's start, accepted and over. -/
def State.moveAccepted (s : State) (q l tier f : Nat) (isRecall : Bool) : State :=
  (s.startMove l tier f isRecall false).acceptCmd q true

theorem State.moveAccepted_spec {q : Nat} {c : Cmd} {tag : Option EntTag} (h : s.atIssue q = some (c, tag)) (l tier f : Nat) (isRecall : Bool) :
    let t := s.moveAccepted q l tier f isRecall
    (t.lkr l).e = { (s.lkr l).e with
        st := lkMoving, src := (s.lkr l).e.tier, dest := tier, isRecall := isRecall, dslot := f, done := 0
        depoch := (s.reg aLkrEpoch).toNat }
      ∧ t.regs = (s.setReg aLkrEpoch (s.reg aLkrEpoch + 1)).regs ∧ t.flights = s.flights ++ [Machine.accepted q c tag true] ∧ t.t0 = s.t0 := by
  intro t
  have ha := (s.startMove l tier f isRecall false).acceptCmd_frame q true
  have hf := s.startMove_frame l tier f isRecall
  have hl := s.lkr_startMove l tier f isRecall
  have ht : t = (s.startMove l tier f isRecall false).acceptCmd q true := rfl
  have hfl : t.flights = s.flights ++ [Machine.accepted q c tag true] :=
    State.flights_acceptCmd (s := s.startMove l tier f isRecall false) (by rw [hf]; exact h) true
  rw [← ht] at ha
  clear_value t
  generalize s.startMove l tier f isRecall false = u at *
  refine ⟨?_, ?_, hfl, ?_⟩
  · rw [State.lkr, ha]
    exact hl
  · rw [ha, hf]
  · rw [ha, hf]

theorem State.applyRecall_far {l tier f : Nat} (hs : (s.lkr l).e.st = lkPlaced) (ht : 2 ≤ (s.lkr l).e.tier)
    (hf : s.fit tier l (s.lkr l).e.len = some f) : s.applyRecall l tier = some (s.startMove l tier f true false) := by
  unfold State.applyRecall
  dsimp only
  rw [if_neg fun h => absurd h.2 (Nat.not_lt.mpr ht), hf, hs]
  rfl

theorem State.applyRecall_near {l tier : Nat} (hs : (s.lkr l).e.st = lkPlaced) (ht : (s.lkr l).e.tier < 2) :
    s.applyRecall l tier = some (s.enterRecalled l) := if_pos ⟨hs, ht⟩

theorem exec_lkrMove {q : BitVec 13} {c : Cmd} {tag : Option EntTag} {f : Nat} (hi : s.issuedTo q.toNat 0x11 = some (c, tag))
    (hc : s.lkrCheck c = none) (h4 : cPlace c < 4) (hp : s.tierPresent (cPlace c) = true) (hs : (s.lkr (cLocker c)).e.st = lkPlaced)
    (ht : (s.lkr (cLocker c)).e.tier ≠ cPlace c) (hr : (s.lkr (cLocker c)).rel = false)
    (hf : s.fit (cPlace c) (cLocker c) (s.lkr (cLocker c)).e.len = some f) :
    exec (.lkrMove q) s = .next (s.moveAccepted q.toNat (cLocker c) (cPlace c) f false) := by
  show execLkrMove q s = _
  unfold execLkrMove
  dsimp only
  rw [hi]
  dsimp only
  rw [hc]
  dsimp only
  rw [if_neg, hf]
  · rfl
  · rw [hp, hs, hr]
    rintro (h | h | h | h | h)
    exacts [absurd h (Nat.not_le.mpr h4), Bool.false_ne_true h, h rfl, ht h, Bool.false_ne_true h]

/-- A RECALL of a PLACED locker goes by the recall that its place asks for. -/
theorem exec_lkrRecall {q : BitVec 13} {c : Cmd} {tag : Option EntTag} {u : State} (hi : s.issuedTo q.toNat 0x12 = some (c, tag))
    (hc : s.lkrCheck c = none) (h2 : cPlace c < 2) (hp : s.tierPresent (cPlace c) = true) (hs : (s.lkr (cLocker c)).e.st = lkPlaced)
    (hr : (s.lkr (cLocker c)).rel = false) (hu : s.applyRecall (cLocker c) (cPlace c) = some u) :
    exec (.lkrRecall q) s = .next (u.acceptCmd q.toNat true) := by
  have hm : ¬ lkPlaced = lkMoving := by decide
  have hrc : ¬ lkPlaced = lkRecalled := by decide
  have h1 : ¬(2 ≤ cPlace c ∨ (!s.tierPresent (cPlace c)) = true ∨ (s.lkr (cLocker c)).rel = true) := by
    rw [hp, hr]
    rintro (h | h | h)
    exacts [absurd h (Nat.not_le.mpr h2), Bool.false_ne_true h, Bool.false_ne_true h]
  show execLkrRecall q s = _
  unfold execLkrRecall
  dsimp only
  rw [hi]
  dsimp only
  rw [hc]
  dsimp only
  rw [if_neg h1, hs, if_neg (not_or.mpr ⟨hrc, fun h => hm h.1⟩), if_neg hm, if_pos (Or.inl rfl), hu]

/-! ## READ and RELEASE -/

theorem exec_lkrRead {q : BitVec 13} {c : Cmd} {tag : Option EntTag} (hi : s.issuedTo q.toNat 0x13 = some (c, tag)) (hc : s.lkrCheck c = none)
    (hl : (s.lkr (cLocker c)).readIllegal (cConsume c) = false)
    (hn : ¬ (cConsume c = true ∧ (((s.lkr (cLocker c)).e.st = lkPlaced ∧ 2 ≤ (s.lkr (cLocker c)).e.tier)
      ∨ (s.lkr (cLocker c)).e.st = lkDropped))) :
    exec (.lkrRead q) s = .next ((s.acceptCmd q.toNat false).bindRead q.toNat (cLocker c) (cStream c) (cConsume c)) := by
  show execLkrRead q s = _
  unfold execLkrRead
  dsimp only
  rw [hi]
  dsimp only
  rw [hc]
  dsimp only
  rw [if_neg (ne_true_of_eq_false hl), if_neg hn]

theorem exec_lkrRelease {q : BitVec 13} {c : Cmd} {tag : Option EntTag} (hi : s.issuedTo q.toNat 0x14 = some (c, tag))
    (hc : s.lkrCheck c = none) (hs : (s.lkr (cLocker c)).e.st ≠ lkFree) :
    exec (.lkrRelease q) s = .next ((s.acceptCmd q.toNat true).releaseLkr (cLocker c)) := by
  show execLkrRelease q s = _
  unfold execLkrRelease
  dsimp only
  rw [hi]
  dsimp only
  rw [hc]
  dsimp only
  rw [if_neg hs]

/-- A locker check refuses the command in each of the four rows alike. -/
theorem exec_lockerRow_refused {op : Nat} {q : BitVec 13} {c : Cmd} {tag : Option EntTag} {e : Ev} (h0 : 0x11 ≤ op) (h1 : op ≤ 0x14)
    (hi : s.issuedTo q.toNat op = some (c, tag)) (hc : s.lkrCheck c = some e) :
    ∃ tier, exec (lockerRow op q) s = .next (s.refuseLkr q.toNat e (cLocker c) tier) := by
  obtain rfl | rfl | rfl | rfl : op = 0x11 ∨ op = 0x12 ∨ op = 0x13 ∨ op = 0x14 := by omega
  · exact ⟨cPlace c % 4, show execLkrMove q s = _ by simp only [execLkrMove, hi, hc]⟩
  · exact ⟨cPlace c % 4, show execLkrRecall q s = _ by simp only [execLkrRecall, hi, hc]⟩
  · exact ⟨0, show execLkrRead q s = _ by simp only [execLkrRead, hi, hc]⟩
  · exact ⟨0, show execLkrRelease q s = _ by simp only [execLkrRelease, hi, hc]⟩

/-- Settles O21. -/
theorem lockerCommands : Obligations.LockerCommands := by
  refine ⟨fun q c tag s hc hs hr hp => ⟨fun f hf => ?moving, fun hi h2 ht => ?near⟩,
    fun q c tag s => ⟨fun hi hc hl hn => exec_lkrRead hi hc hl hn, fun hi hc hs => exec_lkrRelease hi hc hs, fun op e h0 h1 hi hc hl => ?refused⟩⟩
  case moving =>
    intro moved
    exact ⟨fun hi h4 ht => ⟨_, exec_lkrMove hi hc h4 hp hs ht hr hf, State.moveAccepted_spec (State.atIssue_of_issuedTo hi) _ _ _ _⟩,
      fun hi h2 ht => ⟨_, exec_lkrRecall hi hc h2 hp hs hr (State.applyRecall_far hs ht hf),
        State.moveAccepted_spec (State.atIssue_of_issuedTo hi) _ _ _ _⟩⟩
  case near => exact exec_lkrRecall hi hc h2 hp hs hr (State.applyRecall_near hs ht)
  case refused =>
    obtain ⟨tier, he⟩ := exec_lockerRow_refused h0 h1 hi hc
    obtain ⟨hrun, hcode, hhead, hf⟩ := State.refuseLkr_spec hl e (cLocker c) tier
    exact ⟨_, he, hrun, hcode, hhead, by rw [hf]⟩
end Sys2Proof.Machine
end

section
/-! SUPPORT. OPEN. -/

namespace Sys2Proof.Machine
variable {s t u : State}

/-! ## The planner's pinned placements -/

/-- A pinned placement with room is taken as it is. -/
theorem State.choosePlace_pinned {i : PlnIn} {p : Nat} (again : Bool) (h0 : p ≠ 0) (h3 : p ≠ 3) (hok : s.placeOk i false p = true) :
    s.choosePlace i p again = (.place p, s) := by
  unfold State.choosePlace
  dsimp only
  rw [if_neg fun h => h0 h.2.2, if_neg h0, if_neg h0, if_neg fun h => h3 h.1, if_pos (Or.inr hok)]

/-- Queue `q` holds no OPEN any longer. -/
def State.unheld (s : State) (q : Nat) : State := { s with pln := { s.pln with held := s.pln.held.filter (·.queue != q) } }

theorem State.unheld_held (s : State) (q : Nat) : (s.unheld q).pln.held.any (·.queue == q) = false := by
  rw [List.any_eq_false]
  intro h hh
  exact bne_iff_ne.mp ((List.mem_filter.mp hh).2) ∘ beq_iff_eq.mp

theorem State.tryOpen_placed {q : Nat} {c : Cmd} {o : Nat} {again : Bool}
    (h : s.choosePlace (s.plnIn c none) (cPlace c) again = (.place o, s)) :
    s.tryOpen q c none again = ((s.unheld q).openAs c none (s.plnIn c none) o).acceptCmd q true := by
  have hw : s.widened c none = c := rfl
  unfold State.tryOpen
  dsimp only
  rw [hw, h]
  rfl

/-! ## The placement carried out -/

/-- The entry of an OPEN's locker before its slots. -/
def openedEnt (c : Cmd) (e : LkrEnt) : LkrEnt :=
  { e with st := lkOpen, cls := cClass c, prov := cProv c, fmt := cFormat c, len := cLength c, reads := cReads c
           need := cNeed c, ticket := cTicket c, done := 0, gen := (e.gen + 1) % 65536, src := 0, isRecall := false }

/-- Locker `l` of `t` has the entry that the OPEN `c` leaves, at slot `f` of `tier`; one epoch is taken, and only the registers and
the lockers change. -/
def State.OpenedAt (s t : State) (c : Cmd) (tier f : Nat) : Prop :=
  (t.lkr (cLocker c)).e = { openedEnt c (s.lkr (cLocker c)).e with tier := tier, first := f, epoch := (s.reg aLkrEpoch).toNat }
    ∧ t.reg aLkrEpoch = s.reg aLkrEpoch + 1 ∧ t = { s with regs := t.regs, lkrs := t.lkrs }

/-- A change of an open locker reads back. -/
theorem State.lkr_modLkr_open {l : Nat} (f : Locker → Locker) (h : (f (s.lkr l)).e.st = lkOpen) : (s.modLkr l f).lkr l = f (s.lkr l) :=
  Tab.get_put_of_ne l fun hd => absurd (h.symm.trans (congrArg (fun x : Locker => x.e.st) hd) : lkOpen = 0) (by decide)

theorem State.lkr_openEntry (s : State) (c : Cmd) :
    ((s.openEntry c none (cFormat c) (cLength c)).lkr (cLocker c)).e = openedEnt c (s.lkr (cLocker c)).e :=
  congrArg Locker.e (State.lkr_modLkr_open _ rfl)

theorem State.reg_takeEpoch (h : (s.reg aLkrEpoch).toNat + 1 < 2 ^ 64) : (s.setReg aLkrEpoch (s.reg aLkrEpoch + 1)).reg aLkrEpoch = s.reg aLkrEpoch + 1 := by
  refine Tab.get_put_of_ne aLkrEpoch fun hd => ?_
  have h1 := congrArg BitVec.toNat hd
  rw [BitVec.toNat_add, show (1 : Word).toNat = 1 from rfl, Nat.mod_eq_of_lt h] at h1
  exact Nat.succ_ne_zero _ h1

theorem State.openStored_fit {l tier f : Nat} (h : s.fit tier l (s.lkr l).e.len = some f) : s.openStored l tier =
    (s.setReg aLkrEpoch (s.reg aLkrEpoch + 1)).modLkr l fun x => { x with
      slotA := some (tier, f), drop := false, e := { x.e with tier := tier, first := f, epoch := (s.reg aLkrEpoch).toNat } } := by
  rw [State.openStored, h]
  rfl

/-- The slots of an OPEN. -/
theorem State.openedAt_stored {c : Cmd} {tier f : Nat} (hE : (s.reg aLkrEpoch).toNat + 1 < 2 ^ 64)
    (hf : (s.openEntry c none (cFormat c) (cLength c)).fit tier (cLocker c) (cLength c) = some f) :
    s.OpenedAt ((s.openEntry c none (cFormat c) (cLength c)).openStored (cLocker c) tier) c tier f := by
  have he := s.lkr_openEntry c
  have hfr : s.openEntry c none (cFormat c) (cLength c) = { s with lkrs := (s.openEntry c none (cFormat c) (cLength c)).lkrs } := rfl
  generalize s.openEntry c none (cFormat c) (cLength c) = a at *
  have hr : a.reg aLkrEpoch = s.reg aLkrEpoch := by
    rw [hfr]
    rfl
  rw [State.openStored_fit (by rw [he]; exact hf), hr]
  refine ⟨?_, ?_, ?_⟩
  · rw [State.lkr_modLkr_open _ (congrArg LkrEnt.st he)]
    show ({ (a.lkr (cLocker c)).e with tier := tier, first := f, epoch := (s.reg aLkrEpoch).toNat } : LkrEnt) = _
    rw [he]
  · rw [← hr]
    exact State.reg_takeEpoch (by rw [hr]; exact hE)
  · rw [hfr]
    rfl

/-- The backlog of T1 and the locker's share of it. -/
def State.backlogged (s : State) (l bytes : Nat) : State :=
  (s.setReg aPlnBacklogT1 (word (satAdd (2 ^ 48 - 1) s.backlogT1 bytes))).modLkr l fun x => { x with share := 32768, shareLast := 0, shareFar := false }

theorem State.OpenedAt.backlogged {c : Cmd} {tier f : Nat} (h : s.OpenedAt t c tier f) (bytes : Nat) :
    s.OpenedAt (t.backlogged (cLocker c) bytes) c tier f := by
  obtain ⟨he, hr, hf⟩ := h
  refine ⟨?_, (State.reg_setReg_ne _ _ (by decide)).trans hr, ?_⟩
  · rw [State.backlogged, State.lkr_modLkr_open]
    · exact he
    · exact congrArg LkrEnt.st he
  · exact Eq.trans (b := { t with regs := (t.backlogged (cLocker c) bytes).regs, lkrs := (t.backlogged (cLocker c) bytes).lkrs }) rfl
      (by rw [hf])

/-- Counters of the planner and the lockers leave an OPEN's locker and epoch alone. -/
theorem State.OpenedAt.regs {c : Cmd} {tier f : Nat} (h : s.OpenedAt t c tier f) (hu : t.sameButRegs u) (hr : u.reg aLkrEpoch = t.reg aLkrEpoch) :
    s.OpenedAt u c tier f := by
  obtain ⟨he, hr', hf⟩ := h
  refine ⟨?_, hr.trans hr', ?_⟩
  · rw [State.lkr, hu]
    exact he
  · rw [hu, hf]

/-- The decision counted, and the most lockers in use. -/
def State.openCounted (s : State) (lo : Nat) : State := (s.incF aPlnDec0 lo 32 1).noteHigh

theorem State.openCounted_frame (s : State) (lo : Nat) : s.sameButRegs (s.openCounted lo) := by
  unfold State.openCounted State.noteHigh
  split <;> rfl

theorem State.reg_openCounted (s : State) (lo : Nat) : (s.openCounted lo).reg aLkrEpoch = s.reg aLkrEpoch := by
  unfold State.openCounted State.noteHigh
  split
  · exact (State.reg_setF_ne _ (by decide)).trans (State.reg_incF_ne _ (by decide))
  · exact State.reg_incF_ne _ (by decide)

theorem State.openAs_t0 (s : State) (c : Cmd) (i : PlnIn) :
    s.openAs c none i 1 = ((s.openEntry c none i.fmt i.n).openStored i.l 0).openCounted 32 := rfl

theorem State.openAs_t1 (s : State) (c : Cmd) (i : PlnIn) :
    s.openAs c none i 2 = (((s.openEntry c none i.fmt i.n).openStored i.l 1).backlogged i.l i.bytes).openCounted 0 := rfl

/-- A placement in T0 or T1. -/
theorem State.openedAt_openAs {c : Cmd} {i : PlnIn} {o f : Nat} (ho : o = 1 ∨ o = 2) (hi : i.l = cLocker c ∧ i.fmt = cFormat c ∧ i.n = cLength c)
    (hE : (s.reg aLkrEpoch).toNat + 1 < 2 ^ 64)
    (hf : (s.openEntry c none (cFormat c) (cLength c)).fit (o - 1) (cLocker c) (cLength c) = some f) :
    s.OpenedAt (s.openAs c none i o) c (o - 1) f := by
  obtain ⟨hl, hfmt, hn⟩ := hi
  have h := State.openedAt_stored hE hf
  rcases ho with rfl | rfl
  · rw [State.openAs_t0, hl, hfmt, hn]
    exact h.regs (State.openCounted_frame _ _) (State.reg_openCounted _ _)
  · rw [State.openAs_t1, hl, hfmt, hn]
    exact (h.backlogged _).regs (State.openCounted_frame _ _) (State.reg_openCounted _ _)

/-- The accepted OPEN. -/
theorem State.OpenedAt.accept {q : Nat} {c : Cmd} {tier f : Nat} (h : s.OpenedAt t c tier f) (hi : s.atIssue q = some (c, none)) :
    Opened q c tier f s (t.acceptCmd q true) := by
  obtain ⟨he, hr, hf⟩ := h
  have hi' : t.atIssue q = some (c, none) := by
    rw [hf]
    exact hi
  have hfl := State.flights_acceptCmd hi' true
  have ha := t.acceptCmd_frame q true
  generalize t.acceptCmd q true = v at hfl ha ⊢
  have hv : (v.lkr (cLocker c)).e = _ := Eq.trans (by rw [ha]; rfl) he
  have hrv : v.reg aLkrEpoch = s.reg aLkrEpoch + 1 := Eq.trans (by rw [ha]; rfl) hr
  have h0 : v.t0 = s.t0 := by rw [ha, hf]
  have hflv : v.flights = s.flights ++ [Machine.accepted q c none true] := by rw [hfl, hf]
  unfold Opened
  dsimp only
  rw [hv]
  exact ⟨rfl, rfl, rfl, rfl, rfl, rfl, rfl, rfl, rfl, rfl, rfl, rfl, rfl, hrv, hflv, h0⟩

/-- An OPEN that finds room in T0 or T1. -/
theorem State.tryOpen_opened {q : Nat} {c : Cmd} {f : Nat} (again : Bool) (hi : s.atIssue q = some (c, none))
    (hE : (s.reg aLkrEpoch).toNat + 1 < 2 ^ 64)
    (hroom : (cPlace c = 1 ∧ cLength c + s.plT0Reserve ≤ s.largestFree 0 (cLocker c)) ∨
      (cPlace c = 2 ∧ cLength c ≤ s.largestFree 1 (cLocker c)))
    (hf : (s.openEntry c none (cFormat c) (cLength c)).fit (cPlace c - 1) (cLocker c) (cLength c) = some f) :
    Opened q c (cPlace c - 1) f s (s.tryOpen q c none again) ∧ (s.tryOpen q c none again).pln.held.any (·.queue == q) = false := by
  have ho : cPlace c = 1 ∨ cPlace c = 2 := hroom.imp And.left And.left
  have hok : s.placeOk (s.plnIn c none) false (cPlace c) = true := by
    rcases hroom with ⟨hp, hr⟩ | ⟨hp, hr⟩
    · rw [hp]
      exact decide_eq_true hr
    · rw [hp]
      exact Bool.and_eq_true_iff.mpr ⟨decide_eq_true hr, rfl⟩
  rw [State.tryOpen_placed (State.choosePlace_pinned again (by omega) (by omega) hok)]
  have h : (s.unheld q).OpenedAt ((s.unheld q).openAs c none (s.plnIn c none) (cPlace c)) c (cPlace c - 1) f :=
    State.openedAt_openAs ho ⟨rfl, rfl, rfl⟩ hE hf
  refine ⟨h.accept (s := s.unheld q) hi, ?_⟩
  rw [State.acceptCmd_frame, h.2.2]
  exact s.unheld_held q

/-! ## The rows -/

theorem exec_lkrOpen_tried {q : BitVec 13} {c : Cmd} {tag : Option EntTag} (hi : s.issuedTo q.toNat 0x10 = some (c, tag))
    (hh : s.pln.held.any (·.queue == q.toNat) = false) (hr : s.openRefusal c = none) :
    exec (.lkrOpen q) s = .next (s.tryOpen q.toNat c tag false) := by
  show execLkrOpen q s = _
  unfold execLkrOpen
  dsimp only
  rw [hi]
  dsimp only
  rw [if_neg (ne_true_of_eq_false hh), hr]

theorem exec_lkrOpen_refused {q : BitVec 13} {c : Cmd} {tag : Option EntTag} {e : Ev} (hi : s.issuedTo q.toNat 0x10 = some (c, tag))
    (hh : s.pln.held.any (·.queue == q.toNat) = false) (hr : s.openRefusal c = some e) :
    exec (.lkrOpen q) s = .next (s.refuseLkr q.toNat e (cLocker c) 0) := by
  show execLkrOpen q s = _
  unfold execLkrOpen
  dsimp only
  rw [hi]
  dsimp only
  rw [if_neg (ne_true_of_eq_false hh), hr]

theorem exec_heldOpenRetry {q : BitVec 13} {c : Cmd} {tag : Option EntTag} (hi : s.issuedTo q.toNat 0x10 = some (c, tag))
    (hh : s.pln.held.any (·.queue == q.toNat) = true) : exec (.heldOpenRetry q) s = .next (s.tryOpen q.toNat c tag true) := by
  show execHeldOpenRetry q s = _
  unfold execHeldOpenRetry
  dsimp only
  rw [if_pos hh, hi]

/-- Settles O20. -/
theorem openPlacesOrHolds : Obligations.OpenPlacesOrHolds := by
  refine ⟨fun q c f s hi hE hroom hf => ⟨fun hh hr => ?_, fun hh => ?_⟩,
    fun q c tag s hi => ⟨fun hh hr => exec_lkrOpen_tried hi hh hr, fun hh => exec_heldOpenRetry hi hh⟩, fun q c tag e s hi hl hh hr => ?_⟩
  · exact ⟨_, exec_lkrOpen_tried hi hh hr, (State.tryOpen_opened false (State.atIssue_of_issuedTo hi) hE hroom hf).1⟩
  · exact ⟨_, exec_heldOpenRetry hi hh, State.tryOpen_opened true (State.atIssue_of_issuedTo hi) hE hroom hf⟩
  · obtain ⟨hrun, hcode, hhead, hf⟩ := State.refuseLkr_spec hl e (cLocker c) 0
    exact ⟨_, exec_lkrOpen_refused hi hh hr, hrun, hcode, hhead, by rw [hf], by rw [hf], by rw [hf]⟩
end Sys2Proof.Machine
end
